-- ==== Sys2Proof/Word.lean ====
section
/-!
DEFINITION. Sys2Proof/Word.lean: the machine words of the device (02 R17, 03 R54, 18 R318) and
nothing else. Bit-field, sign-extension and byte-order helpers stand in Machine/Bits.lean.
-/

namespace Sys2Proof

/-- One byte of memory. -/
abbrev Byte := BitVec 8

/-- A half word: BF16 and FP16 codes, granule tags (12 R265). -/
abbrev Half := BitVec 16

/-- A 32-bit register or instruction word (02 R17). -/
abbrev Word := BitVec 32

/-- A 64-bit value: a register pair (03 R54) or a virtual address with its top byte (18 R317). -/
abbrev DWord := BitVec 64

/-- The 128 bits of a capability (18 R337). -/
abbrev Quad := BitVec 128

/-- A 48-bit program counter (03 R60). -/
abbrev Pc := BitVec 48

end Sys2Proof
end

