-- ==== Sys2Proof/Machine/Bits.lean ====
section
/-!
DEFINITION. Sys2Proof/Machine/Bits.lean: bit fields, sign extension, byte order and the sparse maps
that hold registers and memory (00 R2, 02 R44). Everything here may be mended by a later repair.
-/

namespace Sys2Proof.Machine

open Sys2Proof

/-! ### Bits and integers (02 R44) -/

/-- Bits `hi : lo` of `x`, as a natural number. -/
def bits (x hi lo : Nat) : Nat := x / 2 ^ lo % 2 ^ (hi + 1 - lo)

/-- Bit `i` of `x`. -/
def bit (x i : Nat) : Bool := x / 2 ^ i % 2 == 1

/-- `x` modulo 2^n, read as two's complement. -/
def toSigned (n x : Nat) : Int :=
  let y := x % 2 ^ n
  if y < 2 ^ (n - 1) then (y : Int) else (y : Int) - 2 ^ n

/-- The n-bit pattern of an integer. -/
def wrapI (n : Nat) (x : Int) : Nat := (x % (2 ^ n : Int)).toNat

/-- A 32-bit register from a natural number. -/
def w32 (x : Nat) : Word := BitVec.ofNat 32 x

/-- A 32-bit register from an integer. -/
def i32 (x : Int) : Word := BitVec.ofInt 32 x

/-- `lo` if `x < lo`, `hi` if `x > hi`, else `x`. -/
def satI (x lo hi : Int) : Int := if x < lo then lo else if hi < x then hi else x

/-- A truth value as a number. -/
def b2n (b : Bool) : Nat := if b then 1 else 0

/-- The quotient rounded up. -/
def ceilDiv (a b : Nat) : Nat := (a + b - 1) / b

/-- The low half of a 64-bit value. -/
def lo32 (x : DWord) : Word := BitVec.ofNat 32 x.toNat

/-- The high half of a 64-bit value. -/
def hi32 (x : DWord) : Word := BitVec.ofNat 32 (x.toNat / 2 ^ 32)

/-- A 64-bit value from its halves: the even register holds bits 31:0 (03 R54). -/
def pairOf (lo hi : Word) : DWord := BitVec.ofNat 64 (lo.toNat + hi.toNat * 2 ^ 32)

/-- Places the fields `(lo, width, value)` of a record in one number. -/
def packFields : List (Nat × Nat × Nat) → Nat
  | [] => 0
  | (lo, n, v) :: fs => v % 2 ^ n * 2 ^ lo + packFields fs

/-! ### Bytes (00 R2) -/

/-- The `n` bytes of `v`, least significant first. -/
def bytesOf (v : Nat) : Nat → List Byte
  | 0 => []
  | n + 1 => BitVec.ofNat 8 v :: bytesOf (v / 256) n

/-- The number whose little-endian bytes are given. -/
def fromBytes : List Byte → Nat
  | [] => 0
  | b :: bs => b.toNat + 256 * fromBytes bs

/-! ### Sparse maps: pairs with strictly rising keys; an unlisted key reads as the default -/

/-- The value at a key. -/
def sget {β : Type} (dflt : β) : List (Nat × β) → Nat → β
  | [], _ => dflt
  | (k, v) :: m, a => if k = a then v else sget dflt m a

/-- Lists a value at a key, in rising order. -/
def sins {β : Type} : List (Nat × β) → Nat → β → List (Nat × β)
  | [], a, v => [(a, v)]
  | (k, w) :: m, a, v =>
    if k = a then (a, v) :: m
    else if a < k then (a, v) :: (k, w) :: m
    else (k, w) :: sins m a v

/-- Removes a key. -/
def sdel {β : Type} : List (Nat × β) → Nat → List (Nat × β)
  | [], _ => []
  | (k, w) :: m, a => if k = a then sdel m a else (k, w) :: sdel m a

/-- Writes a value at a key; writing the default removes the entry, so equal maps are equal lists. -/
def sput {β : Type} [DecidableEq β] (dflt : β) (m : List (Nat × β)) (a : Nat) (v : β) :
    List (Nat × β) :=
  if v = dflt then sdel m a else sins m a v

/-- Keys strictly rise from `lo` on, and no entry holds the default. -/
def swfFrom {β : Type} [DecidableEq β] (dflt : β) : Nat → List (Nat × β) → Bool
  | _, [] => true
  | lo, (k, v) :: m => decide (lo ≤ k) && decide (v ≠ dflt) && swfFrom dflt (k + 1) m

/-- The canonical form of a sparse map. -/
def swf {β : Type} [DecidableEq β] (dflt : β) (m : List (Nat × β)) : Bool := swfFrom dflt 0 m

/-- Keeps the entries whose key lies below `lo` or at or above `lo + n`. -/
def sclear {β : Type} (m : List (Nat × β)) (lo n : Nat) : List (Nat × β) :=
  m.filter (fun c => decide (c.1 < lo) || decide (lo + n ≤ c.1))

/-! ### Lists -/

/-- Replaces the element at an index by its image. -/
def updateAt {α : Type} (f : α → α) : Nat → List α → List α
  | _, [] => []
  | 0, x :: xs => f x :: xs
  | n + 1, x :: xs => x :: updateAt f n xs

/-- The list without the element at an index. -/
def removeAt {α : Type} : Nat → List α → List α
  | _, [] => []
  | 0, _ :: xs => xs
  | n + 1, x :: xs => x :: removeAt n xs

/-- Replaces every element that meets a test by its image. -/
def updateWhere {α : Type} (p : α → Bool) (f : α → α) (xs : List α) : List α :=
  xs.map (fun x => if p x then f x else x)

/-- Inserts in increasing order of a key, after equal keys. -/
def insertByKey {α : Type} (key : α → Nat) (x : α) : List α → List α
  | [] => [x]
  | y :: ys => if key x < key y then x :: y :: ys else y :: insertByKey key x ys

/-- The numbers of a list in increasing order without repeats. -/
def sortNats : List Nat → List Nat
  | [] => []
  | x :: xs =>
    let r := sortNats xs
    if r.contains x then r else insertByKey id x r

end Sys2Proof.Machine
end

