-- ==== Sys2Proof/Syntax.lean ====
section
/-!
DEFINITION. Sys2Proof/Syntax.lean: every row of the opcode table as one constructor of `Instr`.
The instruction words come first (02 R19, 03 R65), the steps that read or write one named system
register next, and the events of the device's other agents last (95_what_each_step_holds.md).
Register fields keep the width the word gives them; closed sets of codes are inductive types.
-/

namespace Sys2Proof

/-- The stall field of a word, bits 25:24 (02 R17). -/
abbrev Stall := BitVec 2

/-- A register field of a word (02 R19). -/
abbrev Reg := BitVec 6

/-- A predicate number (03 R58). -/
abbrev Pred := BitVec 4

/-- A quad, tile or metadata number. -/
abbrev Num4 := BitVec 4

/-- The counter field of the M format: D0 to D3 (02 R19). -/
abbrev MCtr := BitVec 2

/-- Operand forms of the integer ALU (03 R66). -/
inductive IntForm where
  | vv | vs | vi | ss | si
  deriving DecidableEq, Repr

/-- Operand forms of ICMP (05 R104). -/
inductive CmpForm where
  | vv | vs | vi | ss
  deriving DecidableEq, Repr

/-- Operand forms of the FP32 ALU and FCMP (05 R108, R110). -/
inductive FForm where
  | vv | vs | ss
  deriving DecidableEq, Repr

/-- ICMP conditions (03 R68). -/
inductive ICond where
  | eq | ne | ltI | leI | gtI | geI | ltN | leN | gtN | geN
  deriving DecidableEq, Repr

/-- FCMP and DCMP conditions (03 R68). -/
inductive FCond where
  | eq | ne | lt | le | gt | ge | uno | ord
  deriving DecidableEq, Repr

/-- CMP64 conditions (05 R106). -/
inductive Cond64 where
  | eq | ne | ltI | leI | ltN | leN
  deriving DecidableEq, Repr

/-- Element types of the packed 16-bit instructions (05 R117). -/
inductive HalfType where
  | f16 | bf16
  deriving DecidableEq, Repr

/-- Formats of CVT (03 R69). -/
inductive Fmt where
  | i8 | i16 | i32 | n8 | n16 | n32 | f16 | bf16 | f32 | f64 | e4m3 | e5m2 | e2m1 | i64 | n64
  deriving DecidableEq, Repr

/-- Rounding codes of CVT (03 R69). -/
inductive CvtRound where
  | fpctl | zero | rne | rneSat
  deriving DecidableEq, Repr

/-- Directions of FRND (05 R116) and of FPCTL's mode (04 R83). -/
inductive RoundMode where
  | rne | zero | up | down
  deriving DecidableEq, Repr

/-- Operators of XRED, XSCAN and XSEG (03 R70). -/
inductive RedOp where
  | addI32 | addF32 | minI32 | maxI32 | minN32 | maxN32 | minF32 | maxF32 | bitAnd | bitOr | bitXor
  deriving DecidableEq, Repr

/-- Types of LD (13 R274). -/
inductive LdType where
  | n8 | i8 | n16 | i16 | n32 | n64
  deriving DecidableEq, Repr

/-- Widths of LDNR (13 R275). -/
inductive NrType where
  | n32 | n64
  deriving DecidableEq, Repr

/-- Forms of ST (13 R276). -/
inductive StType where
  | n8 | n16 | n32 | n64 | n32nt | n64nt
  deriving DecidableEq, Repr

/-- Types of ATOM and ARED (03 R73). -/
inductive AtomType where
  | i32 | n32 | i64 | n64 | f32
  deriving DecidableEq, Repr

/-- Operations of ATOM and ARED (03 R73). -/
inductive AtomOp where
  | add | min | max | bitAnd | bitOr | bitXor | exch | cas
  deriving DecidableEq, Repr

/-- Scope codes 0 to 7 (00 R5). -/
inductive Scope where
  | fibre | wave | group | cluster | die | device | domain | system
  deriving DecidableEq, Repr

/-- The Vat that a Vat access names (03 R72, 13 R277). -/
inductive VatTarget where
  | own
  | pos (p : BitVec 2)
  deriving DecidableEq, Repr

/-- An index field: a V pair or an S pair, by its even register divided by 2 (03 R72). -/
structure Index where
  isS  : Bool
  pair : BitVec 5
  deriving DecidableEq, Repr

/-- System registers (03 R62, 20 R387). -/
inductive SysReg where
  | fibid | lane | grant | wstat
  | lvlidx (n : BitVec 3)
  | corecyc | ctxcyc | retcnt | timer | tctl | fpctl | fpstat | slim
  | tvec | tpc | tcause | tdet0 | tdet1 | tdet2 | tdtbase | skipcnt | emptycnt
  | sfqbase | sfqcap | sfqtail | sfqhead | sctx | sptroot | stdtbase | stdtcnt | ssave | sspill
  | swmark
  deriving DecidableEq, Repr

/-- The counters of CNT and of the held reads (03 R75, 10 R231). -/
inductive Counter where
  | corecyc | ctxcyc | retcnt
  deriving DecidableEq, Repr

/-- The queues whose front command ENGINE_COMMAND_COMPLETE completes (06 R134, 14 R308, R313). -/
inductive EngineUnit where
  | array | tilePort | blend | kick
  deriving DecidableEq, Repr

/-- The requesters of a Vat bank (01 R11). -/
inductive VatRequester where
  | array | decanter | loadStore
  deriving DecidableEq, Repr

/-- The units that may meet a hardware error (20 R374, R381): the array of a core, a lane quad, a Vat bank, the cellar
or cask as a core reads it, a core's stack spill areas, its instruction cache, a link, and any other. -/
inductive HwUnit where
  | core (n : Nat)
  | lane (core : Nat) (quad : BitVec 2)
  | vatBank (core : Nat)
  | memory (core : Nat)
  | stack (core : Nat)
  | icache (core : Nat)
  | link
  | other
  deriving DecidableEq, Repr

/-- How a home refuses an access (20 R385). -/
inductive RefusalKind where
  | refused | uncorrectable | link
  deriving DecidableEq, Repr

/-- Why the steward retires a core or a lane quad (19 R364, R365). -/
inductive RetireUnit where
  | core (n : Nat)
  | quad (core : Nat) (q : BitVec 2)
  deriving DecidableEq, Repr

/-- What the host, another device or the network asks of memory (19 R352, R358, R359); `linkError` is a transfer that
still fails after its retries (19 R357). -/
inductive BusOp where
  | read (n : Nat)
  | write (bytes : List Byte)
  | atomic (t : AtomType) (o : AtomOp) (a b : DWord)
  | linkError
  deriving DecidableEq, Repr

/-- One step of the machine: an instruction word or an event of another agent. -/
inductive Instr where
  -- integer ALU, majors 0x00 to 0x04 (05 R101, R102)
  | add (st : Stall) (f : IntForm) (d a b : Reg)
  | sub (st : Stall) (f : IntForm) (d a b : Reg)
  | mul (st : Stall) (f : IntForm) (d a b : Reg)
  | mulhI32 (st : Stall) (f : IntForm) (d a b : Reg)
  | mulhN32 (st : Stall) (f : IntForm) (d a b : Reg)
  | divI32 (st : Stall) (f : IntForm) (d a b : Reg)
  | divN32 (st : Stall) (f : IntForm) (d a b : Reg)
  | remI32 (st : Stall) (f : IntForm) (d a b : Reg)
  | remN32 (st : Stall) (f : IntForm) (d a b : Reg)
  | andI (st : Stall) (f : IntForm) (d a b : Reg)
  | orI (st : Stall) (f : IntForm) (d a b : Reg)
  | xorI (st : Stall) (f : IntForm) (d a b : Reg)
  | andn (st : Stall) (f : IntForm) (d a b : Reg)
  | shl (st : Stall) (f : IntForm) (d a b : Reg)
  | shr (st : Stall) (f : IntForm) (d a b : Reg)
  | sar (st : Stall) (f : IntForm) (d a b : Reg)
  | rol (st : Stall) (f : IntForm) (d a b : Reg)
  | minI32 (st : Stall) (f : IntForm) (d a b : Reg)
  | minN32 (st : Stall) (f : IntForm) (d a b : Reg)
  | maxI32 (st : Stall) (f : IntForm) (d a b : Reg)
  | maxN32 (st : Stall) (f : IntForm) (d a b : Reg)
  | clz (st : Stall) (f : IntForm) (d a : Reg)
  | popc (st : Stall) (f : IntForm) (d a : Reg)
  | brev (st : Stall) (f : IntForm) (d a : Reg)
  | addsatI32 (st : Stall) (f : IntForm) (d a b : Reg)
  | subsatI32 (st : Stall) (f : IntForm) (d a b : Reg)
  | imad (st : Stall) (d a b c : Reg)
  | icmp (st : Stall) (f : CmpForm) (c : ICond) (p : Pred) (a b : Reg)
  | movl (st : Stall) (d : Reg) (imm : Half)
  | movh (st : Stall) (d : Reg) (imm : Half)
  | addi (st : Stall) (d : Reg) (imm : Half)
  | movlS (st : Stall) (d : Reg) (imm : Half)
  -- FP32, majors 0x08 to 0x10 (05 R108 to R116)
  | fadd (st : Stall) (f : FForm) (d a b : Reg)
  | fsub (st : Stall) (f : FForm) (d a b : Reg)
  | fmul (st : Stall) (f : FForm) (d a b : Reg)
  | fmin (st : Stall) (f : FForm) (d a b : Reg)
  | fmax (st : Stall) (f : FForm) (d a b : Reg)
  | fabs (st : Stall) (f : FForm) (d a : Reg)
  | fneg (st : Stall) (f : FForm) (d a : Reg)
  | fsat (st : Stall) (f : FForm) (d a : Reg)
  | fma (st : Stall) (d a b c : Reg)
  | fms (st : Stall) (d a b c : Reg)
  | fnma (st : Stall) (d a b c : Reg)
  | fnms (st : Stall) (d a b c : Reg)
  | fcmp (st : Stall) (f : FForm) (c : FCond) (p : Pred) (a b : Reg)
  | frcp (st : Stall) (d a : Reg)
  | frsq (st : Stall) (d a : Reg)
  | fsqrt (st : Stall) (d a : Reg)
  | fdiv (st : Stall) (d a b : Reg)
  | fexp2 (st : Stall) (d a : Reg)
  | flog2 (st : Stall) (d a : Reg)
  | frndRn (st : Stall) (d a : Reg)
  | frndRz (st : Stall) (d a : Reg)
  | frndRu (st : Stall) (d a : Reg)
  | frndRd (st : Stall) (d a : Reg)
  -- packed 16-bit, major 0x11 (05 R117)
  | padd (st : Stall) (t : HalfType) (d a b : Reg)
  | psub (st : Stall) (t : HalfType) (d a b : Reg)
  | pmul (st : Stall) (t : HalfType) (d a b : Reg)
  | pmin (st : Stall) (t : HalfType) (d a b : Reg)
  | pmax (st : Stall) (t : HalfType) (d a b : Reg)
  | pfma (st : Stall) (t : HalfType) (d a b : Reg)
  -- FP64, majors 0x12 and 0x13 (05 R118)
  | dadd (st : Stall) (d a b : Reg)
  | dsub (st : Stall) (d a b : Reg)
  | dmul (st : Stall) (d a b : Reg)
  | dmin (st : Stall) (d a b : Reg)
  | dmax (st : Stall) (d a b : Reg)
  | dabs (st : Stall) (d a : Reg)
  | dneg (st : Stall) (d a : Reg)
  | dcmp (st : Stall) (c : FCond) (p : Pred) (a b : Reg)
  | dfma (st : Stall) (d a b c : Reg)
  -- conversion and block quantisation, majors 0x14 and 0x15 (05 R119, R121)
  | cvt (st : Stall) (dst : Fmt) (rnd : CvtRound) (src : Fmt) (d a : Reg)
  | qnt (st : Stall) (d a b : Reg)
  | dqn (st : Stall) (d a b : Reg)
  -- 64-bit address arithmetic, major 0x16 (05 R106)
  | add64 (st : Stall) (d a b : Reg)
  | sub64 (st : Stall) (d a b : Reg)
  | cmp64 (st : Stall) (c : Cond64) (p : Pred) (a b : Reg)
  | lea (st : Stall) (h : BitVec 2) (d a b : Reg)
  -- cross-lane, majors 0x17 and 0x18 (11 R239 to R245)
  | shflIdx (st : Stall) (d a b : Reg)
  | shflUp (st : Stall) (d a b : Reg)
  | shflDown (st : Stall) (d a b : Reg)
  | shflXor (st : Stall) (d a b : Reg)
  | perm (st : Stall) (d a b : Reg)
  | voteAny (st : Stall) (p q : Pred)
  | voteAll (st : Stall) (p q : Pred)
  | voteBallot (st : Stall) (d : Reg) (q : Pred) (b : Reg)
  | bcast (st : Stall) (d a b : Reg)
  | matchL (st : Stall) (d a : Reg)
  | xred (st : Stall) (o : RedOp) (d a : Reg)
  | xscanInc (st : Stall) (o : RedOp) (d a : Reg)
  | xscanExc (st : Stall) (o : RedOp) (d a : Reg)
  | xseg (st : Stall) (o : RedOp) (d a : Reg) (p : Pred)
  -- predicate logic, WHEN and SEL, major 0x19 (05 R124 to R127)
  | pand (st : Stall) (d a b : Pred)
  | por (st : Stall) (d a b : Pred)
  | pxor (st : Stall) (d a b : Pred)
  | pandn (st : Stall) (d a b : Pred)
  | pnot (st : Stall) (d a : Pred)
  | pmov (st : Stall) (d a : Pred)
  | whenP (st : Stall) (p : Pred) (sense : Bool) (k : BitVec 6)
  | sel (st : Stall) (p : Pred) (d a b : Reg)
  -- width and indirect register access, major 0x1A (11 R237, R246)
  | width (st : Stall) (d a : Reg)
  | vxld (st : Stall) (d a : Reg)
  | vxst (st : Stall) (d a : Reg)
  -- loads and stores, majors 0x1B to 0x1D (13 R274 to R278)
  | ld (st : Stall) (t : LdType) (sc : Scope) (d : Reg) (c : Num4) (x : Index) (k : MCtr)
  | ldnr (st : Stall) (t : NrType) (sc : Scope) (d : Reg) (c : Num4) (x : Index) (k : MCtr)
  | store (st : Stall) (t : StType) (sc : Scope) (d : Reg) (c : Num4) (x : Index) (k : MCtr)
  | vldN32 (st : Stall) (d : Reg) (v : VatTarget) (x : Index) (k : MCtr)
  | vldN64 (st : Stall) (d : Reg) (v : VatTarget) (x : Index) (k : MCtr)
  | vldCap (st : Stall) (d : Reg) (v : VatTarget) (x : Index) (k : MCtr)
  | vstN32 (st : Stall) (d : Reg) (v : VatTarget) (x : Index) (k : MCtr)
  | vstN64 (st : Stall) (d : Reg) (v : VatTarget) (x : Index) (k : MCtr)
  | vstCap (st : Stall) (d : Reg) (v : VatTarget) (x : Index) (k : MCtr)
  | vldsN32 (st : Stall) (d : Reg) (v : VatTarget) (pair : BitVec 5) (k : MCtr)
  | vstN8 (st : Stall) (d : Reg) (v : VatTarget) (x : Index) (k : MCtr)
  -- atomics and ordering, majors 0x1E and 0x1F (13 R280 to R285)
  | atom (st : Stall) (t : AtomType) (o : AtomOp) (sc : Scope) (d4 : Num4) (c : BitVec 3)
      (pair : BitVec 5) (k : MCtr)
  | ared (st : Stall) (t : AtomType) (o : AtomOp) (sc : Scope) (d4 : Num4) (c : BitVec 3)
      (pair : BitVec 5) (k : MCtr)
  | fence (st : Stall) (sc : Scope)
  | ldaN32 (st : Stall) (sc : Scope) (d : Reg) (c : Num4) (x : Index) (k : MCtr)
  | ldaN64 (st : Stall) (sc : Scope) (d : Reg) (c : Num4) (x : Index) (k : MCtr)
  | stlN32 (st : Stall) (sc : Scope) (d : Reg) (c : Num4) (x : Index) (k : MCtr)
  | stlN64 (st : Stall) (sc : Scope) (d : Reg) (c : Num4) (x : Index) (k : MCtr)
  | ifence (st : Stall) (sc : Scope)
  | dfence (st : Stall) (sc : Scope)
  -- gather and scatter, major 0x20 (13 R286)
  | gathN32 (st : Stall) (sc : Scope) (d : Reg) (q : Num4) (x : Index) (k : MCtr)
  | gathN64 (st : Stall) (sc : Scope) (d : Reg) (q : Num4) (x : Index) (k : MCtr)
  | scatN32 (st : Stall) (sc : Scope) (d : Reg) (q : Num4) (x : Index) (k : MCtr)
  | scatN64 (st : Stall) (sc : Scope) (d : Reg) (q : Num4) (x : Index) (k : MCtr)
  -- capabilities, major 0x21 (18 R341)
  | cnarrow (st : Stall) (d4 a4 b4 : Num4)
  | cperm (st : Stall) (d4 a4 : Num4) (b : Reg)
  | cgetBase (st : Stall) (d : Reg) (a4 : Num4)
  | cgetLen (st : Stall) (d : Reg) (a4 : Num4)
  | cgetPerm (st : Stall) (d : Reg) (a4 : Num4)
  | cgetTid (st : Stall) (d : Reg) (a4 : Num4)
  | cgetTag (st : Stall) (d : Reg) (a4 : Num4)
  | cmov (st : Stall) (d4 a4 : Num4) (srcV dstS : Bool)
  -- mapped regions, wait table, metadata, key-value, majors 0x22 and 0x23
  | vmap (st : Stall) (sc : Scope) (d : Reg) (c : Num4) (pair : BitVec 5) (k : MCtr)
  | vsync (st : Stall) (sc : Scope) (d : Reg) (k : MCtr)
  | vunmap (st : Stall) (sc : Scope) (d : Reg) (k : MCtr)
  | preq (st : Stall) (d : Reg) (c : Num4) (x : Index) (k : MCtr)
  | pwait (st : Stall) (d : Reg)
  | pcancel (st : Stall) (d : Reg) (k : MCtr)
  | promo (st : Stall) (d : Reg) (c : Num4) (x : Index) (k : MCtr)
  | mld (st : Stall) (j : Num4) (c : Num4) (pair : BitVec 5) (k : MCtr)
  | cflush (st : Stall) (c : Num4) (x : Index) (k : MCtr)
  | kvalloc (st : Stall) (sc : Scope) (d : Reg) (c : Num4) (x : Index) (k : MCtr)
  | kvset (st : Stall) (sc : Scope) (d : Reg) (c : Num4) (x : Index) (k : MCtr)
  -- barriers, major 0x24 (14 R299)
  | binit (st : Stall) (sc : Scope) (d : Reg) (v : VatTarget) (x : Index) (k : MCtr)
  | barr (st : Stall) (sc : Scope) (d : Reg) (v : VatTarget) (x : Index) (k : MCtr)
  | bexp (st : Stall) (sc : Scope) (d : Reg) (v : VatTarget) (x : Index) (k : MCtr)
  | bwait (st : Stall) (sc : Scope) (d : Reg) (v : VatTarget) (x : Index)
  | btest (st : Stall) (sc : Scope) (d : Reg) (v : VatTarget) (x : Index) (k : MCtr)
  -- engines, majors 0x25 to 0x27 (14 R308 to R313, 08 R175 to R178)
  | kick (st : Stall) (a v : Reg) (e : Bool)
  | ofence (st : Stall)
  | blendStat (st : Stall) (a4 : Num4) (e : Bool)
  | blendAcc (st : Stall) (a4 : Num4) (e : Bool)
  | rank (st : Stall) (a4 : Num4) (b v : Reg) (e : Bool)
  | unrank (st : Stall) (a v : Reg) (e : Bool)
  | attld (st : Stall) (a : Reg) (t : BitVec 2) (e : Bool)
  -- matrix, majors 0x28 and 0x29 (06 R130 to R146, 08 R177)
  | ldstat (st : Stall) (a4 : Num4) (e : Bool)
  | ldstatSp (st : Stall) (a4 j : Num4) (e : Bool)
  | swap (st : Stall)
  | mma (st : Stall) (a2 : BitVec 5) (t : Num4) (v : Reg) (e : Bool)
  | mmar (st : Stall) (a2 : BitVec 5) (t : Num4) (e : Bool)
  | tclr (st : Stall) (t : Num4)
  | tclrFill (st : Stall) (a : Reg) (t : Num4)
  | tmovVat (st : Stall) (a2 : BitVec 5) (t : Num4) (e : Bool)
  | tmovV (st : Stall) (a : Reg) (t : Num4) (v : Reg) (e : Bool)
  | trowMax (st : Stall) (t : Num4) (v : Reg) (e : Bool)
  | trowSum (st : Stall) (t : Num4) (v : Reg) (e : Bool)
  | trowRescale (st : Stall) (t : Num4) (v : Reg) (e : Bool)
  | trowNorm (st : Stall) (t : Num4) (v : Reg) (e : Bool)
  -- labels, major 0x2A (07 R157 to R166)
  | relset (st : Stall) (a4 b4 slot : Num4) (e : Bool)
  | lblset (st : Stall) (a4 : Num4) (e : Bool)
  | lsum (st : Stall) (a4 : Num4) (e : Bool)
  | ltest (st : Stall) (a2 : BitVec 5) (p slot : Num4) (e : Bool)
  -- control transfer, majors 0x2B to 0x2D (10 R215 to R222)
  | brp (st : Stall) (p : Pred) (sense : Bool) (o : BitVec 19)
  | bra (st : Stall) (o : BitVec 19)
  | brx (st : Stall) (a2 : BitVec 5)
  | brt (st : Stall) (c : Num4) (b : Reg)
  | callx (st : Stall) (a2 : BitVec 5)
  | call (st : Stall) (o : BitVec 19)
  | ret (st : Stall)
  | join (st : Stall) (p : Pred) (i : Byte)
  -- creating work, major 0x2E (10 R223 to R226)
  | fork (st : Stall) (p : Pred) (a2 : BitVec 5) (b : Reg)
  | spawn (st : Stall) (p : Pred) (a2 : BitVec 5) (b : Reg)
  | endF (st : Stall)
  | launch (st : Stall) (p : Pred) (a b : Reg)
  -- waiting, windows and system registers, majors 0x2F and 0x30 (10 R227 to R231)
  | yieldW (st : Stall)
  | waitd (st : Stall) (m : BitVec 6)
  | wset (st : Stall) (i : BitVec 6)
  | wslide (st : Stall) (i : BitVec 6)
  | srd (st : Stall) (d : Reg) (r : SysReg)
  | swr (st : Stall) (d : Reg) (r : SysReg)
  | cnt (st : Stall) (d : Reg) (c : Counter)
  -- traps and steward words, majors 0x31 and 0x32 (20 R377, R378, R386, 18 R333)
  | trap (st : Stall) (d : Reg) (c : BitVec 11)
  | tret (st : Stall)
  | brk (st : Stall)
  | tlbiPage (st : Stall) (sc : Scope) (a2 : BitVec 5) (b : Reg)
  | tlbiCtx (st : Stall) (sc : Scope) (b : Reg)
  | tlbiAll (st : Stall) (sc : Scope)
  | wtwake (st : Stall) (a b : Reg)
  -- words that name one system register the table gives a row of its own
  | swrSkipcnt (st : Stall) (d : Reg)
  | swrTimer (st : Stall) (d : Reg)
  | swrTctl (st : Stall) (d : Reg)
  | swrSlim (st : Stall) (d : Reg)
  | swrFpctl (st : Stall) (d : Reg)
  | swrFpstat (st : Stall) (d : Reg)
  | srdCounter (st : Stall) (d : Reg) (c : Counter)
  | sfqheadWrite (st : Stall) (d : Reg)
  -- events that the device's own agents bring about
  | clauseDecode
  | detStep
  | interlockResult (k : Nat)
  | accessComplete (k : Nat)
  | engineCommandComplete (u : EngineUnit)
  | mmaChunk
  | timerExpire
  | groupFail
  | tlbiAck (core : Nat)
  | launchAccept (ctx queue : Nat)
  | groupStart (launch core : Nat)
  | clusterStart (launch cluster : Nat)
  | groupEnd (group : Nat)
  | binTimeout (launch : Nat) (entry : DWord)
  | cooperLaunch
  | binSteal (core : Nat)
  | stealQueuePost (launch : Nat) (entry : DWord)
  | preemptRequest (core : Nat)
  | powerStateEnter (d : BitVec 2)
  | preemptAck (core : Nat)
  | restore (ctx seq core : Nat)
  | followOnEntry
  | decanterRequestBegin
  | decanterSegment
  | soleraPromote (ctx page frame : Nat)
  | moveInstall (ctx page : Nat)
  | finingStart (ctx pool : Nat)
  | finingMark (ctx pool : Nat)
  | finingClose (ctx pool : Nat)
  | finingSweep (ctx pool : Nat)
  | boot
  -- events of the core's units at times that the spec leaves open
  | issueStarvationPromote (wid : Nat)
  | vatStarvationPromote (r : VatRequester)
  | homeRefusal (k : Nat) (why : RefusalKind)
  | boundaryTrap
  | hardwareError (u : HwUnit)
  | collectorWindowClose
  -- events that the steward, the scheduler and the memory controllers decide on
  | contextCreate (ctx : Nat) (ptroot tdtbase : DWord) (tdtcnt : Nat) (save spill : DWord)
  | codeObjectRegister (ctx handle : Nat) (addr : Nat)
  | queueCreate (ctx queue : Nat) (addr : Nat)
  | rootInstall (ctx : Nat) (cap : Quad)
  | poolRegister (ctx pool : Nat) (addr : DWord)
  | racking (group core : Nat)
  | soleraDemote (ctx page frame : Nat)
  | moduleTierRead (addr n : Nat)
  | moduleTierWrite (addr : Nat) (bytes : List Byte)
  -- events of the package in its system
  | hostAccess (addr : Nat) (op : BusOp)
  | trellisAccess (device : Nat) (addr : Nat) (op : BusOp)
  | rdmaMessage (addr : Nat) (op : BusOp) (flag : Option (Nat × DWord))
  | portHalfWidth (port lanes : Nat)
  | powerControlWrite (v : Word)
  | retryWrite (v : Word)
  | resetWrite (v : Word)
  | evringConfigWrite (base : Bool) (v : DWord)
  | evheadWrite (v : Word)
  | attestationRequest (v : Word)
  | mgmtRegisterWrite (off : Nat) (op : BusOp)
  | powerWake
  | clockThrottle (level : Nat)
  | coreRetire (u : RetireUnit)
  | powerLoss
  | deviceLeavesDomain (device : Nat)
  deriving DecidableEq, Repr

end Sys2Proof
end

