-- ==== Sys2Proof/Machine/Float.lean ====
section
/-!
DEFINITION. Sys2Proof/Machine/Float.lean: exact values, decoding, rounding and the floating-point
operations (04 R76 to R90, R93 to R97, 05 R107 to R123). A value is an exact fraction with a sign, an
infinity or a NaN; one function rounds (R88).
-/

namespace Sys2Proof.Machine

open Sys2Proof

/-! ### Flags of FPSTAT (04 R84) -/

/-- Invalid operation. -/
def fNV : Word := 1
/-- Division by zero. -/
def fDZ : Word := 2
/-- Overflow. -/
def fOF : Word := 4
/-- Underflow. -/
def fUF : Word := 8
/-- Inexact. -/
def fNX : Word := 16
/-- Saturation. -/
def fSAT : Word := 32
/-- Integer division by zero. -/
def fIDZ : Word := 64

/-- A flag when a condition holds. -/
def flagIf (b : Bool) (f : Word) : Word := if b then f else 0

/-! ### Formats (04 R77) -/

/-- How the codes above the largest finite value are used. -/
inductive FpKind where
  | ieee | e4m3 | e2m1
  deriving DecidableEq, Repr

/-- A floating-point format: exponent bits, fraction bits, bias. -/
structure FpFmt where
  w    : Nat
  f    : Nat
  bias : Nat
  kind : FpKind
  deriving DecidableEq, Repr

/-- FP64. -/
def fp64 : FpFmt := { w := 11, f := 52, bias := 1023, kind := .ieee }
/-- FP32. -/
def fp32 : FpFmt := { w := 8, f := 23, bias := 127, kind := .ieee }
/-- FP16. -/
def fp16 : FpFmt := { w := 5, f := 10, bias := 15, kind := .ieee }
/-- BF16. -/
def bf16 : FpFmt := { w := 8, f := 7, bias := 127, kind := .ieee }
/-- E5M2. -/
def e5m2 : FpFmt := { w := 5, f := 2, bias := 15, kind := .ieee }
/-- E4M3. -/
def e4m3 : FpFmt := { w := 4, f := 3, bias := 7, kind := .e4m3 }
/-- E2M1. -/
def e2m1 : FpFmt := { w := 2, f := 1, bias := 1, kind := .e2m1 }

/-- The sign bit's weight. -/
def FpFmt.signBit (F : FpFmt) : Nat := 2 ^ (F.w + F.f)

/-- The code of +infinity, where the format has one. -/
def FpFmt.infCode (F : FpFmt) : Nat := (2 ^ F.w - 1) * 2 ^ F.f

/-- The code of the largest finite value (04 R77). -/
def FpFmt.maxCode (F : FpFmt) : Nat :=
  match F.kind with
  | .ieee => F.infCode - 1
  | .e4m3 => F.infCode + 6
  | .e2m1 => 7

/-- The canonical NaN (04 R80); 0 where the format has none. -/
def FpFmt.nanCode (F : FpFmt) : Nat :=
  match F.kind with
  | .ieee => F.infCode + 2 ^ (F.f - 1)
  | .e4m3 => 0x7F
  | .e2m1 => 0

/-! ### Exact values -/

/-- An exact value: `fin neg n d` is (-1)^neg n / d, with a signed zero; `nan sig` says whether the
code it came from was signalling (04 R80). -/
inductive XReal where
  | nan (sig : Bool)
  | inf (neg : Bool)
  | fin (neg : Bool) (n d : Nat)
  deriving DecidableEq, Repr, Inhabited

/-- n · 2^e as an exact value. -/
def xdyadic (neg : Bool) (n : Nat) (e : Int) : XReal :=
  if 0 ≤ e then .fin neg (n * 2 ^ e.toNat) 1 else .fin neg n (2 ^ (-e).toNat)

/-- An integer as an exact value. -/
def xint (x : Int) : XReal := .fin (decide (x < 0)) x.natAbs 1

/-- Zero, positive. -/
def xzero : XReal := .fin false 0 1

/-- NaN test. -/
def XReal.isNan : XReal → Bool
  | .nan _ => true
  | .inf _ => false
  | .fin .. => false

/-- Infinity test. -/
def XReal.isInf : XReal → Bool
  | .inf _ => true
  | .nan _ => false
  | .fin .. => false

/-- Signalling NaN test. -/
def XReal.isSig : XReal → Bool
  | .nan s => s
  | .inf _ => false
  | .fin .. => false

/-- Zero test. -/
def XReal.isZero : XReal → Bool
  | .fin _ n _ => n == 0
  | .nan _ => false
  | .inf _ => false

/-- The sign. -/
def XReal.neg : XReal → Bool
  | .fin s _ _ => s
  | .inf s => s
  | .nan _ => false

/-- Decodes a code of a format (04 R78); E2M1 0b1000 decodes as -0 here (R90), the block rules give it
its special value. -/
def decodeFp (F : FpFmt) (code : Nat) : XReal :=
  let c := code % (2 * F.signBit)
  let s := decide (F.signBit ≤ c)
  let a := c % F.signBit
  let e := a / 2 ^ F.f
  let m := a % 2 ^ F.f
  if F.kind = .ieee ∧ e = 2 ^ F.w - 1 then
    if m = 0 then .inf s
    else .nan (decide (m < 2 ^ (F.f - 1)) && decide (F.w + F.f ≠ 7))
  else if F.kind = .e4m3 ∧ a = 0x7F then .nan false
  else if e = 0 then xdyadic s m (1 - (F.bias : Int) - F.f)
  else xdyadic s (2 ^ F.f + m) ((e : Int) - F.bias - F.f)

/-! ### Rounding (04 R79, R88) -/

/-- floor(log2 (n / d)) for n, d above 0. -/
def ilog2 (n d : Nat) : Int :=
  let e : Int := (n.log2 : Int) - d.log2
  let ge := if 0 ≤ e then decide (d * 2 ^ e.toNat ≤ n) else decide (d ≤ n * 2 ^ (-e).toNat)
  if ge then e else e - 1

/-- Whether a remainder `r / d` above the integer `q` rounds up in magnitude. -/
def roundsUp (m : RoundMode) (neg : Bool) (q r d : Nat) : Bool :=
  match m with
  | .rne => decide (d < 2 * r) || (decide (2 * r = d) && q % 2 == 1)
  | .zero => false
  | .up => decide (r ≠ 0) && !neg
  | .down => decide (r ≠ 0) && neg

/-- n / d rounded to an integer multiple of 2^q: the multiple and whether it is exact. -/
def roundQuantum (m : RoundMode) (neg : Bool) (n d : Nat) (q : Int) : Nat × Bool :=
  let nn := if 0 ≤ q then n else n * 2 ^ (-q).toNat
  let dd := if 0 ≤ q then d * 2 ^ q.toNat else d
  let k := nn / dd
  let r := nn % dd
  (if roundsUp m neg k r dd then k + 1 else k, decide (r = 0))

/-- A rounded code with the flags the rounding raises. -/
structure Rounded where
  code  : Nat
  flags : Word
  deriving DecidableEq, Repr

/-- What overflow gives (04 R88): the code without its sign. -/
def overflowCode (F : FpFmt) (m : RoundMode) (neg : Bool) : Nat :=
  let away := match m with
    | .rne => true
    | .zero => false
    | .up => !neg
    | .down => neg
  match F.kind with
  | .ieee => if away then F.infCode else F.maxCode
  | .e4m3 => if away then F.nanCode else F.maxCode
  | .e2m1 => F.maxCode

/-- The code with its sign; a zero of E2M1 is always 0b0000 (04 R88), and a NaN carries no sign. -/
def signCode (F : FpFmt) (neg : Bool) (a : Nat) : Nat :=
  if F.kind = .e4m3 ∧ a = F.nanCode then a
  else if F.kind = .e2m1 ∧ a = 0 then 0
  else if neg then a + F.signBit else a

/-- Rounds an exact value into a format (04 R88), with the flags OF, UF and NX. -/
def roundFp (F : FpFmt) (m : RoundMode) (x : XReal) : Rounded :=
  match x with
  | .nan _ => { code := F.nanCode, flags := 0 }
  | .inf s =>
    match F.kind with
    | .ieee => { code := signCode F s F.infCode, flags := 0 }
    | .e4m3 => { code := F.nanCode, flags := 0 }
    | .e2m1 => { code := signCode F s F.maxCode, flags := 0 }
  | .fin s n d =>
    if n = 0 then { code := signCode F s 0, flags := 0 }
    else
      let e := ilog2 n d
      let emin : Int := 1 - F.bias
      let qmin : Int := emin - F.f
      let qu : Int := e - F.f
      let q : Int := if qu < qmin then qmin else qu
      let kr := roundQuantum m s n d q
      let ku := roundQuantum m s n d qu
      let inexact := !kr.2
      let tiny := decide (e < emin - 1) ||
        (decide (e < emin) && decide (ku.1 < 2 ^ (F.f + 1)))
      let a := (q - qmin).toNat * 2 ^ F.f + kr.1
      if F.maxCode < a then
        { code := signCode F s (overflowCode F m s), flags := fOF ||| fNX }
      else
        { code := signCode F s a,
          flags := flagIf inexact fNX ||| flagIf (inexact && tiny) fUF }

/-! ### Exact operations (05 R107): a value and whether the operation is invalid -/

/-- Negation. -/
def xneg : XReal → XReal
  | .fin s n d => .fin (!s) n d
  | .inf s => .inf (!s)
  | .nan g => .nan g

/-- Magnitude. -/
def xabs : XReal → XReal
  | .fin _ n d => .fin false n d
  | .inf _ => .inf false
  | .nan g => .nan g

/-- Compares two finite or infinite values. -/
def xlt : XReal → XReal → Bool
  | .nan _, _ => false
  | _, .nan _ => false
  | .inf s, .inf t => s && !t
  | .inf s, .fin .. => s
  | .fin .., .inf t => !t
  | .fin s n d, .fin t k e =>
    let l : Int := (if s then -1 else 1) * (n * e : Nat)
    let r : Int := (if t then -1 else 1) * (k * d : Nat)
    decide (l < r)

/-- Equality of values, +0 and -0 equal; false when either is NaN. -/
def xeq (x y : XReal) : Bool := !x.isNan && !y.isNan && !xlt x y && !xlt y x

/-- Exact sum of two finite values; an exact zero is +0 except under "down" (04 R88). -/
def addFin (m : RoundMode) (s : Bool) (n d : Nat) (t : Bool) (k e : Nat) : XReal :=
  if n = 0 ∧ k = 0 ∧ s = t then .fin s 0 1
  else
    let l : Int := (if s then -1 else 1) * (n * e : Nat)
    let r : Int := (if t then -1 else 1) * (k * d : Nat)
    let z := l + r
    if z = 0 then .fin (decide (m = .down)) 0 1 else .fin (decide (z < 0)) z.natAbs (d * e)

/-- Sum. -/
def xadd (m : RoundMode) (x y : XReal) : XReal × Bool :=
  match x, y with
  | .nan a, .nan b => (.nan false, a || b)
  | .nan a, _ => (.nan false, a)
  | _, .nan b => (.nan false, b)
  | .inf s, .inf t => if s = t then (.inf s, false) else (.nan false, true)
  | .inf s, .fin .. => (.inf s, false)
  | .fin .., .inf t => (.inf t, false)
  | .fin s n d, .fin t k e => (addFin m s n d t k e, false)

/-- Product. -/
def xmul (x y : XReal) : XReal × Bool :=
  match x, y with
  | .nan a, .nan b => (.nan false, a || b)
  | .nan a, _ => (.nan false, a)
  | _, .nan b => (.nan false, b)
  | .inf s, .inf t => (.inf (s != t), false)
  | .inf s, .fin t k _ => if k = 0 then (.nan false, true) else (.inf (s != t), false)
  | .fin s n _, .inf t => if n = 0 then (.nan false, true) else (.inf (s != t), false)
  | .fin s n d, .fin t k e => (.fin (s != t) (n * k) (d * e), false)

/-- Quotient: value, invalid, division of a finite nonzero value by zero (05 R111). -/
def xdiv (x y : XReal) : XReal × Bool × Bool :=
  match x, y with
  | .nan a, .nan b => (.nan false, a || b, false)
  | .nan a, _ => (.nan false, a, false)
  | _, .nan b => (.nan false, b, false)
  | .inf _, .inf _ => (.nan false, true, false)
  | .inf s, .fin t _ _ => (.inf (s != t), false, false)
  | .fin s _ _, .inf t => (.fin (s != t) 0 1, false, false)
  | .fin s n d, .fin t k e =>
    if k = 0 then
      if n = 0 then (.nan false, true, false) else (.inf (s != t), false, true)
    else (.fin (s != t) (n * e) (d * k), false, false)

/-- floor(n ^ (1/r)) by bits: the greatest x below 2^(i+1) with x^r ≤ n, above a start. -/
def rootGo (r n : Nat) : Nat → Nat → Nat
  | 0, x => if (x + 1) ^ r ≤ n then x + 1 else x
  | i + 1, x => let y := x + 2 ^ (i + 1); rootGo r n i (if y ^ r ≤ n then y else x)

/-- The integer square root. -/
def isqrt (n : Nat) : Nat := rootGo 2 n (n.log2 / 2 + 1) 0

/-- A value that rounds as the square root does: the root on a fine grid, moved off the grid point when
it is not exact. -/
def xsqrt (x : XReal) : XReal × Bool :=
  match x with
  | .nan a => (.nan false, a)
  | .inf s => if s then (.nan false, true) else (.inf false, false)
  | .fin s n d =>
    if n = 0 then (.fin s 0 1, false)
    else if s then (.nan false, true)
    else
      let big := n * d * 4 ^ 64
      let r := isqrt big
      if r * r = big then (.fin false r (d * 2 ^ 64), false)
      else (.fin false (2 * r + 1) (d * 2 ^ 65), false)

/-- The smaller (or larger) of two codes (05 R108): the chosen code and NV. -/
def minMax (F : FpFmt) (max : Bool) (a b : Nat) : Rounded :=
  let x := decodeFp F a
  let y := decodeFp F b
  let nv := flagIf (x.isSig || y.isSig) fNV
  if x.isNan && y.isNan then { code := F.nanCode, flags := nv }
  else if x.isNan then { code := b, flags := nv }
  else if y.isNan then { code := a, flags := nv }
  else
    let less := xlt x y || (xeq x y && x.neg && !y.neg)
    { code := if less != max then a else b, flags := nv }

/-- The comparison of 03 R68 with its NV (05 R110). -/
def fcompare (F : FpFmt) (c : FCond) (a b : Nat) : Bool × Word :=
  let x := decodeFp F a
  let y := decodeFp F b
  let uno := x.isNan || y.isNan
  let sig := flagIf (x.isSig || y.isSig) fNV
  let q := flagIf uno fNV
  match c with
  | .eq => (xeq x y, sig)
  | .ne => (!xeq x y, sig)
  | .lt => (xlt x y, q)
  | .le => (!uno && !xlt y x, q)
  | .gt => (xlt y x, q)
  | .ge => (!uno && !xlt x y, q)
  | .uno => (uno, sig)
  | .ord => (!uno, sig)

/-- Rounds the value of an operation and adds NV when it is invalid (05 R107). -/
def finish (F : FpFmt) (m : RoundMode) (r : XReal × Bool) : Rounded :=
  let z := roundFp F m r.1
  { code := z.code, flags := z.flags ||| flagIf r.2 fNV }

/-- a + b. -/
def fpAdd (F : FpFmt) (m : RoundMode) (a b : Nat) : Rounded :=
  finish F m (xadd m (decodeFp F a) (decodeFp F b))

/-- a - b. -/
def fpSub (F : FpFmt) (m : RoundMode) (a b : Nat) : Rounded :=
  finish F m (xadd m (decodeFp F a) (xneg (decodeFp F b)))

/-- a · b. -/
def fpMul (F : FpFmt) (m : RoundMode) (a b : Nat) : Rounded :=
  finish F m (xmul (decodeFp F a) (decodeFp F b))

/-- ±(a · b) ± c, rounded once (05 R109); 0 · ∞ is invalid even beside a quiet NaN. -/
def fpFma (F : FpFmt) (m : RoundMode) (negP negC : Bool) (a b c : Nat) : Rounded :=
  let p := xmul (decodeFp F a) (decodeFp F b)
  let pv := if negP then xneg p.1 else p.1
  let cv := decodeFp F c
  let s := xadd m pv (if negC then xneg cv else cv)
  finish F m (s.1, p.2 || s.2 || cv.isSig)

/-- a / b (05 R111). -/
def fpDiv (F : FpFmt) (m : RoundMode) (a b : Nat) : Rounded :=
  let q := xdiv (decodeFp F a) (decodeFp F b)
  let z := finish F m (q.1, q.2.1)
  { code := z.code, flags := z.flags ||| flagIf q.2.2 fDZ }

/-- The square root (05 R111). -/
def fpSqrt (F : FpFmt) (m : RoundMode) (a : Nat) : Rounded := finish F m (xsqrt (decodeFp F a))

/-! ### Special functions (05 R112 to R116) -/

/-- The nearest integer to n / d, ties to even. -/
def nearest (n d : Nat) : Nat :=
  let q := n / d
  if roundsUp .rne false q (n % d) d then q + 1 else q

/-- A finite nonzero value as 2^e · m with 1 ≤ m < 2: e and m as a fraction. -/
def normalise (n d : Nat) : Int × Nat × Nat :=
  let e := ilog2 n d
  if 0 ≤ e then (e, n, d * 2 ^ e.toNat) else (e, n * 2 ^ (-e).toNat, d)

/-- Table Tr of 05 R112, in units of 2^-10. -/
def rcpTab (i : Nat) : Nat := if i = 0 then 1024 else nearest (1024 * 256) (257 + 2 * i)

/-- FRCP (05 R112). -/
def fpRcp (a : Nat) : Rounded :=
  match decodeFp fp32 a with
  | .nan g => { code := fp32.nanCode, flags := flagIf g fNV }
  | .inf s => { code := signCode fp32 s 0, flags := 0 }
  | .fin s n d =>
    if n = 0 then { code := signCode fp32 s fp32.infCode, flags := fDZ }
    else
      let em := normalise n d
      let i := (em.2.1 - em.2.2) * 128 / em.2.2
      roundFp fp32 .rne (xdyadic s (rcpTab i) (-em.1 - 10))

/-- Table Ts of 05 R113, in units of 2^-9. -/
def rsqTab (p j : Nat) : Nat :=
  if p = 0 ∧ j = 0 then 512
  else (isqrt (4 * 512 * 512 * 256 / (2 ^ p * (257 + 2 * j))) + 1) / 2

/-- FRSQ (05 R113). -/
def fpRsq (a : Nat) : Rounded :=
  match decodeFp fp32 a with
  | .nan g => { code := fp32.nanCode, flags := flagIf g fNV }
  | .inf s => if s then { code := fp32.nanCode, flags := fNV } else { code := 0, flags := 0 }
  | .fin s n d =>
    if n = 0 then { code := signCode fp32 s fp32.infCode, flags := fDZ }
    else if s then { code := fp32.nanCode, flags := fNV }
    else
      let em := normalise n d
      let j := (em.2.1 - em.2.2) * 128 / em.2.2
      let p := (em.1 % 2).toNat
      let k := (em.1 - p) / 2
      roundFp fp32 .rne (xdyadic false (rsqTab p j) (-k - 9))

/-- Table E of 05 R114, in units of 2^-23: the nearest integer to 2^(23 + j/64), from the integer 64th
root of 2^(64 · 24 + j). -/
def exp2Tab (j : Nat) : Nat :=
  if j = 64 then 2 ^ 24 else (rootGo 64 (2 ^ (64 * 24 + j)) 24 0 + 1) / 2

/-- FEXP2 (05 R114). -/
def fpExp2 (a : Nat) : Rounded :=
  match decodeFp fp32 a with
  | .nan g => { code := fp32.nanCode, flags := flagIf g fNV }
  | .inf s => { code := if s then 0 else fp32.infCode, flags := 0 }
  | .fin s n d =>
    let x : Int := (if s then -1 else 1) * (n : Int)
    let fl : Int := x / (d : Int)
    -- beyond this range the result overflows or rounds to zero whatever the fraction is
    let flc := if fl < -400 then -400 else if 400 < fl then 400 else fl
    let f := (x % (d : Int)).toNat
    let j := f * 64 / d
    let num := exp2Tab j * d + (exp2Tab (j + 1) - exp2Tab j) * (f * 64 - j * d)
    roundFp fp32 .rne
      (match xdyadic false num (flc - 23) with
       | .fin s2 n2 d2 => .fin s2 n2 (d2 * d)
       | y => y)

/-- Part 0 of the table of 05 R115, in units of 2^-24. -/
def log2Tab0 : List Nat :=
  [0, 375270, 744810, 1108793, 1467383, 1820738, 2169009,
   2512340, 2850868, 3184728, 3514044, 3838941, 4159533]

/-- Part 1 of the table of 05 R115, in units of 2^-24. -/
def log2Tab1 : List Nat :=
  [4475935, 4788255, 5096595, 5401057, 5701737, 5998727, 6292118,
   6581994, 6868440, 7151536, 7431359, 7707984, 7981483]

/-- Part 2 of the table of 05 R115, in units of 2^-24. -/
def log2Tab2 : List Nat :=
  [8251926, 8519380, 8783912, 9045584, 9304457, 9560591, 9814042,
   10064867, 10313120, 10558852, 10802114, 11042956, 11281425]

/-- Part 3 of the table of 05 R115, in units of 2^-24. -/
def log2Tab3 : List Nat :=
  [11517568, 11751428, 11983051, 12212479, 12439752, 12664911, 12887994,
   13109041, 13328087, 13545168, 13760320, 13973576, 14184969]

/-- Part 4 of the table of 05 R115, in units of 2^-24. -/
def log2Tab4 : List Nat :=
  [14394532, 14602297, 14808293, 15012551, 15215099, 15415967, 15615181,
   15812769, 16008758, 16203172, 16396036, 16587377, 16777216]

/-- Table L of 05 R115, in units of 2^-24. -/
def log2Tab (j : Nat) : Nat :=
  (log2Tab0 ++ log2Tab1 ++ log2Tab2 ++ log2Tab3 ++ log2Tab4).getD j 0

/-- FLOG2 (05 R115). -/
def fpLog2 (a : Nat) : Rounded :=
  match decodeFp fp32 a with
  | .nan g => { code := fp32.nanCode, flags := flagIf g fNV }
  | .inf s =>
    if s then { code := fp32.nanCode, flags := fNV } else { code := fp32.infCode, flags := 0 }
  | .fin s n d =>
    if n = 0 then { code := signCode fp32 true fp32.infCode, flags := fDZ }
    else if s then { code := fp32.nanCode, flags := fNV }
    else
      let em := normalise n d
      let md := em.2.2
      let t := 64 * (em.2.1 - md)
      let j := t / md
      let frac := log2Tab j * md + (log2Tab (j + 1) - log2Tab j) * (t - j * md)
      let z : Int := em.1 * (2 ^ 24 * md : Nat) + frac
      roundFp fp32 .rne (.fin (decide (z < 0)) z.natAbs (2 ^ 24 * md))

/-- FRND (05 R116): an integral value with the sign of the operand; NV for a signalling NaN only. -/
def fpRnd (m : RoundMode) (a : Nat) : Rounded :=
  match decodeFp fp32 a with
  | .nan g => { code := fp32.nanCode, flags := flagIf g fNV }
  | .inf _ => { code := a, flags := 0 }
  | .fin s n d =>
    let k := (roundQuantum m s n d 0).1
    { code := (roundFp fp32 .rne (.fin s k 1)).code, flags := 0 }

/-- FSAT (05 R108): clamped to [+0, 1.0]; -0 and NaN give +0. -/
def fpSat (a : Nat) : Nat :=
  let x := decodeFp fp32 a
  if x.isNan || x.isZero || x.neg then 0
  else if xlt (xint 1) x then 0x3F800000 else a

/-! ### Conversions (04 R89, R90, 05 R119, R120) -/

/-- The float format of a CVT format, if it is one. -/
def fmtFp : Fmt → Option FpFmt
  | .f16 => some fp16 | .bf16 => some bf16 | .f32 => some fp32 | .f64 => some fp64
  | .e4m3 => some e4m3 | .e5m2 => some e5m2 | .e2m1 => some e2m1
  | .i8 => none | .i16 => none | .i32 => none | .n8 => none | .n16 => none | .n32 => none
  | .i64 => none | .n64 => none

/-- Width in bits and signedness of a CVT integer format. -/
def fmtInt : Fmt → Nat × Bool
  | .i8 => (8, true) | .i16 => (16, true) | .i32 => (32, true) | .i64 => (64, true)
  | .n8 => (8, false) | .n16 => (16, false) | .n32 => (32, false) | .n64 => (64, false)
  | .f16 => (16, false) | .bf16 => (16, false) | .f32 => (32, false) | .f64 => (64, false)
  | .e4m3 => (8, false) | .e5m2 => (8, false) | .e2m1 => (4, false)

/-- The least value of an integer format. -/
def intMin (n : Nat) (signed : Bool) : Int := if signed then -(2 ^ (n - 1) : Int) else 0

/-- The greatest value of an integer format. -/
def intMax (n : Nat) (signed : Bool) : Int :=
  if signed then (2 ^ (n - 1) : Int) - 1 else (2 ^ n : Int) - 1

/-- A float source into a float destination (04 R89). -/
def cvtFF (F : FpFmt) (m : RoundMode) (sat : Bool) (x : XReal) : Rounded :=
  match x with
  | .nan g =>
    { code := F.nanCode, flags := flagIf (g || decide (F.kind = .e2m1)) fNV }
  | .inf s =>
    if sat then { code := signCode F s F.maxCode, flags := fSAT }
    else
      match F.kind with
      | .ieee => { code := signCode F s F.infCode, flags := 0 }
      | .e4m3 => { code := F.nanCode, flags := fNV }
      | .e2m1 => { code := signCode F s F.maxCode, flags := fNV }
  | .fin s n d =>
    let r := roundFp F m (.fin s n d)
    -- DEDUCED (log 11): saturation raises SAT in place of OF; NX, which R89 does not replace, stays
    if sat && (r.flags &&& fOF != 0) then
      { code := signCode F s F.maxCode, flags := fSAT ||| fNX }
    else r

/-- A float source into an integer destination (04 R89): the value and the flags. -/
def cvtFI (nb : Nat) (sg : Bool) (m : RoundMode) (sat : Bool) (x : XReal) : Int × Word :=
  let bad := if sat then fSAT else fNV
  match x with
  | .nan _ => (0, fNV)
  | .inf s => (if s then intMin nb sg else intMax nb sg, bad)
  | .fin s n d =>
    let k := roundQuantum m s n d 0
    let z : Int := if s then -(k.1 : Int) else k.1
    if z < intMin nb sg then (intMin nb sg, bad)
    else if intMax nb sg < z then (intMax nb sg, bad)
    else (z, flagIf (!k.2) fNX)

/-- An integer source into an integer destination (04 R89). -/
def cvtII (nb : Nat) (sg sat : Bool) (z : Int) : Int × Word :=
  if sat then
    let y := satI z (intMin nb sg) (intMax nb sg)
    (y, flagIf (decide (y ≠ z)) fSAT)
  else (toSigned nb (wrapI nb z), 0)

/-- CVT of a source code (04 R89, 05 R119, R120): the destination pattern, filled to 32 or 64 bits,
and the flags. -/
def convert (src dst : Fmt) (m : RoundMode) (sat : Bool) (code : Nat) : Nat × Word :=
  match fmtFp src, fmtFp dst with
  | some S, some F =>
    let r := cvtFF F m sat (decodeFp S code)
    (r.code, r.flags)
  | some S, none =>
    let nb := (fmtInt dst).1
    let r := cvtFI nb (fmtInt dst).2 m sat (decodeFp S code)
    (wrapI (if nb ≤ 32 then 32 else 64) r.1, r.2)
  | none, some F =>
    let nb := (fmtInt src).1
    let z : Int := if (fmtInt src).2 then toSigned nb code else ((code % 2 ^ nb : Nat) : Int)
    let r := cvtFF F m sat (xint z)
    (r.code, r.flags)
  | none, none =>
    let sb := (fmtInt src).1
    let z : Int := if (fmtInt src).2 then toSigned sb code else ((code % 2 ^ sb : Nat) : Int)
    let nb := (fmtInt dst).1
    let r := cvtII nb (fmtInt dst).2 sat z
    (if (fmtInt dst).2 then wrapI (if nb ≤ 32 then 32 else 64) r.1 else wrapI nb r.1, r.2)

/-! ### Scales and companders (04 R82, R93 to R97) -/

/-- A scale code: NaN, or an exact value (04 R82). `sfmt` is 1 for E8M0 and 2 for E5M3. -/
def decodeScale (sfmt code : Nat) : XReal :=
  if code = 0xFF then .nan false
  else if sfmt = 1 then xdyadic false 1 ((code : Int) - 127)
  else
    let e := code / 8
    let m := code % 8
    if e = 0 then xdyadic false m (-17) else xdyadic false (8 + m) ((e : Int) - 18)

/-- Word i of a compander table (04 R95). -/
def compWord (t : BitVec 512) (i : Nat) : Nat := bits t.toNat (32 * i + 31) (32 * i)

/-- The breakpoint code of word i. -/
def compBreak (t : BitVec 512) (i : Nat) : Nat := bits (compWord t i) 15 0

/-- The slope exponent of word i. -/
def compSlope (t : BitVec 512) (i : Nat) : Int := toSigned 4 (bits (compWord t i) 19 16)

/-- The number of segments: the index of the first +∞ entry, or 16 (04 R96). -/
def compSegs (t : BitVec 512) : Nat :=
  ((List.range 16).find? (fun i => compBreak t i == 0x7F80)).getD 16

/-- Validity of a compander table (04 R96). -/
def compValid (t : BitVec 512) : Bool :=
  let n := compSegs t
  decide (compBreak t 0 = 0) &&
  (List.range 16).all (fun i =>
    bits (compWord t i) 31 20 == 0 &&
    decide (-4 ≤ compSlope t i) && decide (compSlope t i ≤ 4) &&
    (if i < n then
       !(decodeFp bf16 (compBreak t i)).isNan && !(decodeFp bf16 (compBreak t i)).isInf &&
       (i == 0 || xlt (decodeFp bf16 (compBreak t (i - 1))) (decodeFp bf16 (compBreak t i)))
     else compWord t i == 0x7F80))

/-- x · 2^e. -/
def xscale2 (x : XReal) (e : Int) : XReal :=
  match x with
  | .fin s n d =>
    if 0 ≤ e then .fin s (n * 2 ^ e.toNat) d else .fin s n (d * 2 ^ (-e).toNat)
  | y => y

/-- y(b_i) (04 R97). -/
def compY (t : BitVec 512) : Nat → XReal
  | 0 => xzero
  | i + 1 =>
    let step := (xadd .rne (decodeFp bf16 (compBreak t (i + 1)))
      (xneg (decodeFp bf16 (compBreak t i)))).1
    (xadd .rne (compY t i) (xscale2 step (compSlope t i))).1

/-- The last segment whose start does not exceed x, searching down from i. -/
def compFind (start : Nat → XReal) (x : XReal) : Nat → Nat
  | 0 => 0
  | i + 1 => if xlt x (start (i + 1)) then compFind start x i else i + 1

/-- The compander y on a magnitude (04 R97); zeros, infinities and NaNs pass unchanged. -/
def compApply (t : BitVec 512) (x : XReal) : XReal :=
  if x.isNan || x.isInf || x.isZero then x
  else
    let i := compFind (fun j => decodeFp bf16 (compBreak t j)) x (compSegs t - 1)
    let d := (xadd .rne x (xneg (decodeFp bf16 (compBreak t i)))).1
    (xadd .rne (compY t i) (xscale2 d (compSlope t i))).1

/-- The exact inverse of the compander on a magnitude (04 R97). -/
def compInverse (t : BitVec 512) (u : XReal) : XReal :=
  if u.isNan || u.isInf || u.isZero then u
  else
    let i := compFind (compY t) u (compSegs t - 1)
    let d := (xadd .rne u (xneg (compY t i))).1
    (xadd .rne (decodeFp bf16 (compBreak t i)) (xscale2 d (-(compSlope t i)))).1

/-- The element formats of a TDT entry (18 R346) as float formats; INT8 is none of them. -/
def elemFmt (efmt : Nat) : Option FpFmt :=
  match efmt with
  | 1 => some bf16
  | 2 => some fp16
  | 3 => some e4m3
  | 4 => some e5m2
  | 5 => some e2m1
  | 7 => some fp32
  | _ => none

/-- sign(u) · yinv(|u|) · σ (04 R93). -/
def scaledValue (comp : Option (BitVec 512)) (u σ : XReal) : XReal :=
  if u.isNan then .nan false
  else if σ.isZero then
    if u.isInf then .nan false else .fin u.neg 0 1
  else
    let m := xabs u
    let v := match comp with
      | some t => compInverse t m
      | none => m
    let p := (xmul v σ).1
    if u.neg then xneg p else p

/-- The value of an element code in a block (04 R93). `scale` is none for an unscaled tensor. -/
def blockValue (efmt : Nat) (comp : Option (BitVec 512)) (scale : Option XReal) (special code : Nat) :
    XReal :=
  let σ := scale.getD (xint 1)
  if σ.isNan then .nan false
  else if efmt = 6 then xint (toSigned 8 code)
  else if efmt = 5 ∧ code % 16 = 8 then scaledValue comp (decodeFp e4m3 special) σ
  else
    match elemFmt efmt with
    | none => .nan false
    | some F => scaledValue comp (decodeFp F code) σ

/-- Quantises a value into a block (04 R94): the code and the flags. -/
def quantise (efmt : Nat) (comp : Option (BitVec 512)) (σ v : XReal) : Rounded :=
  match elemFmt efmt with
  | none => { code := 0, flags := 0 }
  | some F =>
    let nv := flagIf (v.isNan && (v.isSig || decide (F.kind = .e2m1))) fNV
    -- DEDUCED (log 12): step 4 of R94 decides the code, and the NV that 05 R122 names is raised all the same
    if σ.isNan || σ.isZero then { code := 0, flags := nv }
    else if v.isNan then { code := F.nanCode, flags := nv }
    else if v.isInf then { code := signCode F v.neg F.maxCode, flags := fSAT }
    else
      let x := (xdiv (xabs v) σ).1
      let y := match comp with
        | some t => compApply t x
        | none => x
      let q := if v.neg then xneg y else y
      let r := roundFp F .rne q
      if r.flags &&& fOF != 0 then { code := signCode F v.neg F.maxCode, flags := fSAT ||| fNX }
      -- DEDUCED (log 12): the rounding of R88 raises UF beside the NX that R122 names
      else r

/-! ### FP32 helpers of the engines, which always round with RNE (04 R87) -/

/-- An FP32 register as an exact value. -/
def f32x (w : Word) : XReal := decodeFp fp32 w.toNat

/-- Rounds an exact value to an FP32 register with RNE. -/
def rne32 (x : XReal) : Word := w32 (roundFp fp32 .rne x).code

/-- FMAX on two FP32 registers (05 R108). -/
def fmax32 (a b : Word) : Word := w32 (minMax fp32 true a.toNat b.toNat).code

/-- FMIN on two FP32 registers (05 R108). -/
def fmin32 (a b : Word) : Word := w32 (minMax fp32 false a.toNat b.toNat).code

end Sys2Proof.Machine
end

