-- ==== Sys2Proof/Config.lean ====
section
/-!
DEFINITION. Sys2Proof/Config.lean: what the implementation fixes and the free values. Every constant
here is opaque: nothing in Lean can evaluate it, so a claim that is proved holds whatever it is. The
first argument of most of them is the counter `fresh` of the state, which every use advances.
-/

namespace Sys2Proof.Config

/-- Free value (log 20): an early read of register `reg` of lane `lane` of a register file receives the new
value (`true`) or the old one (02 R33). -/
opaque earlyNew : Nat → Nat → Nat → Nat → Bool

/-- Free value (log 20): for how many slots after an operation on a counter has completed its registers may
still read as before, if no wait on the counter comes first (13 R273, 02 R33). -/
opaque landing : Nat → Nat

/-- Free value (log 21): an array or engine command that races a write takes the new byte (`true`) or
the old one (06 R141, R142). -/
opaque raceNew : Nat → Nat → Bool

/-- Free value (log 22): whether a cached copy (instruction block, TDT entry, compander table) is used
although memory may have changed since (02 R28, 04 R98, 13 R283). -/
opaque keepCopy : Nat → Nat → Bool

/-- Free value (log 23): the clocks that pass before a counter is sampled (10 R231, 20 R379). -/
opaque clocks : Nat → Nat

/-- Free value (log 23): an enabled TIMER reaches zero at this point (20 R379). -/
opaque timerDue : Nat → Bool

/-- Free value (log 23): how many of the instructions in flight have retired when CNT samples RETCNT
(10 R231). -/
opaque inFlight : Nat → Nat

/-- Free value (log 24): whether the TLB has evicted the entry that a lookup would match (18 R324). -/
opaque evicted : Nat → Nat → Bool

/-- Free value (log 25): the outcome of a boot step on a path, by boot number, step and path; `none`
means done, a code means failed (19 R366, R367). -/
opaque bootFailure : Nat → Nat → Nat → Option (BitVec 32)

/-- Free value (log 25): the device number that the Sommelier assigns at boot step 8 (19 R358). -/
opaque deviceNumber : Nat → Nat

/-- Free value (log 26): a byte of the 32-byte boot key, by boot number and place (22 R406). -/
opaque bootKey : Nat → Nat → Byte

/-- Free value (log 26): whether pure Ed448 with an empty context verifies a public key, a message and a signature;
19 R368 names it as a standard. -/
opaque ed448Verify : List Byte → List Byte → List Byte → Bool

/-- Free value (log 26): the pure Ed448 signature, 114 bytes, of a message by the private key of a seed; 19 R371 names
it as a standard. -/
opaque ed448Sign : List Byte → List Byte → List Byte

/-- Constant (log 26): the Krytley key digest in the fuses of the Cork ROM (19 R368). -/
opaque keyDigest : List Byte

/-- Constant (log 26): the fused minimum of the security version of a kind of image (19 R368). -/
opaque minSvn : Nat → Nat

/-- Constant (log 26): the fused device secret, 64 bytes (19 R369). -/
opaque deviceSecret : List Byte

/-- Free value (log 26): the firmware image in the slot that a boot step uses, by boot number, step and path
(19 R367). -/
opaque firmware : Nat → Nat → Nat → List Byte

/-- Free value (log 26): the port controllers' images that a boot step verifies, by boot number, step and path
(19 R368). -/
opaque portImages : Nat → Nat → Nat → List (List Byte)

/-- Free value (log 26): the failure code of a step whose image is not accepted (19 R366). -/
opaque verifyCode : BitVec 32

/-- Free value (log 25): what the test of boot step 5 finds bad on a boot: a core, or a lane quad of it
(19 R364, R367). -/
opaque bootRepairs : Nat → List (Nat × Option (BitVec 2))

/-- Free value (log 67): the host window that the steward sets for a context: its base and its length in local
addresses (19 R352). -/
opaque hostWindow : Nat → Nat × Nat

/-- Free value (log 9): a byte of a part of a save image whose encoding or places the spec leaves open, by
image number and offset (21 R393, R396). -/
opaque saveByte : Nat → Nat → BitVec 8

/-- Free value (log 27): a module-tier unit read met an error on a given attempt (22 R408). -/
opaque unitError : Nat → Nat → Bool

/-- Free value (log 28): the native words that the steward's translation of a portable image yields;
for one steward and one image always the same (02 R49). -/
opaque translate : List Byte → List Byte

/-- Free value (log 28): a physical frame that the steward gives a code object image (02 R48). -/
opaque stewardFrame : Nat → Nat → Nat

/-- Constant (log 33): how many promotions Solera's queue of one die holds (22 R405). -/
opaque promoCapacity : Nat

/-- Free value (log 42): the cause that the record of a disabled launch queue carries (09 R194). -/
opaque queueCause : BitVec 16

/-- Free value (log 49): whether the instruction at which a wave stands meets a hardware error (20 R381). -/
opaque errorMet : Nat → Nat → Bool

/-- Free value (log 49): whether a hardware error that no instruction meets touches a wave's state
(20 R381). -/
opaque errorTouches : Nat → Nat → Bool

/-- Free value (log 49): the location that the record of such an error names (20 R374). -/
opaque errorPlace : Nat → Nat → BitVec 32

/-- Free value (log 50): the clause header at which the steward's wave of a core starts once boot step 10 has
loaded the steward (18 R351, 19 R367). -/
opaque stewardEntry : Nat → Nat → Nat

/-- Free value (log 50): the physical address of the steward's own level-0 table (18 R319, R350). -/
opaque stewardTable : Nat → BitVec 64

end Sys2Proof.Config
end

