-- ==== Sys2Proof/WellFormed.lean ====
section
/-!
DEFINITION. Sys2Proof/WellFormed.lean: which constructor terms are words of the device. Each check is
one rule of 02 and 03: a pair field is even and a quad field a multiple of 4 (R54), a WHEN span runs
from 1 to 14 (R71), a float atomic has one of four operations (R73), and so on.
-/

namespace Sys2Proof

/-- A field that names a register pair holds an even number (03 R54). -/
def evenReg (r : Reg) : Bool := r.toNat % 2 == 0

/-- A field that names a quad holds a multiple of 4 (03 R54). -/
def quadReg (r : Reg) : Bool := r.toNat % 4 == 0

/-- The formats that CVT reads or writes as a pair (05 R120). -/
def Fmt.isPair : Fmt → Bool
  | .f64 | .i64 | .n64 => true
  | .i8 | .i16 | .i32 | .n8 | .n16 | .n32 | .f16 | .bf16 | .f32 | .e4m3 | .e5m2 | .e2m1 => false

/-- The store forms of eight bytes (13 R276). -/
def StType.isPair : StType → Bool
  | .n64 | .n64nt => true
  | .n8 | .n16 | .n32 | .n32nt => false

/-- The operations a float atomic has (03 R73). -/
def AtomType.admits (t : AtomType) (o : AtomOp) : Bool :=
  match t with
  | .f32 =>
    match o with
    | .add | .min | .max | .exch => true
    | .bitAnd | .bitOr | .bitXor | .cas => false
  | .i32 | .n32 | .i64 | .n64 => true

/-- The 64-bit system registers (03 R62, 20 R387). -/
def SysReg.is64 : SysReg → Bool
  | .corecyc | .ctxcyc | .retcnt | .slim | .tvec | .tpc | .tdtbase => true
  | .sfqbase | .sptroot | .stdtbase | .ssave | .sspill => true
  | .fibid | .lane | .grant | .wstat | .lvlidx _ | .timer | .tctl | .fpctl | .fpstat => false
  | .tcause | .tdet0 | .tdet1 | .tdet2 | .skipcnt | .emptycnt => false
  | .sfqcap | .sfqtail | .sfqhead | .sctx | .stdtcnt | .swmark => false

/-- The system registers that an SRD word of its own row names (10 R231). -/
def SysReg.isCounter : SysReg → Bool
  | .corecyc | .ctxcyc | .retcnt => true
  | .fibid | .lane | .grant | .wstat | .lvlidx _ | .timer | .tctl | .fpctl | .fpstat => false
  | .slim | .tvec | .tpc | .tcause | .tdet0 | .tdet1 | .tdet2 | .tdtbase | .skipcnt => false
  | .emptycnt | .sfqbase | .sfqcap | .sfqtail | .sfqhead | .sctx | .sptroot | .stdtbase => false
  | .stdtcnt | .ssave | .sspill | .swmark => false

/-- The system registers that the general SWR row writes; the others are read only, or have a row of
their own (03 R62, 20 R387). -/
def SysReg.swrGeneral : SysReg → Bool
  | .wstat | .tpc | .sfqbase | .sfqcap | .sctx | .sptroot | .stdtbase | .stdtcnt => true
  | .ssave | .sspill | .swmark => true
  | .fibid | .lane | .grant | .lvlidx _ | .corecyc | .ctxcyc | .retcnt | .timer | .tctl => false
  | .fpctl | .fpstat | .slim | .tvec | .tcause | .tdet0 | .tdet1 | .tdet2 | .tdtbase => false
  | .skipcnt | .emptycnt | .sfqtail | .sfqhead => false

/-- The registers that only the steward names: numbers 0x800 to 0xFFF (03 R62). -/
def SysReg.isSteward : SysReg → Bool
  | .sfqbase | .sfqcap | .sfqtail | .sfqhead | .sctx | .sptroot | .stdtbase | .stdtcnt => true
  | .ssave | .sspill | .swmark => true
  | .fibid | .lane | .grant | .wstat | .lvlidx _ | .corecyc | .ctxcyc | .retcnt | .timer => false
  | .tctl | .fpctl | .fpstat | .slim | .tvec | .tpc | .tcause | .tdet0 | .tdet1 | .tdet2 => false
  | .tdtbase | .skipcnt | .emptycnt => false

/-- The scopes of a TLBI (20 R386). -/
def Scope.isTlbi : Scope → Bool
  | .cluster | .die | .device => true
  | .fibre | .wave | .group | .domain | .system => false

/-- The checks that a constructor term passes when some word of the device encodes it. -/
def Instr.wellFormed : Instr → Bool
  | .dadd _ d a b => evenReg d && evenReg a && evenReg b
  | .dsub _ d a b => evenReg d && evenReg a && evenReg b
  | .dmul _ d a b => evenReg d && evenReg a && evenReg b
  | .dmin _ d a b => evenReg d && evenReg a && evenReg b
  | .dmax _ d a b => evenReg d && evenReg a && evenReg b
  | .dabs _ d a => evenReg d && evenReg a
  | .dneg _ d a => evenReg d && evenReg a
  | .dcmp _ _ _ a b => evenReg a && evenReg b
  | .dfma _ d a b c => evenReg d && evenReg a && evenReg b && evenReg c
  | .cvt _ dst _ src d a => (!dst.isPair || evenReg d) && (!src.isPair || evenReg a)
  | .add64 _ d a b => evenReg d && evenReg a && evenReg b
  | .sub64 _ d a b => evenReg d && evenReg a && evenReg b
  | .cmp64 _ _ _ a b => evenReg a && evenReg b
  | .lea _ _ d a _ => evenReg d && evenReg a
  | .whenP _ _ _ k => 1 ≤ k.toNat && k.toNat ≤ 14
  | .ld _ t _ d _ _ _ => t != .n64 || evenReg d
  | .ldnr _ t _ d _ _ _ => t != .n64 || evenReg d
  | .store _ t _ d _ _ _ => !t.isPair || evenReg d
  | .vldN64 _ d _ _ _ => evenReg d
  | .vldCap _ d _ _ _ => quadReg d
  | .vstN64 _ d _ _ _ => evenReg d
  | .vstCap _ d _ _ _ => quadReg d
  | .atom _ t o _ _ _ _ _ => t.admits o
  | .ared _ t o _ _ _ _ _ => t.admits o
  | .ldaN64 _ _ d _ _ _ => evenReg d
  | .stlN64 _ _ d _ _ _ => evenReg d
  | .gathN64 _ _ d _ _ _ => evenReg d
  | .scatN64 _ _ d _ _ _ => evenReg d
  | .cgetBase _ d _ => evenReg d
  | .cgetLen _ d _ => evenReg d
  | .vmap _ _ d _ _ _ => evenReg d
  | .kvalloc _ _ d _ _ _ => evenReg d
  | .kvset _ _ d _ _ _ => evenReg d
  | .ltest _ _ p _ _ => p != 15
  | .brp _ p sense _ => p != 0 || sense
  | .fork _ _ _ b => b.toNat ≤ 56
  | .spawn _ _ _ b => b.toNat ≤ 56
  | .srd _ d r => !r.isCounter && (!r.is64 || evenReg d)
  | .swr _ d r => r.swrGeneral && (!r.is64 || evenReg d)
  | .cnt _ d _ => evenReg d
  | .tlbiPage _ sc _ _ => sc.isTlbi
  | .tlbiCtx _ sc _ => sc.isTlbi
  | .tlbiAll _ sc => sc.isTlbi
  | .swrSlim _ d => evenReg d
  | .srdCounter _ d _ => evenReg d
  | .add .. | .sub .. | .mul .. | .mulhI32 .. | .mulhN32 .. | .divI32 .. | .divN32 .. | .remI32 .. => true
  | .remN32 .. | .andI .. | .orI .. | .xorI .. | .andn .. | .shl .. | .shr .. | .sar .. | .rol .. | .minI32 .. => true
  | .minN32 .. | .maxI32 .. | .maxN32 .. | .clz .. | .popc .. | .brev .. | .addsatI32 .. | .subsatI32 .. => true
  | .imad .. | .icmp .. | .movl .. | .movh .. | .addi .. | .movlS .. | .fadd .. | .fsub .. | .fmul .. => true
  | .fmin .. | .fmax .. | .fabs .. | .fneg .. | .fsat .. | .fma .. | .fms .. | .fnma .. | .fnms .. | .fcmp .. => true
  | .frcp .. | .frsq .. | .fsqrt .. | .fdiv .. | .fexp2 .. | .flog2 .. | .frndRn .. | .frndRz .. | .frndRu .. => true
  | .frndRd .. | .padd .. | .psub .. | .pmul .. | .pmin .. | .pmax .. | .pfma .. | .qnt .. | .dqn .. => true
  | .shflIdx .. | .shflUp .. | .shflDown .. | .shflXor .. | .perm .. | .voteAny .. | .voteAll .. => true
  | .voteBallot .. | .bcast .. | .matchL .. | .xred .. | .xscanInc .. | .xscanExc .. | .xseg .. | .pand .. => true
  | .por .. | .pxor .. | .pandn .. | .pnot .. | .pmov .. | .sel .. | .width .. | .vxld .. | .vxst .. => true
  | .vldN32 .. | .vstN32 .. | .vldsN32 .. | .vstN8 .. | .fence .. | .ldaN32 .. | .stlN32 .. | .ifence .. => true
  | .dfence .. | .gathN32 .. | .scatN32 .. | .cnarrow .. | .cperm .. | .cgetPerm .. | .cgetTid .. => true
  | .cgetTag .. | .cmov .. | .vsync .. | .vunmap .. | .preq .. | .pwait .. | .pcancel .. | .promo .. | .mld .. => true
  | .cflush .. | .binit .. | .barr .. | .bexp .. | .bwait .. | .btest .. | .kick .. | .ofence .. => true
  | .blendStat .. | .blendAcc .. | .rank .. | .unrank .. | .attld .. | .ldstat .. | .ldstatSp .. | .swap .. => true
  | .mma .. | .mmar .. | .tclr .. | .tclrFill .. | .tmovVat .. | .tmovV .. | .trowMax .. | .trowSum .. => true
  | .trowRescale .. | .trowNorm .. | .relset .. | .lblset .. | .lsum .. | .bra .. | .brx .. | .brt .. => true
  | .callx .. | .call .. | .ret .. | .join .. | .endF .. | .launch .. | .yieldW .. | .waitd .. | .wset .. => true
  | .wslide .. | .trap .. | .tret .. | .brk .. | .wtwake .. | .swrSkipcnt .. | .swrTimer .. | .swrTctl .. => true
  | .swrFpctl .. | .swrFpstat .. | .sfqheadWrite .. | .clauseDecode | .detStep | .interlockResult .. => true
  | .accessComplete .. | .engineCommandComplete .. | .mmaChunk | .timerExpire | .groupFail | .tlbiAck .. => true
  | .launchAccept .. | .groupStart .. | .clusterStart .. | .groupEnd .. | .binTimeout .. | .cooperLaunch => true
  | .binSteal .. | .stealQueuePost .. | .preemptAck .. | .restore .. | .followOnEntry | .decanterRequestBegin => true
  | .decanterSegment | .soleraPromote .. | .moveInstall .. | .finingStart .. | .finingMark .. => true
  | .finingClose .. | .finingSweep .. | .boot | .issueStarvationPromote .. | .vatStarvationPromote .. => true
  | .homeRefusal .. | .boundaryTrap | .hardwareError .. | .collectorWindowClose | .contextCreate .. => true
  | .codeObjectRegister .. | .queueCreate .. | .rootInstall .. | .poolRegister .. | .racking .. => true
  | .preemptRequest .. | .soleraDemote .. | .moduleTierRead .. | .moduleTierWrite .. | .hostAccess .. => true
  | .trellisAccess .. | .rdmaMessage .. | .portHalfWidth .. | .powerControlWrite .. | .retryWrite .. => true
  | .resetWrite .. | .evringConfigWrite .. | .evheadWrite .. | .attestationRequest .. | .mgmtRegisterWrite .. => true
  | .powerStateEnter .. | .powerWake | .clockThrottle .. | .coreRetire .. | .powerLoss => true
  | .deviceLeavesDomain .. => true

end Sys2Proof
end

