-- ==== Sys2Proof/Decode.lean ====
section
/-!
DEFINITION. Sys2Proof/Decode.lean: from words to instructions and back (02 R17 to R29, 03 R65 to R75).
`decodeWord` is total and refuses by name; a refusal carries the decode code of 02 R27. `encode` gives
the word of a well-formed instruction from the same tables.
-/

namespace Sys2Proof

/-- Why a word is no instruction, in the order in which 02 R27 reports the reasons. -/
inductive Reject where
  | headerShaped      -- 0x007: bits 31:28 are 0b1111 (02 R26)
  | unassignedMajor   -- 0x009: major 0x33 to 0x3B (02 R23)
  | unassignedMinor   -- 0x00A (03 R65)
  | reservedCounter   -- 0x00C: E-format counter code 0b10 or 0b11 (02 R21)
  | mustBeZero        -- 0x00B (03 R65)
  deriving DecidableEq, Repr

/-- The decode code of a refusal (02 R27). -/
def Reject.code : Reject → Nat
  | .headerShaped => 0x007
  | .unassignedMajor => 0x009
  | .unassignedMinor => 0x00A
  | .reservedCounter => 0x00C
  | .mustBeZero => 0x00B

/-! ### Fields of a word, as numbers (02 R17, R19) -/

/-- Bits `lo + n - 1 : lo` of a word. -/
def field (w lo n : Nat) : Nat := w / 2 ^ lo % 2 ^ n

/-- Bits 31:26. -/
def fMajor (w : Nat) : Nat := w / 2 ^ 26 % 64
/-- Bits 25:24. -/
def fStall (w : Nat) : Stall := BitVec.ofNat 2 (w / 2 ^ 24 % 4)
/-- The d field, bits 23:18. -/
def fD (w : Nat) : Reg := BitVec.ofNat 6 (w / 2 ^ 18 % 64)
/-- The a field, bits 17:12. -/
def fA (w : Nat) : Reg := BitVec.ofNat 6 (w / 2 ^ 12 % 64)
/-- The b field, bits 11:6. -/
def fB (w : Nat) : Reg := BitVec.ofNat 6 (w / 2 ^ 6 % 64)
/-- The minor or c field, bits 5:0. -/
def fC (w : Nat) : Reg := BitVec.ofNat 6 (w % 64)
/-- A four-bit field at bit `lo`. -/
def f4 (w lo : Nat) : BitVec 4 := BitVec.ofNat 4 (w / 2 ^ lo % 16)
/-- The five-bit field at bit `lo`. -/
def f5 (w lo : Nat) : BitVec 5 := BitVec.ofNat 5 (w / 2 ^ lo % 32)
/-- The imm16 of the I16 format. -/
def fImm (w : Nat) : Half := BitVec.ofNat 16 (w % 65536)
/-- The counter of the M format. -/
def fK (w : Nat) : MCtr := BitVec.ofNat 2 (w % 4)
/-- The index of the M format (03 R72). -/
def fIdx (w : Nat) : Index := { isS := w / 2 ^ 13 % 2 == 1, pair := f5 w 8 }
/-- The E-format counter: bit 4 (02 R21), once codes 0b10 and 0b11 are refused. -/
def fE (w : Nat) : Bool := w / 2 ^ 4 % 2 == 1

/-! ### Code tables -/

/-- Scope codes (00 R5). -/
def Scope.ofCode (n : Nat) : Scope :=
  match n with
  | 0 => .fibre | 1 => .wave | 2 => .group | 3 => .cluster
  | 4 => .die | 5 => .device | 6 => .domain | _ => .system

/-- The code of a scope (00 R5). -/
def Scope.code : Scope → Nat
  | .fibre => 0 | .wave => 1 | .group => 2 | .cluster => 3
  | .die => 4 | .device => 5 | .domain => 6 | .system => 7

/-- The form of an integer ALU major (03 R66). -/
def IntForm.ofMajor (n : Nat) : IntForm :=
  match n with
  | 0 => .vv | 1 => .vs | 2 => .vi | 3 => .ss | _ => .si

/-- The major of an integer form (03 R66). -/
def IntForm.code : IntForm → Nat
  | .vv => 0 | .vs => 1 | .vi => 2 | .ss => 3 | .si => 4

/-- ICMP forms (05 R104). -/
def CmpForm.ofCode (n : Nat) : CmpForm :=
  match n with
  | 0 => .vv | 1 => .vs | 2 => .vi | _ => .ss

/-- The code of an ICMP form. -/
def CmpForm.code : CmpForm → Nat
  | .vv => 0 | .vs => 1 | .vi => 2 | .ss => 3

/-- FP32 forms from the major less 0x08, or from FCMP's bits 5:4 (05 R108, R110). -/
def FForm.ofCode (n : Nat) : FForm :=
  match n with
  | 0 => .vv | 1 => .vs | _ => .ss

/-- The code of an FP32 form. -/
def FForm.code : FForm → Nat
  | .vv => 0 | .vs => 1 | .ss => 2

/-- ICMP conditions (03 R68). -/
def ICond.ofCode (n : Nat) : Option ICond :=
  match n with
  | 0 => some .eq | 1 => some .ne | 2 => some .ltI | 3 => some .leI | 4 => some .gtI
  | 5 => some .geI | 6 => some .ltN | 7 => some .leN | 8 => some .gtN | 9 => some .geN
  | _ => none

/-- The code of an ICMP condition. -/
def ICond.code : ICond → Nat
  | .eq => 0 | .ne => 1 | .ltI => 2 | .leI => 3 | .gtI => 4
  | .geI => 5 | .ltN => 6 | .leN => 7 | .gtN => 8 | .geN => 9

/-- FCMP and DCMP conditions (03 R68). -/
def FCond.ofCode (n : Nat) : Option FCond :=
  match n with
  | 0 => some .eq | 1 => some .ne | 2 => some .lt | 3 => some .le
  | 4 => some .gt | 5 => some .ge | 6 => some .uno | 7 => some .ord
  | _ => none

/-- The code of an FCMP condition. -/
def FCond.code : FCond → Nat
  | .eq => 0 | .ne => 1 | .lt => 2 | .le => 3 | .gt => 4 | .ge => 5 | .uno => 6 | .ord => 7

/-- CMP64 conditions from the minor less 0x08 (05 R106). -/
def Cond64.ofCode (n : Nat) : Option Cond64 :=
  match n with
  | 0 => some .eq | 1 => some .ne | 2 => some .ltI | 3 => some .leI | 4 => some .ltN
  | 5 => some .leN
  | _ => none

/-- The code of a CMP64 condition. -/
def Cond64.code : Cond64 → Nat
  | .eq => 0 | .ne => 1 | .ltI => 2 | .leI => 3 | .ltN => 4 | .leN => 5

/-- CVT format codes (03 R69). -/
def Fmt.ofCode (n : Nat) : Option Fmt :=
  match n with
  | 0 => some .i8 | 1 => some .i16 | 2 => some .i32 | 3 => some .n8 | 4 => some .n16
  | 5 => some .n32 | 6 => some .f16 | 7 => some .bf16 | 8 => some .f32 | 9 => some .f64
  | 10 => some .e4m3 | 11 => some .e5m2 | 12 => some .e2m1 | 13 => some .i64 | 14 => some .n64
  | _ => none

/-- The code of a CVT format. -/
def Fmt.code : Fmt → Nat
  | .i8 => 0 | .i16 => 1 | .i32 => 2 | .n8 => 3 | .n16 => 4 | .n32 => 5 | .f16 => 6
  | .bf16 => 7 | .f32 => 8 | .f64 => 9 | .e4m3 => 10 | .e5m2 => 11 | .e2m1 => 12
  | .i64 => 13 | .n64 => 14

/-- CVT rounding codes (03 R69). -/
def CvtRound.ofCode (n : Nat) : CvtRound :=
  match n with
  | 0 => .fpctl | 1 => .zero | 2 => .rne | _ => .rneSat

/-- The code of a CVT rounding. -/
def CvtRound.code : CvtRound → Nat
  | .fpctl => 0 | .zero => 1 | .rne => 2 | .rneSat => 3

/-- Reduction operators (03 R70). -/
def RedOp.ofCode (n : Nat) : Option RedOp :=
  match n with
  | 0 => some .addI32 | 1 => some .addF32 | 2 => some .minI32 | 3 => some .maxI32
  | 4 => some .minN32 | 5 => some .maxN32 | 6 => some .minF32 | 7 => some .maxF32
  | 8 => some .bitAnd | 9 => some .bitOr | 10 => some .bitXor
  | _ => none

/-- The code of a reduction operator. -/
def RedOp.code : RedOp → Nat
  | .addI32 => 0 | .addF32 => 1 | .minI32 => 2 | .maxI32 => 3 | .minN32 => 4 | .maxN32 => 5
  | .minF32 => 6 | .maxF32 => 7 | .bitAnd => 8 | .bitOr => 9 | .bitXor => 10

/-- Atomic types (03 R73). -/
def AtomType.ofCode (n : Nat) : Option AtomType :=
  match n with
  | 0 => some .i32 | 1 => some .n32 | 2 => some .i64 | 3 => some .n64 | 4 => some .f32
  | _ => none

/-- The code of an atomic type. -/
def AtomType.code : AtomType → Nat
  | .i32 => 0 | .n32 => 1 | .i64 => 2 | .n64 => 3 | .f32 => 4

/-- Atomic operations (03 R73). -/
def AtomOp.ofCode (n : Nat) : AtomOp :=
  match n with
  | 0 => .add | 1 => .min | 2 => .max | 3 => .bitAnd | 4 => .bitOr | 5 => .bitXor
  | 6 => .exch | _ => .cas

/-- The code of an atomic operation. -/
def AtomOp.code : AtomOp → Nat
  | .add => 0 | .min => 1 | .max => 2 | .bitAnd => 3 | .bitOr => 4 | .bitXor => 5
  | .exch => 6 | .cas => 7

/-- The target of a Vat access, from bits 17:14 (03 R72). -/
def VatTarget.ofCode (n : Nat) : Option VatTarget :=
  match n with
  | 0 => some (.pos 0) | 1 => some (.pos 1) | 2 => some (.pos 2) | 3 => some (.pos 3)
  | 8 => some .own
  | _ => none

/-- The code of a Vat target. -/
def VatTarget.code : VatTarget → Nat
  | .own => 8
  | .pos p => p.toNat

/-- The system register a number names (03 R62, 20 R387). -/
def SysReg.ofNumber (n : Nat) : Option SysReg :=
  match n with
  | 0x000 => some .fibid | 0x001 => some .lane | 0x002 => some .grant | 0x003 => some .wstat
  | 0x010 => some (.lvlidx 0) | 0x011 => some (.lvlidx 1) | 0x012 => some (.lvlidx 2)
  | 0x013 => some (.lvlidx 3) | 0x014 => some (.lvlidx 4) | 0x015 => some (.lvlidx 5)
  | 0x016 => some (.lvlidx 6) | 0x017 => some (.lvlidx 7)
  | 0x020 => some .corecyc | 0x021 => some .ctxcyc | 0x022 => some .retcnt
  | 0x023 => some .timer | 0x024 => some .tctl
  | 0x030 => some .fpctl | 0x031 => some .fpstat
  | 0x040 => some .slim | 0x041 => some .tvec | 0x042 => some .tpc | 0x043 => some .tcause
  | 0x044 => some .tdet0 | 0x045 => some .tdet1 | 0x046 => some .tdet2
  | 0x050 => some .tdtbase | 0x051 => some .skipcnt | 0x052 => some .emptycnt
  | 0x800 => some .sfqbase | 0x801 => some .sfqcap | 0x802 => some .sfqtail
  | 0x803 => some .sfqhead | 0x810 => some .sctx | 0x811 => some .sptroot
  | 0x812 => some .stdtbase | 0x813 => some .stdtcnt | 0x814 => some .ssave
  | 0x815 => some .sspill | 0x820 => some .swmark
  | _ => none

/-- The number of a system register (03 R62, 20 R387). -/
def SysReg.number : SysReg → Nat
  | .fibid => 0x000 | .lane => 0x001 | .grant => 0x002 | .wstat => 0x003
  | .lvlidx n => 0x010 + n.toNat
  | .corecyc => 0x020 | .ctxcyc => 0x021 | .retcnt => 0x022 | .timer => 0x023 | .tctl => 0x024
  | .fpctl => 0x030 | .fpstat => 0x031
  | .slim => 0x040 | .tvec => 0x041 | .tpc => 0x042 | .tcause => 0x043
  | .tdet0 => 0x044 | .tdet1 => 0x045 | .tdet2 => 0x046
  | .tdtbase => 0x050 | .skipcnt => 0x051 | .emptycnt => 0x052
  | .sfqbase => 0x800 | .sfqcap => 0x801 | .sfqtail => 0x802 | .sfqhead => 0x803
  | .sctx => 0x810 | .sptroot => 0x811 | .stdtbase => 0x812 | .stdtcnt => 0x813
  | .ssave => 0x814 | .sspill => 0x815 | .swmark => 0x820

/-! ### The decoder, major by major (03 R65) -/

/-- The instruction, unless a must-be-zero field is nonzero or a field rule is broken. -/
def must (ok : Bool) (i : Instr) : Except Reject Instr :=
  if ok then .ok i else .error .mustBeZero

/-- No such minor, sub-op or code. -/
def noMinor : Except Reject Instr := .error .unassignedMinor

/-- Majors 0x00 to 0x04 (03 R66). -/
def decInt (w : Nat) : Except Reject Instr :=
  let st := fStall w; let f := IntForm.ofMajor (fMajor w)
  let d := fD w; let a := fA w; let b := fB w
  match w % 64 with
  | 0x00 => .ok (.add st f d a b)
  | 0x01 => .ok (.sub st f d a b)
  | 0x02 => .ok (.mul st f d a b)
  | 0x03 => .ok (.mulhI32 st f d a b)
  | 0x04 => .ok (.mulhN32 st f d a b)
  | 0x05 => .ok (.divI32 st f d a b)
  | 0x06 => .ok (.divN32 st f d a b)
  | 0x07 => .ok (.remI32 st f d a b)
  | 0x08 => .ok (.remN32 st f d a b)
  | 0x09 => .ok (.andI st f d a b)
  | 0x0A => .ok (.orI st f d a b)
  | 0x0B => .ok (.xorI st f d a b)
  | 0x0C => .ok (.andn st f d a b)
  | 0x0D => .ok (.shl st f d a b)
  | 0x0E => .ok (.shr st f d a b)
  | 0x0F => .ok (.sar st f d a b)
  | 0x10 => .ok (.rol st f d a b)
  | 0x11 => .ok (.minI32 st f d a b)
  | 0x12 => .ok (.minN32 st f d a b)
  | 0x13 => .ok (.maxI32 st f d a b)
  | 0x14 => .ok (.maxN32 st f d a b)
  | 0x15 => must (b == 0) (.clz st f d a)
  | 0x16 => must (b == 0) (.popc st f d a)
  | 0x17 => must (b == 0) (.brev st f d a)
  | 0x18 => .ok (.addsatI32 st f d a b)
  | 0x19 => .ok (.subsatI32 st f d a b)
  | _ => noMinor

/-- Major 0x06 (05 R104). -/
def decIcmp (w : Nat) : Except Reject Instr :=
  match ICond.ofCode (w % 16) with
  | none => noMinor
  | some c => must (field w 22 2 == 0)
      (.icmp (fStall w) (CmpForm.ofCode (field w 4 2)) c (f4 w 18) (fA w) (fB w))

/-- Major 0x07 (05 R105). -/
def decMov (w : Nat) : Except Reject Instr :=
  match field w 16 2 with
  | 0 => .ok (.movl (fStall w) (fD w) (fImm w))
  | 1 => .ok (.movh (fStall w) (fD w) (fImm w))
  | 2 => .ok (.addi (fStall w) (fD w) (fImm w))
  | _ => .ok (.movlS (fStall w) (fD w) (fImm w))

/-- Majors 0x08 to 0x0A (05 R108). -/
def decFp (w : Nat) : Except Reject Instr :=
  let st := fStall w; let f := FForm.ofCode (fMajor w - 8)
  let d := fD w; let a := fA w; let b := fB w
  match w % 64 with
  | 0 => .ok (.fadd st f d a b)
  | 1 => .ok (.fsub st f d a b)
  | 2 => .ok (.fmul st f d a b)
  | 3 => .ok (.fmin st f d a b)
  | 4 => .ok (.fmax st f d a b)
  | 5 => must (b == 0) (.fabs st f d a)
  | 6 => must (b == 0) (.fneg st f d a)
  | 7 => must (b == 0) (.fsat st f d a)
  | _ => noMinor

/-- Major 0x0F (05 R110). -/
def decFcmp (w : Nat) : Except Reject Instr :=
  match FCond.ofCode (w % 16) with
  | none => noMinor
  | some c =>
    match field w 4 2 with
    | 3 => noMinor
    | f => must (field w 22 2 == 0)
        (.fcmp (fStall w) (FForm.ofCode f) c (f4 w 18) (fA w) (fB w))

/-- Major 0x10 (05 R111). -/
def decSpecial (w : Nat) : Except Reject Instr :=
  let st := fStall w; let d := fD w; let a := fA w; let b := fB w
  match w % 64 with
  | 0 => must (b == 0) (.frcp st d a)
  | 1 => must (b == 0) (.frsq st d a)
  | 2 => must (b == 0) (.fsqrt st d a)
  | 3 => .ok (.fdiv st d a b)
  | 4 => must (b == 0) (.fexp2 st d a)
  | 5 => must (b == 0) (.flog2 st d a)
  | 6 => must (b == 0) (.frndRn st d a)
  | 7 => must (b == 0) (.frndRz st d a)
  | 8 => must (b == 0) (.frndRu st d a)
  | 9 => must (b == 0) (.frndRd st d a)
  | _ => noMinor

/-- Major 0x11 (05 R117). -/
def decPacked (w : Nat) : Except Reject Instr :=
  let st := fStall w; let d := fD w; let a := fA w; let b := fB w
  let t : HalfType := if field w 5 1 == 0 then .f16 else .bf16
  match w % 32 with
  | 0 => .ok (.padd st t d a b)
  | 1 => .ok (.psub st t d a b)
  | 2 => .ok (.pmul st t d a b)
  | 3 => .ok (.pmin st t d a b)
  | 4 => .ok (.pmax st t d a b)
  | 5 => .ok (.pfma st t d a b)
  | _ => noMinor

/-- Major 0x12 (05 R118). -/
def decFp64 (w : Nat) : Except Reject Instr :=
  let st := fStall w; let d := fD w; let a := fA w; let b := fB w
  let e3 := evenReg d && evenReg a && evenReg b
  match w % 64 with
  | 0 => must e3 (.dadd st d a b)
  | 1 => must e3 (.dsub st d a b)
  | 2 => must e3 (.dmul st d a b)
  | 3 => must e3 (.dmin st d a b)
  | 4 => must e3 (.dmax st d a b)
  | 5 => must (b == 0 && evenReg d && evenReg a) (.dabs st d a)
  | 6 => must (b == 0 && evenReg d && evenReg a) (.dneg st d a)
  | m =>
    if m / 8 == 2 then
      match FCond.ofCode (w % 8) with
      | none => noMinor
      | some c => must (field w 22 2 == 0 && evenReg a && evenReg b) (.dcmp st c (f4 w 18) a b)
    else noMinor

/-- Major 0x14 (05 R119, R120). -/
def decCvt (w : Nat) : Except Reject Instr :=
  let d := fD w; let a := fA w
  match Fmt.ofCode (w % 16), Fmt.ofCode (field w 8 4) with
  | some src, some dst =>
    must (field w 4 2 == 0 && (!dst.isPair || evenReg d) && (!src.isPair || evenReg a))
      (.cvt (fStall w) dst (CvtRound.ofCode (field w 6 2)) src d a)
  | _, _ => noMinor

/-- Major 0x15 (05 R121). -/
def decQnt (w : Nat) : Except Reject Instr :=
  match w % 64 with
  | 0 => .ok (.qnt (fStall w) (fD w) (fA w) (fB w))
  | 1 => .ok (.dqn (fStall w) (fD w) (fA w) (fB w))
  | _ => noMinor

/-- Major 0x16 (05 R106). -/
def decAddr (w : Nat) : Except Reject Instr :=
  let st := fStall w; let d := fD w; let a := fA w; let b := fB w
  let m := w % 64
  match m with
  | 1 => must (evenReg d && evenReg a && evenReg b) (.add64 st d a b)
  | 2 => must (evenReg d && evenReg a && evenReg b) (.sub64 st d a b)
  | _ =>
    if m / 8 == 1 then
      match Cond64.ofCode (w % 8) with
      | none => noMinor
      | some c => must (field w 22 2 == 0 && evenReg a && evenReg b) (.cmp64 st c (f4 w 18) a b)
    else if m / 4 == 4 then
      must (evenReg d && evenReg a) (.lea st (BitVec.ofNat 2 (w % 4)) d a b)
    else noMinor

/-- Major 0x17 (11 R239 to R242). -/
def decXlane (w : Nat) : Except Reject Instr :=
  let st := fStall w; let d := fD w; let a := fA w; let b := fB w
  let pOk := field w 22 2 == 0; let qOk := field w 16 2 == 0
  match w % 64 with
  | 0 => .ok (.shflIdx st d a b)
  | 1 => .ok (.shflUp st d a b)
  | 2 => .ok (.shflDown st d a b)
  | 3 => .ok (.shflXor st d a b)
  | 4 => .ok (.perm st d a b)
  | 5 => must (pOk && qOk && b == 0) (.voteAny st (f4 w 18) (f4 w 12))
  | 6 => must (pOk && qOk && b == 0) (.voteAll st (f4 w 18) (f4 w 12))
  | 7 => must qOk (.voteBallot st d (f4 w 12) b)
  | 8 => .ok (.bcast st d a b)
  | 9 => must (b == 0) (.matchL st d a)
  | _ => noMinor

/-- Major 0x18 (11 R243). -/
def decReduce (w : Nat) : Except Reject Instr :=
  let st := fStall w; let d := fD w; let a := fA w; let b := fB w
  match RedOp.ofCode (w % 16) with
  | none => noMinor
  | some o =>
    match field w 4 2 with
    | 0 => must (b == 0) (.xred st o d a)
    | 1 => must (b == 0) (.xscanInc st o d a)
    | 2 => must (b == 0) (.xscanExc st o d a)
    | _ => must (field w 10 2 == 0) (.xseg st o d a (f4 w 6))

/-- Major 0x19 (05 R124 to R127). -/
def decPred (w : Nat) : Except Reject Instr :=
  let st := fStall w
  let dOk := field w 22 2 == 0; let aOk := field w 16 2 == 0; let bOk := field w 10 2 == 0
  let d := f4 w 18; let a := f4 w 12; let b := f4 w 6
  match field w 4 2 with
  | 0 =>
    match w % 16 with
    | 0 => must (dOk && aOk && bOk) (.pand st d a b)
    | 1 => must (dOk && aOk && bOk) (.por st d a b)
    | 2 => must (dOk && aOk && bOk) (.pxor st d a b)
    | 3 => must (dOk && aOk && bOk) (.pandn st d a b)
    | 4 => must (dOk && aOk && fB w == 0) (.pnot st d a)
    | 5 => must (dOk && aOk && fB w == 0) (.pmov st d a)
    | _ => noMinor
  | 1 =>
    let k := field w 18 6
    must (1 ≤ k && k ≤ 14 && field w 12 6 ≤ 1 && fB w == 0)
      (.whenP st (f4 w 0) (field w 12 6 == 1) (fD w))
  | 2 => .ok (.sel st (f4 w 0) (fD w) (fA w) (fB w))
  | _ => noMinor

/-- Major 0x1A (11 R237, R246). -/
def decWidth (w : Nat) : Except Reject Instr :=
  let z := fB w == 0
  match w % 64 with
  | 0 => must z (.width (fStall w) (fD w) (fA w))
  | 1 => must z (.vxld (fStall w) (fD w) (fA w))
  | 2 => must z (.vxst (fStall w) (fD w) (fA w))
  | _ => noMinor

/-- Major 0x1B (13 R274, R275). -/
def decLoad (w : Nat) : Except Reject Instr :=
  let st := fStall w; let sc := Scope.ofCode (field w 5 3); let d := fD w
  let c := f4 w 14; let x := fIdx w; let k := fK w
  match field w 2 3 with
  | 0 => .ok (.ld st .n8 sc d c x k)
  | 1 => .ok (.ld st .i8 sc d c x k)
  | 2 => .ok (.ld st .n16 sc d c x k)
  | 3 => .ok (.ld st .i16 sc d c x k)
  | 4 => .ok (.ld st .n32 sc d c x k)
  | 5 => must (evenReg d) (.ld st .n64 sc d c x k)
  | 6 => .ok (.ldnr st .n32 sc d c x k)
  | _ => must (evenReg d) (.ldnr st .n64 sc d c x k)

/-- Major 0x1C (13 R276). -/
def decStore (w : Nat) : Except Reject Instr :=
  let st := fStall w; let sc := Scope.ofCode (field w 5 3); let d := fD w
  let c := f4 w 14; let x := fIdx w; let k := fK w
  match field w 2 3 with
  | 0 => .ok (.store st .n8 sc d c x k)
  | 1 => .ok (.store st .n16 sc d c x k)
  | 2 => .ok (.store st .n32 sc d c x k)
  | 3 => must (evenReg d) (.store st .n64 sc d c x k)
  | 4 => .ok (.store st .n32nt sc d c x k)
  | 5 => must (evenReg d) (.store st .n64nt sc d c x k)
  | _ => noMinor

/-- Major 0x1D (13 R277, R278). -/
def decVat (w : Nat) : Except Reject Instr :=
  let st := fStall w; let d := fD w; let x := fIdx w; let k := fK w
  let z := field w 5 3 == 0
  match VatTarget.ofCode (field w 14 4) with
  | none => .error .mustBeZero
  | some v =>
    match field w 2 3 with
    | 0 => must z (.vldN32 st d v x k)
    | 1 => must (z && evenReg d) (.vldN64 st d v x k)
    | 2 => must (z && quadReg d) (.vldCap st d v x k)
    | 3 => must z (.vstN32 st d v x k)
    | 4 => must (z && evenReg d) (.vstN64 st d v x k)
    | 5 => must (z && quadReg d) (.vstCap st d v x k)
    | 6 => must (z && x.isS) (.vldsN32 st d v (f5 w 8) k)
    | _ => must z (.vstN8 st d v x k)

/-- Major 0x1E (03 R73). -/
def decAtom (w : Nat) : Except Reject Instr :=
  match AtomType.ofCode (field w 8 3) with
  | none => noMinor
  | some t =>
    let o := AtomOp.ofCode (field w 2 3)
    let sc := Scope.ofCode (field w 5 3)
    let c := BitVec.ofNat 3 (field w 16 3)
    if t.admits o then
      if field w 19 1 == 0 then
        .ok (.atom (fStall w) t o sc (f4 w 20) c (f5 w 11) (fK w))
      else
        .ok (.ared (fStall w) t o sc (f4 w 20) c (f5 w 11) (fK w))
    else noMinor

/-- Major 0x1F (13 R280 to R283, 03 R72). -/
def decSync (w : Nat) : Except Reject Instr :=
  let st := fStall w; let sc := Scope.ofCode (field w 5 3); let d := fD w
  let c := f4 w 14; let x := fIdx w; let k := fK w
  let z := field w 8 16 == 0 && w % 4 == 0
  match field w 2 3 with
  | 0 => must z (.fence st sc)
  | 1 => .ok (.ldaN32 st sc d c x k)
  | 2 => must (evenReg d) (.ldaN64 st sc d c x k)
  | 3 => .ok (.stlN32 st sc d c x k)
  | 4 => must (evenReg d) (.stlN64 st sc d c x k)
  | 5 => must z (.ifence st sc)
  | 6 => must z (.dfence st sc)
  | _ => noMinor

/-- Major 0x20 (13 R286). -/
def decGather (w : Nat) : Except Reject Instr :=
  let st := fStall w; let sc := Scope.ofCode (field w 5 3); let d := fD w
  let q := f4 w 14; let x := fIdx w; let k := fK w
  match field w 2 3 with
  | 0 => .ok (.gathN32 st sc d q x k)
  | 1 => must (evenReg d) (.gathN64 st sc d q x k)
  | 2 => .ok (.scatN32 st sc d q x k)
  | 3 => must (evenReg d) (.scatN64 st sc d q x k)
  | _ => noMinor

/-- Major 0x21 (18 R341). -/
def decCap (w : Nat) : Except Reject Instr :=
  let st := fStall w; let d := fD w; let d4 := f4 w 20; let a4 := f4 w 14
  let qd := field w 18 2 == 0; let qa := field w 12 2 == 0; let zb := fB w == 0
  match w % 64 with
  | 0 => must (qd && qa && field w 6 2 == 0) (.cnarrow st d4 a4 (f4 w 8))
  | 1 => must (qd && qa) (.cperm st d4 a4 (fB w))
  | 2 => must (qa && zb && evenReg d) (.cgetBase st d a4)
  | 3 => must (qa && zb && evenReg d) (.cgetLen st d a4)
  | 4 => must (qa && zb) (.cgetPerm st d a4)
  | 5 => must (qa && zb) (.cgetTid st d a4)
  | 6 => must (qa && zb) (.cgetTag st d a4)
  | 7 => must (qd && qa && field w 8 4 == 0)
      (.cmov st d4 a4 (field w 7 1 == 1) (field w 6 1 == 1))
  | _ => noMinor

/-- Major 0x22 (13 R288, R289, 18 R330 to R332, 22 R405). -/
def decMap (w : Nat) : Except Reject Instr :=
  let st := fStall w; let sc := Scope.ofCode (field w 5 3); let d := fD w
  let c := f4 w 14; let x := fIdx w; let k := fK w
  let zs := field w 5 3 == 0; let zci := field w 8 10 == 0
  match field w 2 3 with
  | 0 => must (x.isS && evenReg d) (.vmap st sc d c (f5 w 8) k)
  | 1 => must zci (.vsync st sc d k)
  | 2 => must zci (.vunmap st sc d k)
  | 3 => must zs (.preq st d c x k)
  | 4 => must (zs && zci && w % 4 == 0) (.pwait st d)
  | 5 => must (zs && zci) (.pcancel st d k)
  | 6 => must zs (.promo st d c x k)
  | _ => noMinor

/-- Major 0x23 (13 R291, R292, 22 R414). -/
def decMeta (w : Nat) : Except Reject Instr :=
  let st := fStall w; let sc := Scope.ofCode (field w 5 3); let d := fD w
  let c := f4 w 14; let x := fIdx w; let k := fK w
  let zs := field w 5 3 == 0
  match field w 2 3 with
  | 0 => must (field w 22 2 == 0 && x.isS && zs) (.mld st (f4 w 18) c (f5 w 8) k)
  | 1 => must (d == 0 && zs) (.cflush st c x k)
  | 2 => must (evenReg d) (.kvalloc st sc d c x k)
  | 3 => must (evenReg d) (.kvset st sc d c x k)
  | _ => noMinor

/-- Major 0x24 (14 R298, R299). -/
def decBarrier (w : Nat) : Except Reject Instr :=
  let st := fStall w; let sc := Scope.ofCode (field w 5 3); let d := fD w
  let x := fIdx w; let k := fK w
  match field w 2 3 with
  | 0 =>
    match VatTarget.ofCode (field w 14 4) with
    | none => .error .mustBeZero
    | some v => .ok (.binit st sc d v x k)
  | 1 =>
    match VatTarget.ofCode (field w 14 4) with
    | none => .error .mustBeZero
    | some v => .ok (.barr st sc d v x k)
  | 2 =>
    match VatTarget.ofCode (field w 14 4) with
    | none => .error .mustBeZero
    | some v => .ok (.bexp st sc d v x k)
  | 3 =>
    match VatTarget.ofCode (field w 14 4) with
    | none => .error .mustBeZero
    | some v => must (w % 4 == 0) (.bwait st sc d v x)
  | 4 =>
    match VatTarget.ofCode (field w 14 4) with
    | none => .error .mustBeZero
    | some v => .ok (.btest st sc d v x k)
  | _ => noMinor

/-- An E-format word: the reserved counter codes come before the must-be-zero fields (02 R21, R27). -/
def mustE (w : Nat) (ok : Bool) (i : Instr) : Except Reject Instr :=
  if field w 5 1 == 1 then .error .reservedCounter else must ok i

/-- Majors 0x25 to 0x27 (14 R308 to R313, 08 R175 to R178). -/
def decEng (w : Nat) : Except Reject Instr :=
  let st := fStall w; let e := fE w; let a := fD w; let b := fA w; let v := fB w
  let a4 := f4 w 20; let qa := field w 18 2 == 0
  match fMajor w, w % 16 with
  | 0x25, 0 => mustE w (b == 0) (.kick st a v e)
  | 0x25, 1 => mustE w (a == 0 && b == 0 && v == 0 && !e) (.ofence st)
  | 0x26, 0 => mustE w (qa && b == 0 && v == 0) (.blendStat st a4 e)
  | 0x26, 1 => mustE w (qa && b == 0 && v == 0) (.blendAcc st a4 e)
  | 0x27, 0 => mustE w qa (.rank st a4 b v e)
  | 0x27, 1 => mustE w (b == 0) (.unrank st a v e)
  | 0x27, 2 => mustE w (b == 0 && field w 8 4 == 0) (.attld st a (BitVec.ofNat 2 (field w 6 2)) e)
  | _, _ => noMinor

/-- Majors 0x28 to 0x2A (06 R130 to R146, 08 R177, 07 R157 to R166). -/
def decMat (w : Nat) : Except Reject Instr :=
  let st := fStall w; let e := fE w; let a := fD w; let b := fA w; let v := fB w
  let a4 := f4 w 20; let a2 := f5 w 19
  let qa := field w 18 2 == 0; let ea := field w 18 1 == 0
  let t := f4 w 12; let zt := field w 16 2 == 0; let zv := v == 0
  match fMajor w, w % 16 with
  | 0x28, 0 => mustE w (qa && b == 0 && zv) (.ldstat st a4 e)
  | 0x28, 1 => mustE w (qa && zt && zv) (.ldstatSp st a4 t e)
  | 0x28, 2 => mustE w (a == 0 && b == 0 && zv && !e) (.swap st)
  | 0x28, 3 => mustE w (ea && zt) (.mma st a2 t v e)
  | 0x28, 4 => mustE w (ea && zt && zv) (.mmar st a2 t e)
  | 0x29, 0 =>
    if v == 1 then mustE w (zt && !e) (.tclrFill st a t)
    else mustE w (a == 0 && zt && zv && !e) (.tclr st t)
  | 0x29, 1 => mustE w (ea && zt && zv) (.tmovVat st a2 t e)
  | 0x29, 2 => mustE w zt (.tmovV st a t v e)
  | 0x29, 3 => mustE w (a == 0 && zt) (.trowMax st t v e)
  | 0x29, 4 => mustE w (a == 0 && zt) (.trowSum st t v e)
  | 0x29, 5 => mustE w (a == 0 && zt) (.trowRescale st t v e)
  | 0x29, 6 => mustE w (a == 0 && zt) (.trowNorm st t v e)
  | 0x2A, 0 => mustE w (qa && field w 12 2 == 0 && field w 10 2 == 0)
      (.relset st a4 (f4 w 14) (f4 w 6) e)
  | 0x2A, 1 => mustE w (qa && b == 0 && zv) (.lblset st a4 e)
  | 0x2A, 2 => mustE w (qa && b == 0 && zv) (.lsum st a4 e)
  | 0x2A, 3 => mustE w (ea && zt && t != 15 && field w 10 2 == 0) (.ltest st a2 t (f4 w 6) e)
  | _, _ => noMinor

/-- Major 0x2B (10 R215): BRA is BRP on P0 with sense 0 (02 R20). -/
def decBranch (w : Nat) : Except Reject Instr :=
  let p := f4 w 20; let sense := field w 19 1 == 1; let o := BitVec.ofNat 19 (w % 524288)
  if p == 0 && !sense then .ok (.bra (fStall w) o) else .ok (.brp (fStall w) p sense o)

/-- Major 0x2C (10 R216, R217, R220). -/
def decIndirect (w : Nat) : Except Reject Instr :=
  let st := fStall w; let zd := fD w == 0; let zb := fB w == 0; let ea := field w 12 1 == 0
  match w % 64 with
  | 0 => must (zd && zb && ea) (.brx st (f5 w 13))
  | 1 => must (zd && field w 12 2 == 0) (.brt st (f4 w 14) (fB w))
  | 2 => must (zd && zb && ea) (.callx st (f5 w 13))
  | _ => noMinor

/-- Major 0x2D (10 R220 to R222). -/
def decCall (w : Nat) : Except Reject Instr :=
  let st := fStall w
  match field w 20 4 with
  | 0 => must (field w 19 1 == 0) (.call st (BitVec.ofNat 19 (w % 524288)))
  | 1 => must (field w 0 20 == 0) (.ret st)
  | 2 => must (field w 0 8 == 0) (.join st (f4 w 16) (BitVec.ofNat 8 (field w 8 8)))
  | _ => noMinor

/-- Major 0x2E (10 R223 to R226). -/
def decWork (w : Nat) : Except Reject Instr :=
  let st := fStall w; let pOk := field w 22 2 == 0; let ea := field w 12 1 == 0
  let b := fB w
  match w % 64 with
  | 0 => must (pOk && ea && b.toNat ≤ 56) (.fork st (f4 w 18) (f5 w 13) b)
  | 1 => must (pOk && ea && b.toNat ≤ 56) (.spawn st (f4 w 18) (f5 w 13) b)
  | 2 => must (fD w == 0 && fA w == 0 && b == 0) (.endF st)
  | 3 => must pOk (.launch st (f4 w 18) (fA w) b)
  | _ => noMinor

/-- Major 0x2F (10 R227 to R229). -/
def decWait (w : Nat) : Except Reject Instr :=
  let st := fStall w; let z := fD w == 0 && fA w == 0
  match w % 64 with
  | 0 => must (z && fB w == 0) (.yieldW st)
  | 1 => must z (.waitd st (fB w))
  | 2 => must z (.wset st (fB w))
  | 3 => must z (.wslide st (fB w))
  | _ => noMinor

/-- An SRD word: CORECYC, CTXCYC and RETCNT have a row of their own (10 R231). -/
def srdOf (st : Stall) (d : Reg) (r : SysReg) : Instr :=
  match r with
  | .corecyc => .srdCounter st d .corecyc
  | .ctxcyc => .srdCounter st d .ctxcyc
  | .retcnt => .srdCounter st d .retcnt
  | r => .srd st d r

/-- An SWR word: the registers with a row of their own, then the general row; a read-only register is
no SWR (03 R62). -/
def swrOf (st : Stall) (d : Reg) (r : SysReg) : Option Instr :=
  match r with
  | .skipcnt => some (.swrSkipcnt st d)
  | .timer => some (.swrTimer st d)
  | .tctl => some (.swrTctl st d)
  | .slim => some (.swrSlim st d)
  | .fpctl => some (.swrFpctl st d)
  | .fpstat => some (.swrFpstat st d)
  | .sfqhead => some (.sfqheadWrite st d)
  | r => if r.swrGeneral then some (.swr st d r) else none

/-- Counter numbers of CNT (03 R75). -/
def Counter.ofCode (n : Nat) : Option Counter :=
  match n with
  | 0 => some .corecyc | 1 => some .ctxcyc | 2 => some .retcnt
  | _ => none

/-- The number of a counter in CNT (03 R75). -/
def Counter.code : Counter → Nat
  | .corecyc => 0 | .ctxcyc => 1 | .retcnt => 2

/-- The system register of a counter (10 R231). -/
def Counter.reg : Counter → SysReg
  | .corecyc => .corecyc | .ctxcyc => .ctxcyc | .retcnt => .retcnt

/-- Major 0x30 (10 R230, 03 R75). -/
def decSys (w : Nat) : Except Reject Instr :=
  let st := fStall w; let d := fD w; let z := field w 12 4 == 0
  match field w 16 2 with
  | 0 =>
    match SysReg.ofNumber (field w 0 12) with
    | none => noMinor
    | some r => must (z && (!r.is64 || evenReg d)) (srdOf st d r)
  | 1 =>
    match SysReg.ofNumber (field w 0 12) with
    | none => noMinor
    | some r =>
      match swrOf st d r with
      | none => noMinor
      | some i => must (z && (!r.is64 || evenReg d)) i
  | 2 =>
    match Counter.ofCode (field w 0 12) with
    | none => noMinor
    | some c => must (z && evenReg d) (.cnt st d c)
  | _ => noMinor

/-- Major 0x31 (20 R377). -/
def decTrap (w : Nat) : Except Reject Instr :=
  let st := fStall w; let z := fD w == 0 && fA w == 0 && fB w == 0
  match w % 64 with
  | 0 => must (field w 17 1 == 0) (.trap st (fD w) (BitVec.ofNat 11 (field w 6 11)))
  | 1 => must z (.tret st)
  | 2 => must z (.brk st)
  | _ => noMinor

/-- Major 0x32 (20 R386, 18 R333). -/
def decSteward (w : Nat) : Except Reject Instr :=
  let st := fStall w; let sc := Scope.ofCode (field w 18 3)
  let dOk := field w 21 3 == 0 && sc.isTlbi
  match w % 64 with
  | 0 => must (dOk && field w 12 1 == 0) (.tlbiPage st sc (f5 w 13) (fB w))
  | 1 => must (dOk && fA w == 0) (.tlbiCtx st sc (fB w))
  | 2 => must (dOk && fA w == 0 && fB w == 0) (.tlbiAll st sc)
  | 3 => must (fD w == 0) (.wtwake st (fA w) (fB w))
  | _ => noMinor

/-- The instruction a word stands for, from its number (03 R65). -/
def decodeNat (w : Nat) : Except Reject Instr :=
  match fMajor w with
  | 0x00 => decInt w | 0x01 => decInt w | 0x02 => decInt w | 0x03 => decInt w | 0x04 => decInt w
  | 0x05 => .ok (.imad (fStall w) (fD w) (fA w) (fB w) (fC w))
  | 0x06 => decIcmp w
  | 0x07 => decMov w
  | 0x08 => decFp w | 0x09 => decFp w | 0x0A => decFp w
  | 0x0B => .ok (.fma (fStall w) (fD w) (fA w) (fB w) (fC w))
  | 0x0C => .ok (.fms (fStall w) (fD w) (fA w) (fB w) (fC w))
  | 0x0D => .ok (.fnma (fStall w) (fD w) (fA w) (fB w) (fC w))
  | 0x0E => .ok (.fnms (fStall w) (fD w) (fA w) (fB w) (fC w))
  | 0x0F => decFcmp w
  | 0x10 => decSpecial w
  | 0x11 => decPacked w
  | 0x12 => decFp64 w
  | 0x13 => must (evenReg (fD w) && evenReg (fA w) && evenReg (fB w) && evenReg (fC w))
      (.dfma (fStall w) (fD w) (fA w) (fB w) (fC w))
  | 0x14 => decCvt w
  | 0x15 => decQnt w
  | 0x16 => decAddr w
  | 0x17 => decXlane w
  | 0x18 => decReduce w
  | 0x19 => decPred w
  | 0x1A => decWidth w
  | 0x1B => decLoad w
  | 0x1C => decStore w
  | 0x1D => decVat w
  | 0x1E => decAtom w
  | 0x1F => decSync w
  | 0x20 => decGather w
  | 0x21 => decCap w
  | 0x22 => decMap w
  | 0x23 => decMeta w
  | 0x24 => decBarrier w
  | 0x25 => decEng w | 0x26 => decEng w | 0x27 => decEng w
  | 0x28 => decMat w | 0x29 => decMat w | 0x2A => decMat w
  | 0x2B => decBranch w
  | 0x2C => decIndirect w
  | 0x2D => decCall w
  | 0x2E => decWork w
  | 0x2F => decWait w
  | 0x30 => decSys w
  | 0x31 => decTrap w
  | 0x32 => decSteward w
  | 0x3C => .error .headerShaped | 0x3D => .error .headerShaped
  | 0x3E => .error .headerShaped | 0x3F => .error .headerShaped
  | _ => .error .unassignedMajor

/-- The instruction a word stands for. -/
def decodeWord (w : Word) : Except Reject Instr := decodeNat w.toNat

/-- A word that only the steward's mode admits: major 0x32, or SRD or SWR of a number from 0x800
(02 R27 code 0x00D, 03 R62, 18 R351). -/
def stewardOnly (w : Word) : Bool :=
  let n := w.toNat
  fMajor n == 0x32 || (fMajor n == 0x30 && field n 16 2 ≤ 1 && 0x800 ≤ field n 0 12)

/-! ### Execution kinds, classes and headers (02 R22 to R26) -/

/-- The execution kind of a major (02 R23). -/
inductive Kind where
  | alu | mem | eng | mat | ctl
  deriving DecidableEq, Repr

/-- The kind of an assigned major (02 R23). -/
def kindOf (major : Nat) : Kind :=
  if major ≤ 0x1A || major == 0x21 then .alu
  else if major ≤ 0x24 then .mem
  else if major ≤ 0x27 then .eng
  else if major ≤ 0x2A then .mat
  else .ctl

/-- The kinds a class admits (02 R24). -/
def classAdmits (cls : Nat) (k : Kind) : Bool :=
  match cls, k with
  | _, .alu => true
  | 1, .mem => true
  | 2, .mat => true
  | 3, .eng => true
  | 4, .ctl => true
  | 5, _ => true
  | _, _ => false

/-- A word with bits 31:28 equal to 0b1111 is a clause header and nothing else is (02 R18). -/
def isHeader (w : Word) : Bool := w.toNat / 2 ^ 28 == 15

/-- The fields of a clause header (02 R22). -/
structure Header where
  count : Nat
  cls   : Nat
  wait  : BitVec 6
  yieldBit : Bool
  check : Bool
  deriving DecidableEq, Repr

/-- A header's decode code, or its fields (02 R22, R27). -/
def decodeHeader (w : Word) : Except Nat Header :=
  let n := w.toNat
  if field n 24 4 == 0 then .error 0x001
  else if 6 ≤ field n 21 3 then .error 0x002
  else if field n 0 13 != 0 then .error 0x003
  else .ok { count := field n 24 4, cls := field n 21 3, wait := BitVec.ofNat 6 (field n 15 6),
             yieldBit := field n 14 1 == 1, check := field n 13 1 == 1 }

/-- The control-transfer instructions (02 R25). -/
def Instr.isTransfer : Instr → Bool
  | .brp .. | .bra .. | .brx .. | .brt .. | .callx .. | .call .. | .ret .. | .join .. => true
  | .endF .. | .trap .. | .tret .. | .brk .. => true
  | _ => false

/-- The number of words a WHEN guards; 0 for any other instruction (05 R125). -/
def Instr.whenSpan : Instr → Nat
  | .whenP _ _ _ k => k.toNat
  | _ => 0

/-- The decode code of word `i` of a clause body, or its instruction: the conditions of 02 R27 in
their order. `steward` is the privilege mode, `n` the clause's count. -/
def decodeBodyWord (steward : Bool) (cls n i : Nat) (w : Word) : Except Nat Instr :=
  if isHeader w then .error 0x007
  else if 0x33 ≤ fMajor w.toNat then .error 0x009
  else if stewardOnly w && !steward then .error 0x00D
  else
    match decodeWord w with
    | .error r => .error r.code
    | .ok ins =>
      if !classAdmits cls (kindOf (fMajor w.toNat)) then .error 0x004
      else if ins.isTransfer && i + 1 != n then .error 0x005
      else if n < i + 1 + ins.whenSpan then .error 0x008
      else .ok ins

/-- Decodes the words of a body in address order; the lowest faulting word is reported (02 R27). -/
def decodeBody (steward : Bool) (cls n : Nat) : Nat → List Word → Except (Nat × Nat × Word) (List Instr)
  | _, [] => .ok []
  | i, w :: ws =>
    match decodeBodyWord steward cls n i w with
    | .error c => .error (i, c, w)
    | .ok ins =>
      match decodeBody steward cls n (i + 1) ws with
      | .error e => .error e
      | .ok rest => .ok (ins :: rest)

/-! ### The encoder -/

/-- An A3 word from its fields (02 R19). -/
def wA3 (major : Nat) (st : Stall) (d a b minor : Nat) : Nat :=
  major * 2 ^ 26 + st.toNat * 2 ^ 24 + d * 2 ^ 18 + a * 2 ^ 12 + b * 2 ^ 6 + minor

/-- An I16 word from its fields (02 R19). -/
def wI16 (major : Nat) (st : Stall) (d sub imm : Nat) : Nat :=
  major * 2 ^ 26 + st.toNat * 2 ^ 24 + d * 2 ^ 18 + sub * 2 ^ 16 + imm

/-- The bits of an index field (03 R72). -/
def Index.code (x : Index) : Nat := (if x.isS then 32 else 0) + x.pair.toNat

/-- An M word from its fields (02 R19). -/
def wM (major : Nat) (st : Stall) (d c x sc code k : Nat) : Nat :=
  major * 2 ^ 26 + st.toNat * 2 ^ 24 + d * 2 ^ 18 + c * 2 ^ 14 + x * 2 ^ 8 + sc * 2 ^ 5
    + code * 2 ^ 2 + k

/-- The E-format counter code (02 R21). -/
def eCode (e : Bool) : Nat := if e then 1 else 0

/-- An E word from its fields (02 R19). -/
def wE (major : Nat) (st : Stall) (a b v ctr minor : Nat) : Nat :=
  major * 2 ^ 26 + st.toNat * 2 ^ 24 + a * 2 ^ 18 + b * 2 ^ 12 + v * 2 ^ 6 + ctr * 2 ^ 4 + minor

/-- A B word from its fields (02 R19). -/
def wB (major : Nat) (st : Stall) (p sense o : Nat) : Nat :=
  major * 2 ^ 26 + st.toNat * 2 ^ 24 + p * 2 ^ 20 + sense * 2 ^ 19 + o

/-- An atomic word from its fields (03 R73). -/
def wAtom (st : Stall) (d4 kind c pair t sc o k : Nat) : Nat :=
  0x1E * 2 ^ 26 + st.toNat * 2 ^ 24 + d4 * 2 ^ 20 + kind * 2 ^ 19 + c * 2 ^ 16 + pair * 2 ^ 11
    + t * 2 ^ 8 + sc * 2 ^ 5 + o * 2 ^ 2 + k

/-- The code of LD's type (13 R274). -/
def LdType.code : LdType → Nat
  | .n8 => 0 | .i8 => 1 | .n16 => 2 | .i16 => 3 | .n32 => 4 | .n64 => 5

/-- The code of LDNR's width (13 R275). -/
def NrType.code : NrType → Nat
  | .n32 => 6 | .n64 => 7

/-- The code of ST's form (13 R276). -/
def StType.code : StType → Nat
  | .n8 => 0 | .n16 => 1 | .n32 => 2 | .n64 => 3 | .n32nt => 4 | .n64nt => 5

/-- The element type bit of a packed word (05 R117). -/
def HalfType.code : HalfType → Nat
  | .f16 => 0 | .bf16 => 32

/-- A truth value as a bit. -/
def bit1 (b : Bool) : Nat := if b then 1 else 0

/-- The word of an instruction, as a number; an event has none. -/
def encodeNat : Instr → Option Nat
  | .add st f d a b => some (wA3 f.code st d.toNat a.toNat b.toNat 0x00)
  | .sub st f d a b => some (wA3 f.code st d.toNat a.toNat b.toNat 0x01)
  | .mul st f d a b => some (wA3 f.code st d.toNat a.toNat b.toNat 0x02)
  | .mulhI32 st f d a b => some (wA3 f.code st d.toNat a.toNat b.toNat 0x03)
  | .mulhN32 st f d a b => some (wA3 f.code st d.toNat a.toNat b.toNat 0x04)
  | .divI32 st f d a b => some (wA3 f.code st d.toNat a.toNat b.toNat 0x05)
  | .divN32 st f d a b => some (wA3 f.code st d.toNat a.toNat b.toNat 0x06)
  | .remI32 st f d a b => some (wA3 f.code st d.toNat a.toNat b.toNat 0x07)
  | .remN32 st f d a b => some (wA3 f.code st d.toNat a.toNat b.toNat 0x08)
  | .andI st f d a b => some (wA3 f.code st d.toNat a.toNat b.toNat 0x09)
  | .orI st f d a b => some (wA3 f.code st d.toNat a.toNat b.toNat 0x0A)
  | .xorI st f d a b => some (wA3 f.code st d.toNat a.toNat b.toNat 0x0B)
  | .andn st f d a b => some (wA3 f.code st d.toNat a.toNat b.toNat 0x0C)
  | .shl st f d a b => some (wA3 f.code st d.toNat a.toNat b.toNat 0x0D)
  | .shr st f d a b => some (wA3 f.code st d.toNat a.toNat b.toNat 0x0E)
  | .sar st f d a b => some (wA3 f.code st d.toNat a.toNat b.toNat 0x0F)
  | .rol st f d a b => some (wA3 f.code st d.toNat a.toNat b.toNat 0x10)
  | .minI32 st f d a b => some (wA3 f.code st d.toNat a.toNat b.toNat 0x11)
  | .minN32 st f d a b => some (wA3 f.code st d.toNat a.toNat b.toNat 0x12)
  | .maxI32 st f d a b => some (wA3 f.code st d.toNat a.toNat b.toNat 0x13)
  | .maxN32 st f d a b => some (wA3 f.code st d.toNat a.toNat b.toNat 0x14)
  | .clz st f d a => some (wA3 f.code st d.toNat a.toNat 0 0x15)
  | .popc st f d a => some (wA3 f.code st d.toNat a.toNat 0 0x16)
  | .brev st f d a => some (wA3 f.code st d.toNat a.toNat 0 0x17)
  | .addsatI32 st f d a b => some (wA3 f.code st d.toNat a.toNat b.toNat 0x18)
  | .subsatI32 st f d a b => some (wA3 f.code st d.toNat a.toNat b.toNat 0x19)
  | .imad st d a b c => some (wA3 0x05 st d.toNat a.toNat b.toNat c.toNat)
  | .icmp st f c p a b => some (wA3 0x06 st p.toNat a.toNat b.toNat (f.code * 16 + c.code))
  | .movl st d imm => some (wI16 0x07 st d.toNat 0 imm.toNat)
  | .movh st d imm => some (wI16 0x07 st d.toNat 1 imm.toNat)
  | .addi st d imm => some (wI16 0x07 st d.toNat 2 imm.toNat)
  | .movlS st d imm => some (wI16 0x07 st d.toNat 3 imm.toNat)
  | .fadd st f d a b => some (wA3 (8 + f.code) st d.toNat a.toNat b.toNat 0)
  | .fsub st f d a b => some (wA3 (8 + f.code) st d.toNat a.toNat b.toNat 1)
  | .fmul st f d a b => some (wA3 (8 + f.code) st d.toNat a.toNat b.toNat 2)
  | .fmin st f d a b => some (wA3 (8 + f.code) st d.toNat a.toNat b.toNat 3)
  | .fmax st f d a b => some (wA3 (8 + f.code) st d.toNat a.toNat b.toNat 4)
  | .fabs st f d a => some (wA3 (8 + f.code) st d.toNat a.toNat 0 5)
  | .fneg st f d a => some (wA3 (8 + f.code) st d.toNat a.toNat 0 6)
  | .fsat st f d a => some (wA3 (8 + f.code) st d.toNat a.toNat 0 7)
  | .fma st d a b c => some (wA3 0x0B st d.toNat a.toNat b.toNat c.toNat)
  | .fms st d a b c => some (wA3 0x0C st d.toNat a.toNat b.toNat c.toNat)
  | .fnma st d a b c => some (wA3 0x0D st d.toNat a.toNat b.toNat c.toNat)
  | .fnms st d a b c => some (wA3 0x0E st d.toNat a.toNat b.toNat c.toNat)
  | .fcmp st f c p a b => some (wA3 0x0F st p.toNat a.toNat b.toNat (f.code * 16 + c.code))
  | .frcp st d a => some (wA3 0x10 st d.toNat a.toNat 0 0)
  | .frsq st d a => some (wA3 0x10 st d.toNat a.toNat 0 1)
  | .fsqrt st d a => some (wA3 0x10 st d.toNat a.toNat 0 2)
  | .fdiv st d a b => some (wA3 0x10 st d.toNat a.toNat b.toNat 3)
  | .fexp2 st d a => some (wA3 0x10 st d.toNat a.toNat 0 4)
  | .flog2 st d a => some (wA3 0x10 st d.toNat a.toNat 0 5)
  | .frndRn st d a => some (wA3 0x10 st d.toNat a.toNat 0 6)
  | .frndRz st d a => some (wA3 0x10 st d.toNat a.toNat 0 7)
  | .frndRu st d a => some (wA3 0x10 st d.toNat a.toNat 0 8)
  | .frndRd st d a => some (wA3 0x10 st d.toNat a.toNat 0 9)
  | .padd st t d a b => some (wA3 0x11 st d.toNat a.toNat b.toNat (t.code + 0))
  | .psub st t d a b => some (wA3 0x11 st d.toNat a.toNat b.toNat (t.code + 1))
  | .pmul st t d a b => some (wA3 0x11 st d.toNat a.toNat b.toNat (t.code + 2))
  | .pmin st t d a b => some (wA3 0x11 st d.toNat a.toNat b.toNat (t.code + 3))
  | .pmax st t d a b => some (wA3 0x11 st d.toNat a.toNat b.toNat (t.code + 4))
  | .pfma st t d a b => some (wA3 0x11 st d.toNat a.toNat b.toNat (t.code + 5))
  | .dadd st d a b => some (wA3 0x12 st d.toNat a.toNat b.toNat 0)
  | .dsub st d a b => some (wA3 0x12 st d.toNat a.toNat b.toNat 1)
  | .dmul st d a b => some (wA3 0x12 st d.toNat a.toNat b.toNat 2)
  | .dmin st d a b => some (wA3 0x12 st d.toNat a.toNat b.toNat 3)
  | .dmax st d a b => some (wA3 0x12 st d.toNat a.toNat b.toNat 4)
  | .dabs st d a => some (wA3 0x12 st d.toNat a.toNat 0 5)
  | .dneg st d a => some (wA3 0x12 st d.toNat a.toNat 0 6)
  | .dcmp st c p a b => some (wA3 0x12 st p.toNat a.toNat b.toNat (0x10 + c.code))
  | .dfma st d a b c => some (wA3 0x13 st d.toNat a.toNat b.toNat c.toNat)
  | .cvt st dst rnd src d a =>
      some (wA3 0x14 st d.toNat a.toNat (dst.code * 4 + rnd.code) src.code)
  | .qnt st d a b => some (wA3 0x15 st d.toNat a.toNat b.toNat 0)
  | .dqn st d a b => some (wA3 0x15 st d.toNat a.toNat b.toNat 1)
  | .add64 st d a b => some (wA3 0x16 st d.toNat a.toNat b.toNat 1)
  | .sub64 st d a b => some (wA3 0x16 st d.toNat a.toNat b.toNat 2)
  | .cmp64 st c p a b => some (wA3 0x16 st p.toNat a.toNat b.toNat (8 + c.code))
  | .lea st h d a b => some (wA3 0x16 st d.toNat a.toNat b.toNat (0x10 + h.toNat))
  | .shflIdx st d a b => some (wA3 0x17 st d.toNat a.toNat b.toNat 0)
  | .shflUp st d a b => some (wA3 0x17 st d.toNat a.toNat b.toNat 1)
  | .shflDown st d a b => some (wA3 0x17 st d.toNat a.toNat b.toNat 2)
  | .shflXor st d a b => some (wA3 0x17 st d.toNat a.toNat b.toNat 3)
  | .perm st d a b => some (wA3 0x17 st d.toNat a.toNat b.toNat 4)
  | .voteAny st p q => some (wA3 0x17 st p.toNat q.toNat 0 5)
  | .voteAll st p q => some (wA3 0x17 st p.toNat q.toNat 0 6)
  | .voteBallot st d q b => some (wA3 0x17 st d.toNat q.toNat b.toNat 7)
  | .bcast st d a b => some (wA3 0x17 st d.toNat a.toNat b.toNat 8)
  | .matchL st d a => some (wA3 0x17 st d.toNat a.toNat 0 9)
  | .xred st o d a => some (wA3 0x18 st d.toNat a.toNat 0 o.code)
  | .xscanInc st o d a => some (wA3 0x18 st d.toNat a.toNat 0 (16 + o.code))
  | .xscanExc st o d a => some (wA3 0x18 st d.toNat a.toNat 0 (32 + o.code))
  | .xseg st o d a p => some (wA3 0x18 st d.toNat a.toNat p.toNat (48 + o.code))
  | .pand st d a b => some (wA3 0x19 st d.toNat a.toNat b.toNat 0)
  | .por st d a b => some (wA3 0x19 st d.toNat a.toNat b.toNat 1)
  | .pxor st d a b => some (wA3 0x19 st d.toNat a.toNat b.toNat 2)
  | .pandn st d a b => some (wA3 0x19 st d.toNat a.toNat b.toNat 3)
  | .pnot st d a => some (wA3 0x19 st d.toNat a.toNat 0 4)
  | .pmov st d a => some (wA3 0x19 st d.toNat a.toNat 0 5)
  | .whenP st p sense k => some (wA3 0x19 st k.toNat (bit1 sense) 0 (16 + p.toNat))
  | .sel st p d a b => some (wA3 0x19 st d.toNat a.toNat b.toNat (32 + p.toNat))
  | .width st d a => some (wA3 0x1A st d.toNat a.toNat 0 0)
  | .vxld st d a => some (wA3 0x1A st d.toNat a.toNat 0 1)
  | .vxst st d a => some (wA3 0x1A st d.toNat a.toNat 0 2)
  | .ld st t sc d c x k => some (wM 0x1B st d.toNat c.toNat x.code sc.code t.code k.toNat)
  | .ldnr st t sc d c x k => some (wM 0x1B st d.toNat c.toNat x.code sc.code t.code k.toNat)
  | .store st t sc d c x k => some (wM 0x1C st d.toNat c.toNat x.code sc.code t.code k.toNat)
  | .vldN32 st d v x k => some (wM 0x1D st d.toNat v.code x.code 0 0 k.toNat)
  | .vldN64 st d v x k => some (wM 0x1D st d.toNat v.code x.code 0 1 k.toNat)
  | .vldCap st d v x k => some (wM 0x1D st d.toNat v.code x.code 0 2 k.toNat)
  | .vstN32 st d v x k => some (wM 0x1D st d.toNat v.code x.code 0 3 k.toNat)
  | .vstN64 st d v x k => some (wM 0x1D st d.toNat v.code x.code 0 4 k.toNat)
  | .vstCap st d v x k => some (wM 0x1D st d.toNat v.code x.code 0 5 k.toNat)
  | .vldsN32 st d v pair k => some (wM 0x1D st d.toNat v.code (32 + pair.toNat) 0 6 k.toNat)
  | .vstN8 st d v x k => some (wM 0x1D st d.toNat v.code x.code 0 7 k.toNat)
  | .atom st t o sc d4 c pair k =>
      some (wAtom st d4.toNat 0 c.toNat pair.toNat t.code sc.code o.code k.toNat)
  | .ared st t o sc d4 c pair k =>
      some (wAtom st d4.toNat 1 c.toNat pair.toNat t.code sc.code o.code k.toNat)
  | .fence st sc => some (wM 0x1F st 0 0 0 sc.code 0 0)
  | .ldaN32 st sc d c x k => some (wM 0x1F st d.toNat c.toNat x.code sc.code 1 k.toNat)
  | .ldaN64 st sc d c x k => some (wM 0x1F st d.toNat c.toNat x.code sc.code 2 k.toNat)
  | .stlN32 st sc d c x k => some (wM 0x1F st d.toNat c.toNat x.code sc.code 3 k.toNat)
  | .stlN64 st sc d c x k => some (wM 0x1F st d.toNat c.toNat x.code sc.code 4 k.toNat)
  | .ifence st sc => some (wM 0x1F st 0 0 0 sc.code 5 0)
  | .dfence st sc => some (wM 0x1F st 0 0 0 sc.code 6 0)
  | .gathN32 st sc d q x k => some (wM 0x20 st d.toNat q.toNat x.code sc.code 0 k.toNat)
  | .gathN64 st sc d q x k => some (wM 0x20 st d.toNat q.toNat x.code sc.code 1 k.toNat)
  | .scatN32 st sc d q x k => some (wM 0x20 st d.toNat q.toNat x.code sc.code 2 k.toNat)
  | .scatN64 st sc d q x k => some (wM 0x20 st d.toNat q.toNat x.code sc.code 3 k.toNat)
  | .cnarrow st d4 a4 b4 => some (wA3 0x21 st (d4.toNat * 4) (a4.toNat * 4) (b4.toNat * 4) 0)
  | .cperm st d4 a4 b => some (wA3 0x21 st (d4.toNat * 4) (a4.toNat * 4) b.toNat 1)
  | .cgetBase st d a4 => some (wA3 0x21 st d.toNat (a4.toNat * 4) 0 2)
  | .cgetLen st d a4 => some (wA3 0x21 st d.toNat (a4.toNat * 4) 0 3)
  | .cgetPerm st d a4 => some (wA3 0x21 st d.toNat (a4.toNat * 4) 0 4)
  | .cgetTid st d a4 => some (wA3 0x21 st d.toNat (a4.toNat * 4) 0 5)
  | .cgetTag st d a4 => some (wA3 0x21 st d.toNat (a4.toNat * 4) 0 6)
  | .cmov st d4 a4 srcV dstS =>
      some (wA3 0x21 st (d4.toNat * 4) (a4.toNat * 4) (bit1 srcV * 2 + bit1 dstS) 7)
  | .vmap st sc d c pair k =>
      some (wM 0x22 st d.toNat c.toNat (32 + pair.toNat) sc.code 0 k.toNat)
  | .vsync st sc d k => some (wM 0x22 st d.toNat 0 0 sc.code 1 k.toNat)
  | .vunmap st sc d k => some (wM 0x22 st d.toNat 0 0 sc.code 2 k.toNat)
  | .preq st d c x k => some (wM 0x22 st d.toNat c.toNat x.code 0 3 k.toNat)
  | .pwait st d => some (wM 0x22 st d.toNat 0 0 0 4 0)
  | .pcancel st d k => some (wM 0x22 st d.toNat 0 0 0 5 k.toNat)
  | .promo st d c x k => some (wM 0x22 st d.toNat c.toNat x.code 0 6 k.toNat)
  | .mld st j c pair k => some (wM 0x23 st j.toNat c.toNat (32 + pair.toNat) 0 0 k.toNat)
  | .cflush st c x k => some (wM 0x23 st 0 c.toNat x.code 0 1 k.toNat)
  | .kvalloc st sc d c x k => some (wM 0x23 st d.toNat c.toNat x.code sc.code 2 k.toNat)
  | .kvset st sc d c x k => some (wM 0x23 st d.toNat c.toNat x.code sc.code 3 k.toNat)
  | .binit st sc d v x k => some (wM 0x24 st d.toNat v.code x.code sc.code 0 k.toNat)
  | .barr st sc d v x k => some (wM 0x24 st d.toNat v.code x.code sc.code 1 k.toNat)
  | .bexp st sc d v x k => some (wM 0x24 st d.toNat v.code x.code sc.code 2 k.toNat)
  | .bwait st sc d v x => some (wM 0x24 st d.toNat v.code x.code sc.code 3 0)
  | .btest st sc d v x k => some (wM 0x24 st d.toNat v.code x.code sc.code 4 k.toNat)
  | .kick st a v e => some (wE 0x25 st a.toNat 0 v.toNat (eCode e) 0)
  | .ofence st => some (wE 0x25 st 0 0 0 0 1)
  | .blendStat st a4 e => some (wE 0x26 st (a4.toNat * 4) 0 0 (eCode e) 0)
  | .blendAcc st a4 e => some (wE 0x26 st (a4.toNat * 4) 0 0 (eCode e) 1)
  | .rank st a4 b v e => some (wE 0x27 st (a4.toNat * 4) b.toNat v.toNat (eCode e) 0)
  | .unrank st a v e => some (wE 0x27 st a.toNat 0 v.toNat (eCode e) 1)
  | .attld st a t e => some (wE 0x27 st a.toNat 0 t.toNat (eCode e) 2)
  | .ldstat st a4 e => some (wE 0x28 st (a4.toNat * 4) 0 0 (eCode e) 0)
  | .ldstatSp st a4 j e => some (wE 0x28 st (a4.toNat * 4) j.toNat 0 (eCode e) 1)
  | .swap st => some (wE 0x28 st 0 0 0 0 2)
  | .mma st a2 t v e => some (wE 0x28 st (a2.toNat * 2) t.toNat v.toNat (eCode e) 3)
  | .mmar st a2 t e => some (wE 0x28 st (a2.toNat * 2) t.toNat 0 (eCode e) 4)
  | .tclr st t => some (wE 0x29 st 0 t.toNat 0 0 0)
  | .tclrFill st a t => some (wE 0x29 st a.toNat t.toNat 1 0 0)
  | .tmovVat st a2 t e => some (wE 0x29 st (a2.toNat * 2) t.toNat 0 (eCode e) 1)
  | .tmovV st a t v e => some (wE 0x29 st a.toNat t.toNat v.toNat (eCode e) 2)
  | .trowMax st t v e => some (wE 0x29 st 0 t.toNat v.toNat (eCode e) 3)
  | .trowSum st t v e => some (wE 0x29 st 0 t.toNat v.toNat (eCode e) 4)
  | .trowRescale st t v e => some (wE 0x29 st 0 t.toNat v.toNat (eCode e) 5)
  | .trowNorm st t v e => some (wE 0x29 st 0 t.toNat v.toNat (eCode e) 6)
  | .relset st a4 b4 slot e =>
      some (wE 0x2A st (a4.toNat * 4) (b4.toNat * 4) slot.toNat (eCode e) 0)
  | .lblset st a4 e => some (wE 0x2A st (a4.toNat * 4) 0 0 (eCode e) 1)
  | .lsum st a4 e => some (wE 0x2A st (a4.toNat * 4) 0 0 (eCode e) 2)
  | .ltest st a2 p slot e => some (wE 0x2A st (a2.toNat * 2) p.toNat slot.toNat (eCode e) 3)
  | .brp st p sense o => some (wB 0x2B st p.toNat (bit1 sense) o.toNat)
  | .bra st o => some (wB 0x2B st 0 0 o.toNat)
  | .brx st a2 => some (wA3 0x2C st 0 (a2.toNat * 2) 0 0)
  | .brt st c b => some (wA3 0x2C st 0 (c.toNat * 4) b.toNat 1)
  | .callx st a2 => some (wA3 0x2C st 0 (a2.toNat * 2) 0 2)
  | .call st o => some (wB 0x2D st 0 0 o.toNat)
  | .ret st => some (wB 0x2D st 1 0 0)
  | .join st p i => some (wB 0x2D st 2 0 (p.toNat * 65536 + i.toNat * 256))
  | .fork st p a2 b => some (wA3 0x2E st p.toNat (a2.toNat * 2) b.toNat 0)
  | .spawn st p a2 b => some (wA3 0x2E st p.toNat (a2.toNat * 2) b.toNat 1)
  | .endF st => some (wA3 0x2E st 0 0 0 2)
  | .launch st p a b => some (wA3 0x2E st p.toNat a.toNat b.toNat 3)
  | .yieldW st => some (wA3 0x2F st 0 0 0 0)
  | .waitd st m => some (wA3 0x2F st 0 0 m.toNat 1)
  | .wset st i => some (wA3 0x2F st 0 0 i.toNat 2)
  | .wslide st i => some (wA3 0x2F st 0 0 i.toNat 3)
  | .srd st d r => some (wI16 0x30 st d.toNat 0 r.number)
  | .swr st d r => some (wI16 0x30 st d.toNat 1 r.number)
  | .cnt st d c => some (wI16 0x30 st d.toNat 2 c.code)
  | .trap st d c => some (0x31 * 2 ^ 26 + st.toNat * 2 ^ 24 + d.toNat * 2 ^ 18 + c.toNat * 2 ^ 6)
  | .tret st => some (wA3 0x31 st 0 0 0 1)
  | .brk st => some (wA3 0x31 st 0 0 0 2)
  | .tlbiPage st sc a2 b => some (wA3 0x32 st sc.code (a2.toNat * 2) b.toNat 0)
  | .tlbiCtx st sc b => some (wA3 0x32 st sc.code 0 b.toNat 1)
  | .tlbiAll st sc => some (wA3 0x32 st sc.code 0 0 2)
  | .wtwake st a b => some (wA3 0x32 st 0 a.toNat b.toNat 3)
  | .swrSkipcnt st d => some (wI16 0x30 st d.toNat 1 0x051)
  | .swrTimer st d => some (wI16 0x30 st d.toNat 1 0x023)
  | .swrTctl st d => some (wI16 0x30 st d.toNat 1 0x024)
  | .swrSlim st d => some (wI16 0x30 st d.toNat 1 0x040)
  | .swrFpctl st d => some (wI16 0x30 st d.toNat 1 0x030)
  | .swrFpstat st d => some (wI16 0x30 st d.toNat 1 0x031)
  | .srdCounter st d c => some (wI16 0x30 st d.toNat 0 c.reg.number)
  | .sfqheadWrite st d => some (wI16 0x30 st d.toNat 1 0x803)
  | .clauseDecode | .detStep | .interlockResult .. | .accessComplete .. | .engineCommandComplete .. => none
  | .mmaChunk | .timerExpire | .groupFail | .tlbiAck .. | .launchAccept .. | .groupStart .. | .clusterStart .. => none
  | .groupEnd .. | .binTimeout .. | .cooperLaunch | .binSteal .. | .stealQueuePost .. | .preemptAck .. => none
  | .restore .. | .followOnEntry | .decanterRequestBegin | .decanterSegment | .soleraPromote .. => none
  | .moveInstall .. | .finingStart .. | .finingMark .. | .finingClose .. | .finingSweep .. | .boot => none
  | .issueStarvationPromote .. | .vatStarvationPromote .. | .homeRefusal .. | .boundaryTrap => none
  | .hardwareError .. | .collectorWindowClose | .contextCreate .. | .codeObjectRegister .. | .queueCreate .. => none
  | .rootInstall .. | .poolRegister .. | .racking .. | .preemptRequest .. | .soleraDemote .. => none
  | .moduleTierRead .. | .moduleTierWrite .. | .hostAccess .. | .trellisAccess .. | .rdmaMessage .. => none
  | .portHalfWidth .. | .powerControlWrite .. | .retryWrite .. | .resetWrite .. | .evringConfigWrite .. => none
  | .evheadWrite .. | .attestationRequest .. | .mgmtRegisterWrite .. | .powerStateEnter .. | .powerWake => none
  | .clockThrottle .. | .coreRetire .. | .powerLoss | .deviceLeavesDomain .. => none

/-- The word of a well-formed instruction; an event has none. -/
def encode (i : Instr) : Option Word := (encodeNat i).map (BitVec.ofNat 32)

/-- The instruction read from the bits of one table row: every row with an encoding has 32 bits, laid
out little-endian (00 R2), so the number of the word is the word. -/
def decodeTableWord (nbits w : Nat) : Option Instr :=
  if nbits == 32 then
    match decodeWord (BitVec.ofNat 32 w) with
    | .ok i => some i
    | .error _ => none
  else none

end Sys2Proof
end

