-- ==== Sys2Proof/Machine/State.lean ====
section
/-!
DEFINITION. Sys2Proof/Machine/State.lean: the state of the device as plain data (03 R51 to R64, 09 R182,
18 R350, 19 R355, 21 R390 to R397), and the state after reset. INVENTORY.md lists every piece with its
rule and its reset value. Registers and memory are sparse maps with default 0 (see Machine/Bits.lean).
-/

namespace Sys2Proof.Machine

open Sys2Proof

/-- Byte memory: canonical (address, byte) pairs. An unlisted byte reads 0 (DESIGN CHOICE, log 4). -/
abbrev Memory := List Host.Cell

/-- 32-bit registers by number. -/
abbrev Regs := List (Nat × Word)

/-- Flags (tags, predicates) by number. -/
abbrev Flags := List (Nat × Bool)

/-! ### Traps and faults -/

/-- Cause group, code and detail of a trap (20 R374). -/
structure TrapInfo where
  group : Nat := 0
  code  : Nat := 0
  d0    : Word := 0
  d1    : Word := 0
  d2    : Word := 0
  deriving DecidableEq, Repr, Inhabited

/-- A 32-byte fault record before it is written (20 R382). -/
structure FaultRecord where
  info      : TrapInfo := {}
  fibid     : Word := 0
  pc        : Nat := 0
  wctx      : Nat := 0
  core      : Nat := 0
  ctx       : Nat := 0
  abandoned : Bool := false
  nested    : Bool := false
  unhandled : Bool := false
  retired   : Bool := false
  deriving DecidableEq, Repr, Inhabited

/-! ### Fibres -/

/-- Run state (03 R60). -/
inductive RunState where
  | running | joining | parked | ended
  deriving DecidableEq, Repr, Inhabited

/-- An open WHEN span: the words it still guards and the fibre's sampled guard (05 R125, R126). -/
structure Span where
  rem   : Nat := 0
  guardBit : Bool := true
  deriving DecidableEq, Repr, Inhabited

/-- A decoded clause: header address, header word, and the words as fetched (02 R27, R28). -/
structure ClauseBuf where
  addr  : Nat := 0
  hdr   : Word := 0
  words : List Word := []
  deriving DecidableEq, Repr, Inhabited

/-- What a parked fibre waits on (14 R300, 18 R328, R331, 21 R395). Of the set that parks on a fault,
`lead` marks the fibre that met it, with the address that the fault reports; of the set that a BWAIT parks, its lowest
lane. -/
inductive Park where
  | none
  | barrier (field : Num4) (off : Nat) (phase : Nat) (sc : Scope) (lead : Bool)
  | wait (token : Word)
  | fault (token : Word) (info : TrapInfo) (lead : Option Nat)
  deriving DecidableEq, Repr, Inhabited

/-- One logical lane of a wave (03 R60, 21 R395). `unfenced` lists the writes of allocation
registers since the wave's last OFENCE, or fenced at a time of `fresh` while an array command was queued, each
with the value before it (06 R142). -/
structure Fibre where
  present : Bool := false
  run     : RunState := .ended
  pc      : Nat := 0
  jid     : Byte := 0
  preds   : Flags := []
  base    : Nat := 0
  alloc   : Nat := 16
  v       : Regs := []
  vtags   : Flags := []
  frames  : List (Pc × Byte) := []
  slim    : Nat := 4096
  fibid   : Word := 0
  lvl     : List Word := []
  task    : Bool := false
  inSet   : Bool := false
  age     : Nat := 0
  clause  : Option ClauseBuf := none
  prev    : Option (Nat × Word) := none
  spans   : List Span := []
  rspans  : List Span := []
  park    : Park := .none
  wakeTrap : Option (TrapInfo × Option Nat) := none
  inHandler : Bool := false
  unfenced : List (Nat × Nat × Word) := []
  deriving DecidableEq, Repr, Inhabited

/-! ### Waves -/

/-- Register files of the scoreboard (20 R374). -/
inductive RegFile where
  | v | s | p
  deriving DecidableEq, Repr, Inhabited

/-- A fixed-latency write in flight: visible from slot `ready` on; `old` is the value before it
(02 R31, R33, R34). `lane` is 0 for an S register. With `ctr` the write is that of an operation on a counter
which has completed: until a wait on the counter a read may still be old (13 R273). -/
structure BoardEntry where
  file  : RegFile
  reg   : Nat
  lane  : Nat
  old   : Word
  slot  : Nat
  lat   : Nat
  ctr   : Option Nat := none
  deriving DecidableEq, Repr, Inhabited

/-- A write of a system register in flight: the register, its lane where it is a fibre's own, the value before
it, and its slot (02 R31, R33). -/
structure SysEntry where
  reg  : SysReg
  lane : Nat
  old  : DWord
  slot : Nat
  deriving DecidableEq, Repr

/-- An interlocked result not yet written (02 R32): the writes to make, by file, lane and register. -/
structure Interlock where
  writes : List (RegFile × Nat × Nat × Word) := []
  deriving DecidableEq, Repr, Inhabited

/-- Registers an array or engine command holds until the wave's wait (06 R141). -/
structure Lent where
  ctr    : Nat
  tilesW : List Nat := []
  metas  : List Nat := []
  vread  : List (Nat × Nat) := []
  vwrite : List (Nat × Nat) := []
  deriving DecidableEq, Repr, Inhabited

/-- Where an access is performed (12 R249). -/
inductive Space where
  | global
  | vat (group : Nat)
  deriving DecidableEq, Repr, Inhabited

/-- What an outstanding access does when it is performed (13 R273). -/
inductive MemKind where
  | load (t : LdType)
  | loadNr (w : Nat)
  | loadS
  | loadCap
  | store
  | storeCap
  | atom (t : AtomType) (o : AtomOp) (ret : Bool)
  | vmap
  | vsync (off : Nat) (drop : Bool)
  | preq
  | pcancel
  | promo
  | cflush
  | kvalloc
  | kvset
  | binit
  | barr
  | bexp
  | btest
  deriving DecidableEq, Repr, Inhabited

/-- One lane's part of an outstanding access. `virt` is the virtual address or Vat offset, `phys` its
physical address, `dst` the allocation register its result is written to. -/
structure LaneReq where
  lane  : Nat := 0
  virt  : Nat := 0
  phys  : Nat := 0
  dst   : Nat := 0
  fibid : Word := 0
  data  : DWord := 0
  data2 : DWord := 0
  tag   : Bool := false
  deriving DecidableEq, Repr, Inhabited

/-- An access issued and not yet complete (13 R273, 02 R35). `dead` holds the destination registers that a
later instruction has written: writes land in issue order (02 R33). `stamp` is the time of `fresh` at its issue. -/
structure MemOp where
  kind  : MemKind
  space : Space := .global
  w     : Nat := 4
  sc    : Scope := .fibre
  ctr   : Nat := 0
  pc    : Nat := 0
  acquire : Bool := false
  release : Bool := false
  nt    : Bool := false
  gather : Bool := false
  reqs  : List LaneReq := []
  dead  : List (RegFile × Nat × Nat) := []
  stamp : Nat := 0
  deriving DecidableEq, Repr, Inhabited

/-- The resume record of handler mode (20 R375). -/
structure Resume where
  addr   : Nat := 0
  clause : Option ClauseBuf := none
  deriving DecidableEq, Repr, Inhabited

/-- An open join record: expected and arrived lanes (10 R222). -/
structure JoinRec where
  id       : Byte
  expected : List Nat
  arrived  : List Nat
  deriving DecidableEq, Repr, Inhabited

/-- A pending imprecise record (20 R385): the trap detail with the fibre and the PC it belongs to, and the
sequence number, the wave context and the core with which it was posted (20 R382). -/
structure Pend19 where
  info  : TrapInfo
  fibid : Word
  pc    : Nat := 0
  seq   : Nat := 0
  wctx  : Nat := 0
  core  : Nat := 0
  deriving DecidableEq, Repr, Inhabited

/-- A wave (03 R61, 21 R394). `retseen` is the greatest count that a CNT or an SRD of RETCNT has returned. -/
structure Wave where
  wid    : Nat := 0
  slot   : Nat := 0
  ctx    : Nat := 0
  launch : Nat := 0
  group  : Option Nat := none
  index  : Nat := 0
  steward : Bool := false
  g      : Nat := 0
  lanes  : List Fibre := []
  s      : Regs := []
  stags  : Flags := []
  d      : List (Nat × Nat) := []
  wchg   : Bool := false
  chk    : Bool := false
  det    : Bool := false
  chkd   : Bool := false
  fpctl  : Word := 0
  fpstat : Word := 0
  timer  : Word := 0
  tctl   : Word := 0
  ctxcyc : DWord := 0
  retcnt : DWord := 0
  retseen : DWord := 0
  tvec   : DWord := 0
  tpc    : DWord := 0
  tcause : Word := 0
  tdet0  : Word := 0
  tdet1  : Word := 0
  tdet2  : Word := 0
  sctx   : Word := 0
  cur    : Option ClauseBuf := none
  handler : Bool := false
  resume : Resume := {}
  pend17 : Bool := false
  pend19 : List Pend19 := []
  joins  : List JoinRec := []
  slotNo : Nat := 0
  board  : List BoardEntry := []
  sysBoard : List SysEntry := []
  interlocks : List Interlock := []
  outst  : List MemOp := []
  lent   : List Lent := []
  engW   : List (Nat × RegFile × Nat × Nat) := []
  lasthdr : Nat := 0
  waitMask : BitVec 6 := 0
  stalled : Bool := false
  dying  : Option FaultRecord := none
  tlbiWait : List Nat := []
  passed : Nat := 0
  heldFor : Nat := 0
  resident : Nat := 0
  turnDone : Bool := false
  saved  : Bool := false
  deriving DecidableEq, Repr, Inhabited

/-! ### Groups -/

/-- A mapped Vat region (13 R288, 12 R268); `lane`, `slot`, `fibid` and `pc` name the fibre that made the binding and
its VMAP (20 R372). -/
structure Binding where
  off    : Nat := 0
  len    : Nat := 0
  gaddr  : Nat := 0
  sc     : Scope := .fibre
  filled : List Nat := []
  dirty  : List Nat := []
  lane   : Nat := 0
  slot   : Nat := 0
  fibid  : Word := 0
  pc     : Nat := 0
  deriving DecidableEq, Repr, Inhabited

/-- One stamped access kept for the race check of a 32-byte granule (12 R265, R266). -/
structure Stamp where
  guard  : Nat
  phase  : Nat
  fibid  : Word
  wave   : Nat
  lo     : Nat
  n      : Nat
  write  : Bool
  atomic : Bool
  deriving DecidableEq, Repr, Inhabited

/-- A Vat write that an array command need not see yet (06 R142): the bytes before it, who wrote it (a
wave, or the decanter for the phase of a barrier), which waves have waited on that phase, and the times of
`fresh` at which the writer or a reader fenced it. -/
structure Unfenced where
  off    : Nat := 0
  olds   : List Byte := []
  writer : Option Nat := none
  bar    : Nat := 0
  phase  : Nat := 0
  waited : List Nat := []
  fenced : List (Nat × Nat) := []
  deriving DecidableEq, Repr, Inhabited

/-- A group on its core (09 R182, 21 R396). -/
structure Group where
  id      : Nat := 0
  launch  : Nat := 0
  ctx     : Nat := 0
  g       : Nat := 0
  core    : Nat := 0
  cpos    : Option Nat := none
  size    : Nat := 0
  vat     : Memory := []
  vtags   : Flags := []
  bars    : List Nat := []
  guardOff : Option (Nat × Nat) := none
  binds   : List Binding := []
  stamps  : List Stamp := []
  unfenced : List Unfenced := []
  waves   : Nat := 0
  failed  : Bool := false
  finished : Bool := false
  deriving DecidableEq, Repr, Inhabited

/-! ### Matrix state -/

/-- An accumulator tile: every element reads `fill` unless listed; bit `row` of `mask` says that the
row is empty (06 R143, R144). -/
structure Tile where
  fill  : Word := 0
  elems : Regs := []
  mask  : DWord := BitVec.allOnes 64
  deriving DecidableEq, Repr, Inhabited

/-- A stationary plane with what LDSTAT loaded (06 R129, R130, R131). -/
structure Plane where
  empty  : Bool := true
  kv     : Nat := 0
  nv     : Nat := 0
  efmt   : Nat := 0
  sfmt   : Nat := 0
  bsz    : Nat := 0
  lblKind : Nat := 0
  sparse : Bool := false
  comp   : Option (BitVec 512) := none
  words  : Regs := []
  labels : Regs := []
  scales : List (Nat × Byte) := []
  specials : List (Nat × Byte) := []
  codes  : List (Nat × Byte) := []
  deriving DecidableEq, Repr, Inhabited

/-- The core matrix state of a context (03 R59, 06 R133). -/
structure Matrix where
  tiles  : List (Nat × Tile) := []
  metas  : List (Nat × Byte) := []
  active : Plane := {}
  shadow : Plane := {}
  slots  : List (Nat × BitVec 256) := []
  binding : Quad := 0
  att    : List (Nat × Half) := []
  skipcnt : Word := 0
  deriving DecidableEq, Repr, Inhabited

/-- An array command with the operands read at issue (06 R134, 07 R167, 08 R175 to R178, 13 R291). -/
inductive ArrayOp where
  | ldstat (plane ctl lbl scl : Word) (tdt : BitVec 512) (comp : Option (BitVec 512))
      (sp : Option Num4)
  | swap
  | mma (addr ctl : Word) (tile : Nat) (v : Nat) (cap : Quad) (tdt : BitVec 512)
      (comp : Option (BitVec 512)) (woff slay : Nat)
  | mmar (addr ctl : Word) (tile : Nat) (hdrs : List DWord)
  | rank (ctl addr scale : Word) (src dst : Nat)
  | unrank (addr : Word) (dst : Nat) (hdr : DWord)
  | attld (addr : Word) (t : Nat)
  | relset (slot : Nat) (desc : BitVec 256)
  | lblset (q : Quad)
  | lsum (q : Quad)
  | ltest (rowRec colRec : Word) (p : Nat) (slot : Nat)
  | mld (j : Nat) (space : Space) (phys : List Nat) (virt : Nat)
  deriving DecidableEq, Repr, Inhabited

/-- A queued array command (06 R134, 21 R393): `word` is its instruction word, `stamp` the time of `fresh` at its
issue, `token` what it waits on for a page and `why` the fault that it met there. -/
structure ArrayCmd where
  op     : ArrayOp
  word   : Word := 0
  wid    : Nat := 0
  group  : Option Nat := none
  ctr    : Option Nat := none
  pc     : Nat := 0
  lane   : Nat := 0
  fibid  : Word := 0
  active : List Nat := []
  bases  : List (Nat × Nat) := []
  chunks : Nat := 0
  stamp  : Nat := 0
  token  : Option Word := none
  why    : TrapInfo := {}
  follow : Option (Nat × Nat) := none
  deriving DecidableEq, Repr, Inhabited

/-- A tile-port command (06 R145, R146). -/
inductive TileOp where
  | movVat (tile : Nat) (ctl addr : Word)
  | movV (tile : Nat) (ctl : Word) (v : Nat)
  | rowMax (tile v : Nat)
  | rowSum (tile v : Nat)
  | rescale (tile v : Nat)
  | norm (tile v : Nat)
  deriving DecidableEq, Repr, Inhabited

/-- A queued tile-port command; `lane` is the lowest active lane at its issue (12 R252). -/
structure TileCmd where
  op    : TileOp
  wid   : Nat := 0
  group : Option Nat := none
  ctr   : Nat := 0
  pc    : Nat := 0
  lane  : Nat := 0
  fibid : Word := 0
  bases : List (Nat × Nat) := []
  words : List Word := []
  stamp : Nat := 0
  deriving DecidableEq, Repr, Inhabited

/-- A queued merge transaction (14 R311 to R313); `lane` and `stamp` as for the other engines. -/
structure BlendCmd where
  acc   : Bool := false
  q     : Quad := 0
  wid   : Nat := 0
  group : Nat := 0
  ctr   : Nat := 0
  pc    : Nat := 0
  lane  : Nat := 0
  earlier : Nat := 0
  stamp : Nat := 0
  deriving DecidableEq, Repr, Inhabited

/-- A KICK whose requests the decanter has not all read (14 R308). -/
structure KickCmd where
  wid   : Nat := 0
  ctr   : Nat := 0
  left  : Nat := 0
  deriving DecidableEq, Repr, Inhabited

/-- A copy request in the decanter's queue (14 R301 to R307): `raw`, `cap` and `desc` as read when it began, `valid`
once validated, `skips` the granules it skips, `blocks` the key-value blocks it has resolved, `pos` the destination
bytes done, `landed` the bytes credited, `done` when all have landed; `labels` holds the labels transported so far by
row (07 R169), `earlier` counts the wave's accesses issued before the KICK and not yet complete, `stamp` is the time
of `fresh` at the KICK (14 R308, R310); `token` is what it waits on for the page of the address `stopAt`. -/
structure CopyReq where
  group  : Nat := 0
  wid    : Nat := 0
  fibid  : Word := 0
  pc     : Nat := 0
  off    : Nat := 0
  earlier : Nat := 0
  stamp  : Nat := 0
  begun  : Bool := false
  raw    : BitVec 512 := 0
  valid  : Bool := false
  cap    : Quad := 0
  capTag : Bool := false
  tdt    : BitVec 512 := 0
  comp   : Option (BitVec 512) := none
  desc   : BitVec 256 := 0
  skips  : List Nat := []
  blocks : List (Nat × Option Nat) := []
  labels : List (Nat × Word) := []
  pos    : Nat := 0
  landed : Nat := 0
  done   : Bool := false
  token  : Option Word := none
  stopAt : Nat := 0
  deriving DecidableEq, Repr, Inhabited

/-- A task item: the eight V values that FORK copies, with its order of arrival (09 R201, R202). -/
structure Item where
  order : Nat := 0
  entry : Nat := 0
  vals  : List Word := []
  deriving DecidableEq, Repr, Inhabited

/-- A bin: items of one launch and one entry address (09 R201). -/
structure Bin where
  launch : Nat := 0
  entry  : Nat := 0
  items  : List Item := []
  due    : Bool := false
  posted : Bool := false
  steps  : Nat := 0
  deriving DecidableEq, Repr, Inhabited

/-- An entry of a die's steal queue: the core and the key of the bin that was posted (09 R204). -/
structure Posted where
  core   : Nat := 0
  launch : Nat := 0
  entry  : Nat := 0
  deriving DecidableEq, Repr, Inhabited

/-! ### Cores, clusters, dies -/

/-- A TLB entry: the page size is 2^shift (18 R324). -/
structure TlbEntry where
  ctx   : Nat := 0
  vpn   : Nat := 0
  shift : Nat := 16
  leaf  : DWord := 0
  deriving DecidableEq, Repr, Inhabited

/-- What a TLBI drops (20 R386). -/
inductive TlbiKind where
  | page (va : Nat)
  | ctx
  | all
  deriving DecidableEq, Repr, Inhabited

/-- A TLBI that a core has not acknowledged (20 R386, 18 R334). -/
structure Tlbi where
  wid  : Nat := 0
  kind : TlbiKind := .all
  ctx  : Nat := 0
  deriving DecidableEq, Repr, Inhabited

/-- The stages of a pre-emption of a core, with the cores that the request names (21 R389). -/
inductive PreemptStage where
  | none
  | requested (cores : List Nat)
  deriving DecidableEq, Repr, Inhabited

/-- A core (01 R10, 03 R59). -/
structure Core where
  num     : Nat := 0
  enabled : Bool := true
  retired : Option (BitVec 2) := none
  waves   : List Wave := []
  mat     : Matrix := {}
  matCtx  : Nat := 0
  arrayQ  : List ArrayCmd := []
  tileQ   : List TileCmd := []
  blendQ  : List BlendCmd := []
  kickQ   : List KickCmd := []
  reqQ    : List CopyReq := []
  bins    : List Bin := []
  tlb     : List TlbEntry := []
  icache  : List (Nat × Memory) := []
  tdtCache : List (Nat × BitVec 512) := []
  brx     : List Nat := []
  cyc     : DWord := 0
  first   : Option VatRequester := none
  window  : Nat := 0
  preempt : PreemptStage := .none
  retiring : List RetireUnit := []
  marks   : List (Nat × Nat) := []
  tlbiPend : List Tlbi := []
  deriving DecidableEq, Repr, Inhabited

/-- A cluster: its shared L2 TLB (01 R12). -/
structure Cluster where
  tlb : List TlbEntry := []
  deriving DecidableEq, Repr, Inhabited

/-- States of a wait-table entry (18 R329). -/
inductive WtState where
  | pending | succeeded | failed
  deriving DecidableEq, Repr, Inhabited

/-- A live entry of a die's wait table (18 R329); `records` lists the records posted to the steward for it, each
with its sequence number (19 R354). -/
structure WtEntry where
  idx      : Nat := 0
  gen      : Nat := 1
  ctx      : Nat := 0
  page     : Nat := 0
  interest : Nat := 0
  state    : WtState := .pending
  records  : List (FaultRecord × Nat) := []
  deriving DecidableEq, Repr, Inhabited

/-- A die (01 R13, 20 R387). -/
structure Die where
  waits   : List WtEntry := []
  gens    : List (Nat × Nat) := []
  sfqbase : DWord := 0
  sfqcap  : Word := 0
  sfqtail : Word := 0
  sfqhead : Word := 0
  swmark  : Word := 0
  posts   : List FaultRecord := []
  steal   : List Posted := []
  cellar  : List Nat := []
  usedFrames : List Nat := []
  freed   : List Nat := []
  promoQ  : List (Nat × Nat) := []
  spareCores : Nat := 4
  replaced : Nat := 0
  quadsRetired : Nat := 0
  deriving DecidableEq, Repr, Inhabited

/-! ### Contexts and launches -/

/-- States of a page in the tier map (22 R402). -/
inductive PageState where
  | resident | absent | moving | failed
  deriving DecidableEq, Repr, Inhabited

/-- A move in progress (22 R403). -/
structure Move where
  ctx     : Nat := 0
  page    : Nat := 0
  die     : Nat := 0
  srcLeaf : DWord := 0
  dst     : Nat := 0
  dstTier : Nat := 0
  wasResident : Bool := false
  promotion : Bool := true
  deriving DecidableEq, Repr, Inhabited

/-- A page that a module-tier unit has lost, from its mark on: the rest of 22 R409 follows once no access translated to
the `n` bytes at `lo` is outstanding. `tok` is the token of its wait-table entry, in which the loss has an interest
where the table had room. -/
structure Loss where
  ctx    : Nat := 0
  page   : Nat := 0
  die    : Nat := 0
  lo     : Nat := 0
  n      : Nat := 0
  tok    : Option Word := none
  info   : TrapInfo := {}
  record : FaultRecord := {}
  deriving DecidableEq, Repr, Inhabited

/-- A registered code object image (02 R45 to R50). -/
structure CodeObj where
  handle  : Nat := 0
  base    : Nat := 0
  length  : Nat := 0
  kind    : Nat := 0
  legacy  : Nat := 0
  entries : List Nat := []
  deriving DecidableEq, Repr, Inhabited

/-- A registered key-value pool (22 R410, R417). -/
structure Pool where
  num   : Nat := 0
  desc  : Nat := 0
  phase : Nat := 0
  logRead : Nat := 0
  deriving DecidableEq, Repr, Inhabited

/-- A launch queue of a context: its number and the address of its descriptor (09 R193). -/
structure LQueue where
  num  : Nat := 0
  desc : Nat := 0
  deriving DecidableEq, Repr, Inhabited

/-- A saved core image (21 R390 to R397), as records: its header, core section, waves and groups; `slot` is its
place in the context's save area, and the images of a cluster bear the same `set`. -/
structure Image where
  seq    : Nat := 0
  slot   : Nat := 0
  core   : Nat := 0
  p      : Nat := 64
  detcnt : DWord := 0
  rotptr : Nat := 0
  cpos   : Option Nat := none
  set    : Option Nat := none
  mat    : Matrix := {}
  arrayQ : List ArrayCmd := []
  blendQ : List BlendCmd := []
  kickQ  : List KickCmd := []
  reqQ   : List CopyReq := []
  bins   : List Bin := []
  waves  : List Wave := []
  groups : List Group := []
  deriving DecidableEq, Repr, Inhabited

/-- A context (18 R350); `window` is the base and the length of its host window in local addresses (19 R352). -/
structure Context where
  id       : Nat := 0
  created  : Bool := true
  ptroot   : DWord := 0
  tdtbase  : DWord := 0
  tdtcnt   : Word := 0
  ptrootW  : DWord := 0
  tdtbaseW : DWord := 0
  tdtcntW  : Word := 0
  save     : DWord := 0
  spill    : DWord := 0
  window   : Nat × Nat := (0, 0)
  roots    : List Quad := []
  queues   : List LQueue := []
  cobjs    : List CodeObj := []
  mats     : List (Nat × Matrix) := []
  images   : List Image := []
  seq      : Nat := 0
  tiers    : List (Nat × PageState) := []
  pools    : List Pool := []
  deriving DecidableEq, Repr, Inhabited

/-- A launch from its acceptance to its completion (09 R188 to R212). `stepOpen` says that the step of a
deterministic launch has begun and is not yet complete (09 R209). -/
structure Launch where
  id      : Nat := 0
  ctx     : Nat := 0
  queue   : Nat := 0
  cls     : Nat := 0
  entry   : Nat := 0
  win     : Nat := 16
  greq    : Nat := 1
  legacy  : Nat := 0
  vatsz   : Nat := 0
  det     : Bool := false
  chkd    : Bool := false
  mig     : Bool := false
  soe     : Bool := false
  csize   : Nat := 0
  bintmo  : Nat := 0
  tvec    : DWord := 0
  ovfq    : Nat := 0
  ovfcap  : Nat := 0
  args    : List Word := []
  capmask : BitVec 16 := 0
  preload : Nat := 0
  prelen  : Nat := 0
  outer   : Word := 0
  done    : Nat := 0
  errq    : Nat := 0
  lvls    : List Word := []
  fibs    : Nat := 1
  wavesPer : Nat := 1
  groups  : Nat := 1
  started : Nat := 0
  ended   : Nat := 0
  nfail   : Nat := 0
  taskFail : Bool := false
  order   : Nat := 0
  ovf     : List Item := []
  stopped : Bool := false
  rotation : List Nat := []
  rotptr  : Nat := 0
  stepOpen : Bool := false
  stepRet : DWord := 0
  count   : DWord := 0
  core    : Option Nat := none
  pages   : List (Nat × Nat) := []
  gstamps : List Stamp := []
  complete : Bool := false
  deriving DecidableEq, Repr, Inhabited

/-! ### The package -/

/-- A record of the boot journal (19 R366). -/
structure Journal where
  boot    : Nat := 0
  step    : Nat := 0
  path    : Nat := 0
  outcome : Nat := 0
  code    : Word := 0
  deriving DecidableEq, Repr, Inhabited

/-- The states of a boot (19 R355, R367). -/
inductive BootState where
  | inService | booting | stopped
  deriving DecidableEq, Repr, Inhabited

/-- A firmware image that has been verified: kind, security version and digest (19 R368, R370). -/
structure Verified where
  kind   : Nat
  svn    : Nat
  digest : List Byte
  deriving DecidableEq, Repr, Inhabited

/-- The Sommelier's registers and nonvolatile store (19 R355 to R371). `retryNow` is the retry request that this
boot uses, `verified` lists the images verified in this boot, `identity` is the seed of the identity key,
`parked` holds the steward's waves that a power state has saved, each with its core. -/
structure Mgmt where
  devno    : Nat := 0
  bootseq  : Word := 0
  boot     : BootState := .booting
  step     : Nat := 1
  begun    : Option Nat := none
  journal  : List Journal := []
  paths    : List Nat := []
  retry    : Nat := 0
  retryNow : Nat := 0
  verified : List Verified := []
  identity : List Byte := []
  secretLocked : Bool := false
  parked   : List (Nat × Wave) := []
  tol      : Nat := 0
  power    : Nat := 0
  evbase   : DWord := 0
  evcap    : Word := 0
  evbaseW  : DWord := 0
  evcapW   : Word := 0
  evhead   : Word := 0
  evtail   : Word := 0
  evlost   : Word := 0
  evseq    : DWord := 0
  attlen   : Nat := 0
  attready : Bool := false
  attrefused : Bool := false
  nonce    : Memory := []
  report   : Memory := []
  halfPorts : List (Nat × Nat) := []
  left     : List Nat := []
  tier1    : Bool := true
  throttle : Nat := 0
  deriving DecidableEq, Repr, Inhabited

/-! ### The device -/

/-- The whole state. `reply` is what the last access from outside received: the bytes that it read, or none for an
error completion (19 R352, R357). `core` and `wave` are the core and the wave that stand at the issue port; the
other waves of that core stand in `core.waves`, the other cores in `cores`. `agenda` holds the events still
to come from outside or at times that the spec leaves open, each after a number of steps (log 52), `turn`
counts the turns of the schedule, and `fresh` counts the free values used. `deadUnits` lists the module-tier units that
an access of the device itself found failed, whose pages the next turn marks (log 27). `refuseNext` says that the next
transfer that is no outstanding access fails at its home (log 59). -/
structure State where
  wave     : Wave
  core     : Core
  cores    : List Core
  clusters : List (Nat × Cluster)
  dies     : List (Nat × Die)
  groups   : List Group
  launches : List Launch
  contexts : List Context
  moves    : List Move
  losses   : List Loss
  mem      : Memory
  unitTags : List (Nat × DWord)
  badUnits : List Nat
  deadUnits : List Nat
  retried  : List (Nat × Nat)
  refuseNext : Option RefusalKind
  mgmt     : Mgmt
  agenda   : List (Nat × Instr)
  turn     : Nat
  fresh    : Nat
  nextWid  : Nat
  nextGroup : Nat
  nextLaunch : Nat
  nextRes  : Nat
  heap     : Nat
  classRot : List (Nat × Nat)
  reply    : Option (List Byte)
  deriving DecidableEq, Repr

/-- Why the machine stops. -/
inductive Fault where
  /-- Raised by HOST_ACCESS, TRELLIS_ACCESS and RDMA_MESSAGE when they name a local address that 18 R423
  leaves unassigned: no such memory exists. Safe: the device performs nothing. -/
  | unassignedAddress (addr : Nat)
  deriving DecidableEq, Repr

/-- Why an instruction has no meaning here. -/
inductive Refusal where
  /-- Raised by an arm of the dispatcher that has no meaning yet. Safe: nothing is claimed of it. -/
  | notModelled (mnemonic : String)
  deriving DecidableEq, Repr

/-- The number of cores, clusters and dies (01 R7 to R9). -/
def coreCount : Nat := 192

/-- The package right after reset: boot step 1 has not begun, no context exists, no wave is resident,
every register reads the value that INVENTORY.md names, and memory lists nothing (19 R355, R366). -/
def State.reset : State where
  wave := {}
  core := { num := 0 }
  cores := (List.range (coreCount - 1)).map (fun i => { num := i + 1 })
  clusters := []
  dies := []
  groups := []
  launches := []
  contexts := []
  moves := []
  losses := []
  mem := []
  unitTags := []
  badUnits := []
  deadUnits := []
  retried := []
  refuseNext := none
  mgmt := {}
  agenda := []
  turn := 0
  fresh := 0
  nextWid := 1
  nextGroup := 1
  nextLaunch := 1
  nextRes := 1
  heap := 0
  classRot := []
  reply := none

end Sys2Proof.Machine
end

