-- ==== Sys2Proof/Machine/Ops.lean ====
section
/-!
DEFINITION. Sys2Proof/Machine/Ops.lean: the named operations over the issuing wave: registers with
their early reads (02 R31 to R34), the checks every word passes before it executes, retiring, holding,
and taking and leaving an exception (20 R375 to R378).
-/

namespace Sys2Proof.Machine

open Sys2Proof

/-- The outcome of a step. -/
abbrev Out := Host.Outcome State Fault Refusal

/-! ### Lanes -/

/-- The fibre of a logical lane; a lane that does not exist holds an ended fibre. -/
def Wave.fib (w : Wave) (l : Nat) : Fibre := w.lanes.getD l {}

/-- active(l) (02 R44, 05 R125): the lane holds a running fibre of the issuing set whose guards are
all 1. -/
def Fibre.active (f : Fibre) : Bool :=
  f.present && f.inSet && decide (f.run = .running) && f.spans.all (fun x => x.guardBit)

/-- The lane holds a fibre that has not ended (06 R136). -/
def Fibre.alive (f : Fibre) : Bool := f.present && decide (f.run ≠ .ended)

/-- The active lanes in increasing order. -/
def Wave.activeLanes (w : Wave) : List Nat :=
  (List.range w.lanes.length).filter (fun l => (w.fib l).active)

/-- Whether some fibre is active. -/
def Wave.anyActive (w : Wave) : Bool := !w.activeLanes.isEmpty

/-- The lowest active lane. -/
def Wave.lowest (w : Wave) : Nat := w.activeLanes.headD 0

/-- The lanes of the issuing set. -/
def Wave.setLanes (w : Wave) : List Nat :=
  (List.range w.lanes.length).filter (fun l => (w.fib l).inSet)

/-- Changes every lane. -/
def Wave.mapLanes (w : Wave) (f : Nat → Fibre → Fibre) : Wave :=
  { w with lanes := w.lanes.mapIdx f }

/-- Changes every active lane and leaves the others as they are (05 R99). -/
def Wave.onActive (w : Wave) (f : Nat → Fibre → Fibre) : Wave :=
  w.mapLanes (fun l x => if x.active then f l x else x)

/-- The address of the word that the issuing set stands at. -/
def Wave.pc (w : Wave) : Nat := (w.fib (w.setLanes.headD 0)).pc

/-- Replaces the issuing wave. -/
def State.setWave (s : State) (w : Wave) : State := { s with wave := w }

/-- Changes the issuing wave. -/
def State.onWave (s : State) (f : Wave → Wave) : State := { s with wave := f s.wave }

/-- Changes the issuing wave's core. -/
def State.onCore (s : State) (f : Core → Core) : State := { s with core := f s.core }

/-- Good lanes of a core (11 R233). -/
def Core.p (c : Core) : Nat := if c.retired.isSome then 48 else 64

/-- Offer limit of a core (11 R233). -/
def Core.gmax (c : Core) : Nat := if c.retired.isSome then 128 else 256

/-- The pass count of a grant (11 R234). -/
def Core.passes (c : Core) (g : Nat) : Nat := ceilDiv g c.p

/-! ### Registers -/

/-- Allocation register `r` of a fibre. -/
def Fibre.reg (f : Fibre) (r : Nat) : Word := sget 0 f.v r

/-- The fibre's value of predicate `p`; P0 reads 1 (03 R58). -/
def Fibre.pred (f : Fibre) (p : Nat) : Bool := if p = 0 then true else sget false f.preds p

/-- Writes a predicate; a write to P0 is discarded (03 R58). -/
def Fibre.setPred (f : Fibre) (p : Nat) (b : Bool) : Fibre :=
  if p = 0 then f else { f with preds := sput false f.preds p b }

/-- Writes an allocation register, clears its quad's tag (03 R56) and notes the value before the write, which
an array command may use until an OFENCE follows (06 R142). -/
def Fibre.putV (f : Fibre) (r : Nat) (x : Word) : Fibre :=
  let e := (r, 0, sget 0 f.v r)
  { f with
    v := sput 0 f.v r x
    vtags := sput false f.vtags (r / 4) false
    unfenced := if f.unfenced.contains e then f.unfenced else e :: f.unfenced }

/-- The tag of the quad at allocation register `r`. -/
def Fibre.tag (f : Fibre) (r : Nat) : Bool := sget false f.vtags (r / 4)

/-- S register `n` as written. -/
def Wave.sreg (w : Wave) (n : Nat) : Word := sget 0 w.s n

/-- Writes an S register and clears its quad's tag (03 R56). -/
def Wave.putS (w : Wave) (n : Nat) (x : Word) : Wave :=
  { w with s := sput 0 w.s n x, stags := sput false w.stags (n / 4) false }

/-- A dependency counter (02 R35). -/
def Wave.ctr (w : Wave) (n : Nat) : Nat := sget 0 w.d n

/-- Signals a dependency counter. -/
def Wave.incCtr (w : Wave) (n : Nat) : Wave := { w with d := sput 0 w.d n (w.ctr n + 1) }

/-- Completes an operation on a dependency counter. -/
def Wave.decCtr (w : Wave) (n : Nat) : Wave := { w with d := sput 0 w.d n (w.ctr n - 1) }

/-! ### Early reads (02 R31 to R33) -/

/-- Whether a fixed-latency write is still in flight at the wave's present slot. -/
def Wave.inFlight (w : Wave) (e : BoardEntry) : Bool := decide (w.slotNo < e.slot + e.lat)

/-- The writes in flight to a register, newest first; in a deterministic launch no read is early
(09 R209). -/
def Wave.pendingWrites (w : Wave) (file : RegFile) (l r : Nat) : List BoardEntry :=
  if w.det then []
  else
    w.board.filter (fun e =>
      decide (e.file = file) && e.lane == l && e.reg == r && w.inFlight e)

/-- The file number of the scheduling trap's detail (20 R374). -/
def RegFile.code : RegFile → Nat
  | .v => 0 | .s => 1 | .p => 2

/-- An early read receives the new value or the old one (02 R33): the choice is free. `olds` holds the values
before the writes in flight, of the newest first. -/
def earlyPick (n k l r : Nat) (cur : Word) : List Word → Word
  | [] => cur
  | old :: olds => if Config.earlyNew n k l r then cur else earlyPick (n + 1) k l r old olds

/-- The registers of one lane's part of an access: file, lane and register. -/
def MemKind.dests (kind : MemKind) (w : Nat) (q : LaneReq) : List (RegFile × Nat × Nat) :=
  let v (n : Nat) : List (RegFile × Nat × Nat) :=
    (List.range n).map (fun i => (RegFile.v, q.lane, q.dst + i))
  match kind with
  | .load t => v (if t = .n64 then 2 else 1)
  | .loadNr n => v (if n = 8 then 2 else 1) ++ [(.p, q.lane, 15)]
  | .loadS => [(.s, 0, q.dst)]
  | .loadCap => v 4
  | .atom _ _ ret => if ret then v (if w = 8 then 2 else 1) else []
  | .kvalloc => v 2
  | .kvset => v 2
  | .preq => v 1
  | .promo => v 1
  | .barr => v 1
  | .btest => v 1
  | .store => []
  | .storeCap => []
  | .vmap => []
  | .vsync .. => []
  | .pcancel => []
  | .cflush => []
  | .binit => []
  | .bexp => []

/-- Whether an access writes memory. -/
def MemKind.stores : MemKind → Bool
  | .store => true | .storeCap => true | .atom .. => true | .vsync .. => true | .kvalloc => true
  | .kvset => true | .binit => true | .barr => true | .bexp => true
  | .load _ => false | .loadNr _ => false | .loadS => false | .loadCap => false | .vmap => false
  | .preq => false | .pcancel => false | .promo => false | .cflush => false | .btest => false

/-- The accesses for which a controller reads the unit that they name: a store merges into it (22 R407, R408). -/
def MemKind.reads : MemKind → Bool
  | .preq => false | .promo => false | .pcancel => false | .cflush => false
  | .load _ => true | .loadNr _ => true | .loadS => true | .loadCap => true | .store => true | .storeCap => true
  | .atom .. => true | .vmap => true | .vsync .. => true | .kvalloc => true | .kvset => true | .binit => true
  | .barr => true | .bexp => true | .btest => true

/-- The registers that an access writes when it completes, less those written since. -/
def MemOp.dests (o : MemOp) : List (RegFile × Nat × Nat) :=
  (o.reqs.flatMap (fun q => o.kind.dests o.w q)).filter (fun x => !o.dead.contains x)

/-- Whether the operation writes a register when it completes. -/
def MemOp.writes (o : MemOp) (file : RegFile) (l r : Nat) : Bool := o.dests.contains (file, l, r)

/-- A later instruction writes registers: work still outstanding no longer does (02 R33). -/
def Wave.supersede (w : Wave) (xs : List (RegFile × Nat × Nat)) : Wave :=
  if w.outst.isEmpty && w.engW.isEmpty then w
  else
    { w with
      outst := w.outst.map (fun o =>
        if xs.any (fun x => o.dests.contains x) then { o with dead := o.dead ++ xs } else o)
      engW := w.engW.filter (fun e => !xs.contains e.2) }

/-- Whether a register is the destination of an array command whose interval has not ended (06 R141). -/
def Wave.lentWrite (w : Wave) (file : RegFile) (l r : Nat) : Bool :=
  decide (file = .v) && w.lent.any (fun x => x.vwrite.contains (l, r))

/-- Whether a variable-latency write to a register has not completed (13 R273, 06 R145). -/
def Wave.pendingVar (w : Wave) (file : RegFile) (l r : Nat) : Bool :=
  w.outst.any (fun o => o.writes file l r) || w.engW.any (fun e => e.2 == (file, l, r))

/-- Whether an interlocked result (02 R32) is to be written to a register. -/
def Wave.interlocked (w : Wave) (file : RegFile) (l r : Nat) : Bool :=
  w.interlocks.any (fun i => i.writes.any (fun x =>
    decide (x.1 = file) && x.2.1 == l && x.2.2.1 == r))

/-- The key of a free choice on the account of lane `who` about a register of lane `l`: each fibre's own (02 R33,
11 R238). -/
def readKey (who l : Nat) : Nat := if who = l then l else 1024 * (who + 1) + l

/-- The value an instruction reads on the account of a lane: the value as written, or while the write is in flight
the one before it. A variable-latency destination holds its old value until the operation completes. -/
def State.settle (s : State) (file : RegFile) (who l r : Nat) (cur : Word) : Word :=
  earlyPick s.fresh file.code (readKey who l) r cur ((s.wave.pendingWrites file l r).map (fun e => e.old))

/-- Reads allocation register `r` of lane `l` for lane `who`. -/
def State.readAFor (s : State) (who l r : Nat) : Word := s.settle .v who l r ((s.wave.fib l).reg r)

/-- Reads allocation register `r` of lane `l` for itself. -/
def State.readA (s : State) (l r : Nat) : Word := s.readAFor l l r

/-- Reads V field `n` of lane `l` for lane `who` (11 R238). -/
def State.readVFor (s : State) (who l n : Nat) : Word := s.readAFor who l ((s.wave.fib l).base + n)

/-- Reads V field `n` of lane `l`: allocation register b + n (03 R51). -/
def State.readV (s : State) (l n : Nat) : Word := s.readA l ((s.wave.fib l).base + n)

/-- Reads a V pair: the even register holds bits 31:0 (03 R54). -/
def State.readV64 (s : State) (l n : Nat) : DWord := pairOf (s.readV l n) (s.readV l (n + 1))

/-- Reads S register `n` for fibre `l`: each fibre may see a write in flight or not (02 R33). -/
def State.readSFor (s : State) (l n : Nat) : Word := s.settle .s l 0 n (s.wave.sreg n)

/-- Reads S register `n` for a word that uses it once. -/
def State.readS (s : State) (n : Nat) : Word := s.readSFor 0 n

/-- Reads an S pair for fibre `l`. -/
def State.readS64For (s : State) (l n : Nat) : DWord := pairOf (s.readSFor l n) (s.readSFor l (n + 1))

/-- Reads an S pair for a word that uses it once. -/
def State.readS64 (s : State) (n : Nat) : DWord := s.readS64For 0 n

/-- Reads predicate `p` of lane `l` for lane `who`; P0 reads 1 (03 R58). -/
def State.readPFor (s : State) (who l p : Nat) : Bool :=
  if p = 0 then true
  else s.settle .p who l p (if (s.wave.fib l).pred p then 1 else 0) != 0

/-- Reads predicate `p` of lane `l` for itself. -/
def State.readP (s : State) (l p : Nat) : Bool := s.readPFor l l p

/-- The latency of system register words (02 R31). -/
def latSys : Nat := 4

/-- The values that a system register held before the writes of it that are still in flight; `l` is the lane of a
fibre's register, the context of a context's register, and 0 for every other. -/
def Wave.sysOlds (w : Wave) (r : SysReg) (l : Nat) : List DWord :=
  if w.det then []
  else
    (w.sysBoard.filter (fun e =>
      decide (e.reg = r) && e.lane == l && decide (w.slotNo < e.slot + latSys))).map (fun e => e.old)

/-- A system register as an instruction reads it for a fibre: while a write of it is in flight each half may be old
(02 R33). No scheduling trap names a system register (DEDUCED from 20 R374, log 20). -/
def State.sysEarly (s : State) (r : SysReg) (l who : Nat) (cur : DWord) : DWord :=
  match s.wave.sysOlds r l with
  | [] => cur
  | o :: os =>
    let file := if r = .sctx then 4 else 3
    pairOf (earlyPick s.fresh file who 0 (lo32 cur) ((o :: os).map lo32))
      (earlyPick s.fresh file who 1 (hi32 cur) ((o :: os).map hi32))

/-- Notes a write of a system register, with the value before it. -/
def Wave.noteSys (w : Wave) (r : SysReg) (l : Nat) (old : DWord) : Wave :=
  { w with sysBoard := { reg := r, lane := l, old := old, slot := w.slotNo } :: w.sysBoard }

/-! ### Writes with a fixed latency (02 R31) -/

/-- Writes V field `n` of every active lane. -/
def Wave.writeV (w : Wave) (lat n : Nat) (val : Nat → Word) : Wave :=
  { (w.supersede (w.activeLanes.map (fun l => (RegFile.v, l, (w.fib l).base + n)))).onActive
      (fun l f => f.putV (f.base + n) (val l)) with
    board := w.activeLanes.map (fun l =>
      { file := .v, reg := (w.fib l).base + n, lane := l,
        old := (w.fib l).reg ((w.fib l).base + n), slot := w.slotNo, lat := lat }) ++ w.board }

/-- Writes a V pair of every active lane. -/
def Wave.writeV64 (w : Wave) (lat n : Nat) (val : Nat → DWord) : Wave :=
  (w.writeV lat n (fun l => lo32 (val l))).writeV lat (n + 1) (fun l => hi32 (val l))

/-- Writes an S register once, provided some fibre is active (03 R55). -/
def Wave.writeS (w : Wave) (lat n : Nat) (x : Word) : Wave :=
  if w.anyActive then
    { (w.supersede [(.s, 0, n)]).putS n x with
      board := { file := .s, reg := n, lane := 0, old := w.sreg n, slot := w.slotNo,
                 lat := lat } :: w.board }
  else w

/-- Writes predicate `p` of every active lane. -/
def Wave.writeP (w : Wave) (lat p : Nat) (val : Nat → Bool) : Wave :=
  if p = 0 then w
  else
    { (w.supersede (w.activeLanes.map (fun l => (RegFile.p, l, p)))).onActive
        (fun l f => f.setPred p (val l)) with
      board := w.activeLanes.map (fun l =>
        { file := .p, reg := p, lane := l, old := if (w.fib l).pred p then 1 else 0,
          slot := w.slotNo, lat := lat }) ++ w.board }

/-- The writes still in flight at a slot. Writes to one register land in issue order (02 R33), so a write
that has landed settles the older writes to its register as well. -/
def flying (slot : Nat) (board : List BoardEntry) : List BoardEntry :=
  let landed := board.filter (fun e => decide (e.slot + e.lat ≤ slot))
  board.filter (fun e => decide (slot < e.slot + e.lat) &&
    !landed.any (fun x =>
      (decide (e.slot < x.slot) || (e.ctr.isSome && x.ctr.isNone && e.slot == x.slot)) &&
      decide (x.file = e.file) && x.lane == e.lane && x.reg == e.reg))

/-- The slot of the next instruction (02 R30), with the board cleared of writes that have landed. -/
def Wave.tick (w : Wave) (st : Stall) : Wave :=
  let slot := w.slotNo + 1 + st.toNat
  { w with slotNo := slot, board := flying slot w.board
           sysBoard := w.sysBoard.filter (fun e => decide (slot < e.slot + latSys)) }

/-- How many free values one word may use. -/
def freshStride : Nat := 4096

/-! ### Taking an exception (20 R375) -/

/-- The trap registers of a wave. -/
def Wave.setTrapRegs (w : Wave) (i : TrapInfo) (pc : Nat) : Wave :=
  { w with
    tcause := w32 (i.group * 2048 + i.code)
    tdet0 := i.d0
    tdet1 := i.d1
    tdet2 := i.d2
    tpc := BitVec.ofNat 64 pc
    sysBoard := w.sysBoard.filter (fun e => decide (e.reg ≠ .tpc)) }

/-- A PC has 48 bits (03 R60): an address that the machine makes or takes for one wraps there (DESIGN CHOICE, log 69).
-/
def pc48 (a : Nat) : Nat := a % 2 ^ 48

/-- A fibre of the trapping set enters the handler: its WHEN state moves to the resume record. -/
def Fibre.enterHandler (f : Fibre) (tvec : Nat) : Fibre :=
  { f with pc := pc48 tvec, run := .running, rspans := f.spans, spans := [], clause := none,
           prev := none, park := .none, inSet := false, inHandler := true }

/-- Trap entry for the fibres of `lanes`: TCAUSE, TDET and TPC written, the resume record kept, handler
mode on, every fibre of the set at tvec (20 R375). -/
def Wave.enterTrap (w : Wave) (lanes : List Nat) (i : TrapInfo) (pc : Nat)
    (clause : Option ClauseBuf) : Wave :=
  let w1 := w.setTrapRegs i pc
  { w1.mapLanes (fun l f =>
      if lanes.contains l then f.enterHandler w.tvec.toNat else f) with
    resume := { addr := pc, clause := clause }
    handler := true
    cur := none
    turnDone := true }

/-- The fault record of a cause against a wave (20 R382). -/
def State.recordOf (s : State) (i : TrapInfo) (fibid : Word) (pc : Nat) : FaultRecord :=
  { info := i, fibid := fibid, pc := pc, wctx := s.wave.slot, core := s.core.num,
    ctx := s.wave.ctx }

/-- An unhandled cause: tvec is 0 or the trap is nested; the group or task wave ends failed (20 R376,
R383). GROUP_FAIL does the rest. -/
def State.unhandled (s : State) (i : TrapInfo) (fibid : Word) (pc : Nat) (nested : Bool) : State :=
  s.onWave (fun w =>
    { w with dying := some { s.recordOf i fibid pc with unhandled := true, nested := nested }
             turnDone := true })

/-- A precise trap of the issuing set that the launch handler receives first (20 R373, R375). -/
def State.takeTrap (s : State) (i : TrapInfo) (lane pc : Nat) : State :=
  let fibid := (s.wave.fib lane).fibid
  if s.wave.handler then s.unhandled i fibid pc true
  else if s.wave.tvec = 0 then s.unhandled i fibid pc false
  else s.onWave (fun w => w.enterTrap w.setLanes i pc w.cur)

/-- A deterministic launch runs on a core (09 R208). -/
def State.detOn (s : State) (n : Nat) : Option Launch :=
  s.launches.find? (fun x => x.det && x.core == some n && !x.complete && !x.stopped)

/-- Which word of a clause stands at an address, the header counted as the first. -/
def ClauseBuf.indexOf (c : ClauseBuf) (pc : Nat) : Nat := pc48 (pc + 2 ^ 48 - c.addr) / 4

/-- The word that the issuing set stands at, as fetched. -/
def Wave.wordHere (w : Wave) : Word :=
  match w.cur with
  | some c => c.words.getD (c.indexOf w.pc - 1) 0
  | none => 0

/-- The stall field of the issuing word, bits 25:24 (02 R17). -/
def Wave.stallHere (w : Wave) : Stall := BitVec.ofNat 2 (w.wordHere.toNat / 2 ^ 24)

/-- A precise trap at the issuing word: the word has occupied its slot, the entry occupies none
(02 R30, 20 R375). -/
def State.trapHere (s : State) (i : TrapInfo) (lane : Nat) : Out :=
  .next
    (State.takeTrap
      { s with wave := s.wave.tick s.wave.stallHere, fresh := s.fresh + freshStride }
      i lane s.wave.pc)

/-! ### Retiring -/

/-- One word passed: open WHEN spans shorten, and a span that covered its last word closes
(05 R125, R126). -/
def stepSpans (xs : List Span) : List Span :=
  (xs.map (fun x => { x with rem := x.rem - 1 })).filter (fun x => decide (0 < x.rem))

/-- The address after a clause. -/
def ClauseBuf.endAddr (c : ClauseBuf) : Nat := pc48 (c.addr + 4 + 4 * c.words.length)

/-- A fibre continues at the next word of its clause, or falls through it (02 R26). -/
def Fibre.advance (c : Option ClauseBuf) (f : Fibre) : Fibre :=
  match c with
  | some c =>
    if pc48 (f.pc + 4) = c.endAddr then
      { f with pc := pc48 (f.pc + 4), spans := [], clause := none, prev := some (c.addr, c.hdr),
               inSet := false }
    else { f with pc := pc48 (f.pc + 4), spans := stepSpans f.spans }
  | none => { f with pc := pc48 (f.pc + 4), spans := stepSpans f.spans }

/-- Whether the issuing word is the last of its clause. -/
def Wave.atLast (w : Wave) : Bool :=
  match w.cur with
  | some c => !w.setLanes.isEmpty && pc48 (w.pc + 4) == c.endAddr
  | none => false

/-- The clause is over for the wave: its header becomes the last completed one (09 R200). -/
def Wave.closeClause (w : Wave) : Wave :=
  { w.mapLanes (fun _ f => if f.inSet then { f with inSet := false, spans := [], clause := none }
                           else f) with
    lasthdr := match w.cur with
      | some c => c.addr
      | none => w.lasthdr
    cur := none
    turnDone := true }

/-- The set has no fibre left inside the clause: the wave chooses again. -/
def Wave.leaveClause (w : Wave) : Wave :=
  if w.setLanes.isEmpty then { w with cur := none, turnDone := true } else w

/-- Every fibre of the set continues at the next word; after the last word the clause closes. -/
def Wave.next (w : Wave) (st : Stall) : Wave :=
  let w1 := w.tick st
  let w2 := w1.mapLanes (fun _ f => if f.inSet then f.advance w.cur else f)
  if w.atLast then w2.closeClause else w2.leaveClause

/-- The word is issued and, unless it completes later, retires (10 R231). -/
def State.finish (s : State) (st : Stall) (now : Bool) : State :=
  { s with
    wave := { s.wave.next st with
      retcnt := s.wave.retcnt + (if now then 1 else 0) }
    fresh := s.fresh + freshStride }

/-- The word completes at issue. -/
def State.retire (s : State) (st : Stall) : Out := .next (s.finish st true)

/-- The word is issued; it retires when its operation completes. -/
def State.issue (s : State) (st : Stall) : Out := .next (s.finish st false)

/-- The word is held at issue: the wave waits and nothing else changes. -/
def State.hold (s : State) : Out := .next (s.onWave (fun w => { w with stalled := true }))

/-! ### The checks every word passes before it executes -/

/-- A register that a word reads or writes: its lane and number, the number by which the word names it, and
the lane on whose account it is used (11 R238). -/
structure RegUse where
  file : RegFile
  lane : Nat
  reg  : Nat
  name : Nat
  who  : Nat
  deriving DecidableEq, Repr

/-- The registers, tiles and metadata registers that a word names. `rv` and `wv` hold V fields with
their widths, `nv` V fields that are named and read in other lanes only, `xr` registers of named lanes
(cross-lane reads, VXLD), `xw` those of engine destinations and VXST, `er` those that an engine reads after
the issue: they may be lent, but 06 R142 and no scheduling check says which value it uses (DESIGN CHOICE, log 21:
02 R34 is read as naming the reads that an instruction makes itself). -/
structure Uses where
  rv : List (Nat × Nat) := []
  nv : List (Nat × Nat) := []
  wv : List (Nat × Nat) := []
  rs : List Nat := []
  ws : List Nat := []
  rp : List Nat := []
  wp : List Nat := []
  xr : List RegUse := []
  er : List RegUse := []
  xw : List RegUse := []
  tr : List Nat := []
  tw : List Nat := []
  mw : List Nat := []
  deriving Repr

/-- The first V field that reaches beyond a fibre's allocation, with the first register number of the field
that lies beyond (03 R52; DEDUCED which register of a pair or quad, log 14). -/
def Fibre.beyond (f : Fibre) : List (Nat × Nat) → Option Nat
  | [] => none
  | (n, k) :: xs => if f.alloc < f.base + n + k then some (max n (f.alloc - f.base)) else f.beyond xs

/-- The lowest active lane that names a register beyond its allocation, with the register. -/
def Wave.rangeFault (w : Wave) (u : Uses) : Option (Nat × Nat) :=
  w.activeLanes.findSome? (fun l => ((w.fib l).beyond (u.wv ++ u.rv ++ u.nv)).map (fun n => (l, n)))

/-- The registers that V fields name in a lane. -/
def Wave.vUses (w : Wave) (l : Nat) (xs : List (Nat × Nat)) : List RegUse :=
  xs.flatMap (fun x => (List.range x.2).map (fun j =>
    { file := .v, lane := l, reg := (w.fib l).base + x.1 + j, name := x.1 + j, who := l }))

/-- The registers that a word reads; with no active fibre it reads none (05 R125). -/
def Wave.readsOf (w : Wave) (u : Uses) : List RegUse :=
  if w.anyActive then
    w.activeLanes.flatMap (fun l =>
      w.vUses l u.rv ++
      u.rp.map (fun p => { file := .p, lane := l, reg := p, name := p, who := l })) ++
    u.xr ++ u.rs.map (fun n => { file := .s, lane := 0, reg := n, name := n, who := w.lowest })
  else []

/-- The registers that a word writes. -/
def Wave.writesOf (w : Wave) (u : Uses) : List RegUse :=
  if w.anyActive then
    w.activeLanes.flatMap (fun l =>
      w.vUses l u.wv ++
      u.wp.map (fun p => { file := .p, lane := l, reg := p, name := p, who := l })) ++
    u.xw ++ u.ws.map (fun n => { file := .s, lane := 0, reg := n, name := n, who := w.lowest })
  else []

/-- Whether a used register waits for an interlocked result (02 R32). DESIGN CHOICE (log 21): a register that an
engine command reads after its issue, as the Vs of RANK, is none of these. -/
def Wave.interlockHold (w : Wave) (u : Uses) : Bool :=
  !w.interlocks.isEmpty &&
  (w.readsOf u ++ w.writesOf u).any (fun x => w.interlocked x.file x.lane x.reg)

/-- Whether the checking scoreboard is on for the clause (02 R34). -/
def Wave.checking (w : Wave) : Bool :=
  w.chk || (match w.cur with
    | some c => c.hdr.toNat / 2 ^ 13 % 2 == 1
    | none => false)

/-- The scheduling trap that a read would raise (02 R34): 0x001 for a fixed-latency shortfall, 0x002
for a pending variable-latency write. -/
def Wave.earlyRead (w : Wave) (x : RegUse) : Option TrapInfo :=
  let d0 := w32 (x.name % 64 + x.file.code * 64 + x.who * 256)
  match (w.pendingWrites x.file x.lane x.reg).filter (fun e => e.ctr.isNone) with
  | e :: _ =>
    some { group := 2, code := 1, d0 := d0, d1 := w32 (w.slotNo - e.slot + e.lat * 256) }
  | [] =>
    if w.pendingVar x.file x.lane x.reg && !w.lentWrite x.file x.lane x.reg then
      some { group := 2, code := 2, d0 := d0 }
    else none

/-- The scheduling trap of a word, with its lane: the lowest on whose account a read is early. -/
def Wave.schedFault (w : Wave) (u : Uses) : Option (TrapInfo × Nat) :=
  let rd := w.readsOf u
  w.activeLanes.findSome? (fun l =>
    (rd.filter (fun x => x.who == l)).findSome? (fun x => (w.earlyRead x).map (fun i => (i, l))))

/-- The trap on a use of a lent register (06 R141): group 8, code 0x001 for a read, 0x002 for a
write. A word with no active fibre uses nothing (05 R125). -/
def Wave.lentFault (w : Wave) (u : Uses) : Option TrapInfo :=
  let rd := w.readsOf u
  let wr := w.writesOf u
  let hit (code n : Nat) : Option TrapInfo := some { group := 8, code := code, d0 := w32 n }
  if !w.anyActive then none
  else
    w.lent.findSome? (fun x =>
      match u.tr.find? (fun t => x.tilesW.contains t) with
      | some t => hit 1 t
      | none =>
        match (rd ++ u.er).find? (fun y => decide (y.file = .v) && x.vwrite.contains (y.lane, y.reg)) with
        | some y => hit 1 y.name
        | none =>
          match u.tw.find? (fun t => x.tilesW.contains t) with
          | some t => hit 2 t
          | none =>
            match u.mw.find? (fun m => x.metas.contains m) with
            | some m => hit 2 m
            | none =>
              match wr.find? (fun y => decide (y.file = .v) &&
                  (x.vread.contains (y.lane, y.reg) || x.vwrite.contains (y.lane, y.reg))) with
              | some y => hit 2 y.name
              | none => none)

/-- Counters of a mask that are not zero. -/
def Wave.maskUnmet (w : Wave) (m : BitVec 6) : Bool :=
  (List.range 6).any (fun i => m.getLsbD i && w.ctr i != 0)

/-- A completed wait on counters ends the lent intervals of the commands that signalled them
(06 R141). -/
def Wave.endLent (w : Wave) (m : BitVec 6) : Wave :=
  { w with lent := w.lent.filter (fun x => !m.getLsbD x.ctr) }

/-- A completed wait on counters: what the operations on them wrote is read as new from now on (13 R273). -/
def Wave.landed (w : Wave) (m : BitVec 6) : Wave :=
  { w with board := w.board.filter (fun e => match e.ctr with
      | some k => !m.getLsbD k
      | none => true) }

/-- The clause's wait mask, met before its first instruction issues (02 R36). -/
def Wave.meetMask (w : Wave) : Wave := { (w.landed w.waitMask).endLent w.waitMask with waitMask := 0 }

/-- The trap for a register beyond the allocation (03 R52). -/
def rangeTrap (w : Wave) (l n : Nat) : TrapInfo :=
  { group := 12, code := 0x020, d0 := w32 (l % 256 + n % 256 * 256),
    d1 := w32 ((w.fib l).base + n) }

/-- The wait mask, a TLBI in progress and interlocks hold a word (02 R36, R32, 20 R386). -/
def State.held (s : State) (u : Uses) : Bool :=
  s.wave.maskUnmet s.wave.waitMask || !s.wave.tlbiWait.isEmpty || s.wave.interlockHold u

/-- Under the checking scoreboard early reads and lent registers trap (02 R34, 06 R141). -/
def State.checked (s : State) (u : Uses) (k : State → Out) : Out :=
  if s.wave.checking then
    match s.wave.schedFault u with
    | some x => s.trapHere x.1 x.2
    | none =>
      match s.wave.lentFault u with
      | some i => s.trapHere i s.wave.lowest
      | none => k s
  else k s

/-- What a word meets before it executes: what holds it, the clause's wait mask completing, the
allocation (03 R52), and the checking scoreboard. -/
def State.gate (s : State) (u : Uses) (k : State → Out) : Out :=
  if s.held u then s.hold
  else
    let s1 := s.onWave Wave.meetMask
    match s1.wave.rangeFault u with
    | some x => s1.trapHere (rangeTrap s1.wave x.1 x.2) x.1
    | none => s1.checked u k

/-- As `gate`, for the words whose own check table holds the allocation as its first row (13 R271,
14 R298). -/
def State.gateOpen (s : State) (u : Uses) (k : State → Out) : Out :=
  if s.held u then s.hold else (s.onWave Wave.meetMask).checked u k

/-! ### Flags of arithmetic (04 R84 to R86) -/

/-- What one lane computes: its value, the flags it raises, and its operands a and b. -/
structure LaneRes where
  val   : DWord := 0
  flags : Word := 0
  a     : Word := 0
  b     : Word := 0
  deriving Repr

/-- Merges flags into FPSTAT (04 R84). -/
def Wave.mergeFlags (w : Wave) (fl : Word) : Wave := { w with fpstat := w.fpstat ||| fl }

/-- The OR of the flags of the given lanes. -/
def orFlags (ls : List Nat) (r : Nat → LaneRes) : Word :=
  ls.foldl (fun acc l => acc ||| (r l).flags) 0

/-- The arithmetic trap of FPCTL.NVE or IDZE, for the lowest lane that would raise the flag
(04 R86, 20 R374). -/
def arithTrap (fpctl : Word) (ls : List Nat) (r : Nat → LaneRes) : Option (TrapInfo × Nat) :=
  ls.findSome? (fun l =>
    let x := r l
    let info (code : Nat) : TrapInfo :=
      { group := 3, code := code, d0 := w32 (l % 256 + x.flags.toNat % 256 * 256),
        d1 := x.a, d2 := x.b }
    if fpctl.toNat / 256 % 2 == 1 && x.flags.toNat % 2 == 1 then some (info 1, l)
    else if fpctl.toNat / 512 % 2 == 1 && x.flags.toNat / 64 % 2 == 1 then some (info 2, l)
    else none)

/-! ### Counters of memory and engine words -/

/-- A word that signals a counter is held while the counter stands at 63 (02 R35). -/
def State.withCtr (s : State) (n : Nat) (k : State → Out) : Out :=
  if 63 ≤ s.wave.ctr n then s.hold else k s

/-- The counter of an E-format word (02 R21). -/
def eCtr (e : Bool) : Nat := if e then 5 else 4

/-! ### Decode faults at the issuing word -/

/-- A decode fault at the issuing word (20 R374 group 1). -/
def State.decodeTrap (s : State) (code : Nat) : Out :=
  let w := s.wave
  let c := w.cur.getD {}
  let i := c.indexOf w.pc
  s.trapHere
    { group := 1, code := code, d0 := c.words.getD (i - 1) 0, d1 := c.hdr, d2 := w32 i }
    (w.setLanes.headD 0)

/-- A word that only steward mode admits raises decode fault 0x00D in user mode (18 R351). -/
def State.stewardOnly (s : State) (k : State → Out) : Out :=
  if s.wave.steward then k s else s.decodeTrap 0x00D

end Sys2Proof.Machine
end

