-- ==== Sys2Proof/Machine/Operands.lean ====
section
/-!
DEFINITION. Sys2Proof/Machine/Operands.lean: every operand form of the vector words (03 R54, R66, R67,
R72): where a result goes, which registers a form names, and the values it reads.
-/

namespace Sys2Proof.Machine

open Sys2Proof

/-- A destination of a vector word. -/
inductive Dest where
  | v (n : Nat)
  | v64 (n : Nat)
  | s (n : Nat)
  | p (n : Nat)
  deriving Repr

/-- The registers that a destination names. -/
def Dest.uses : Dest → Uses
  | .v n => { wv := [(n, 1)] }
  | .v64 n => { wv := [(n, 2)] }
  | .s n => { ws := [n] }
  | .p n => { wp := [n] }

/-- Writes a result, visible `lat` slots later: a V or P destination in every active lane, an S
destination once (05 R99). -/
def Wave.writeDest (w : Wave) (lat : Nat) (d : Dest) (r : Nat → LaneRes) : Wave :=
  match d with
  | .v n => w.writeV lat n (fun l => lo32 (r l).val)
  | .v64 n => w.writeV64 lat n (fun l => (r l).val)
  | .s n => w.writeS lat n (lo32 (r w.lowest).val)
  | .p n => w.writeP lat n (fun l => (r l).val != 0)

/-- The registers of two descriptions together. -/
def Uses.plus (u v : Uses) : Uses :=
  { rv := u.rv ++ v.rv, wv := u.wv ++ v.wv, rs := u.rs ++ v.rs, ws := u.ws ++ v.ws,
    rp := u.rp ++ v.rp, wp := u.wp ++ v.wp, xr := u.xr ++ v.xr, xw := u.xw ++ v.xw, nv := u.nv ++ v.nv,
    er := u.er ++ v.er, tr := u.tr ++ v.tr, tw := u.tw ++ v.tw, mw := u.mw ++ v.mw }

/-- Widens an imm6 (03 R67). -/
def imm6 (zext : Bool) (b : Reg) : Word := if zext then w32 b.toNat else i32 b.toInt

/-- A 32-bit value as a lane's result. -/
def wide (x : Word) : DWord := BitVec.ofNat 64 x.toNat

/-- A truth value as a lane's predicate result. -/
def truth (b : Bool) : DWord := if b then 1 else 0

end Sys2Proof.Machine

namespace Sys2Proof

open Sys2Proof.Machine

/-! ### Integer forms (03 R66) -/

/-- The destination of an integer form. -/
def IntForm.dest (f : IntForm) (d : Reg) : Dest :=
  match f with
  | .vv => .v d.toNat
  | .vs => .v d.toNat
  | .vi => .v d.toNat
  | .ss => .s d.toNat
  | .si => .s d.toNat

/-- The registers read by an integer form of two operands. -/
def IntForm.reads (f : IntForm) (a b : Reg) : Uses :=
  match f with
  | .vv => { rv := [(a.toNat, 1), (b.toNat, 1)] }
  | .vs => { rv := [(a.toNat, 1)], rs := [b.toNat] }
  | .vi => { rv := [(a.toNat, 1)] }
  | .ss => { rs := [a.toNat, b.toNat] }
  | .si => { rs := [a.toNat] }

/-- The registers read by an integer form of one operand. -/
def IntForm.reads1 (f : IntForm) (a : Reg) : Uses :=
  match f with
  | .vv => { rv := [(a.toNat, 1)] }
  | .vs => { rv := [(a.toNat, 1)] }
  | .vi => { rv := [(a.toNat, 1)] }
  | .ss => { rs := [a.toNat] }
  | .si => { rs := [a.toNat] }

/-- Operand a of an integer form. -/
def IntForm.opA (f : IntForm) (a : Reg) (s : State) (l : Nat) : Word :=
  match f with
  | .vv => s.readV l a.toNat
  | .vs => s.readV l a.toNat
  | .vi => s.readV l a.toNat
  | .ss => s.readSFor l a.toNat
  | .si => s.readSFor l a.toNat

/-- Operand b of an integer form, its imm6 widened as the minor says. -/
def IntForm.opB (f : IntForm) (zext : Bool) (b : Reg) (s : State) (l : Nat) : Word :=
  match f with
  | .vv => s.readV l b.toNat
  | .vs => s.readSFor l b.toNat
  | .vi => imm6 zext b
  | .ss => s.readSFor l b.toNat
  | .si => imm6 zext b

/-! ### ICMP and FP32 forms (05 R104, R108, R110) -/

/-- The registers read by an ICMP form. -/
def CmpForm.reads (f : CmpForm) (a b : Reg) : Uses :=
  match f with
  | .vv => { rv := [(a.toNat, 1), (b.toNat, 1)] }
  | .vs => { rv := [(a.toNat, 1)], rs := [b.toNat] }
  | .vi => { rv := [(a.toNat, 1)] }
  | .ss => { rs := [a.toNat, b.toNat] }

/-- Operand a of an ICMP form. -/
def CmpForm.opA (f : CmpForm) (a : Reg) (s : State) (l : Nat) : Word :=
  match f with
  | .vv => s.readV l a.toNat
  | .vs => s.readV l a.toNat
  | .vi => s.readV l a.toNat
  | .ss => s.readSFor l a.toNat

/-- Operand b of an ICMP form. -/
def CmpForm.opB (f : CmpForm) (zext : Bool) (b : Reg) (s : State) (l : Nat) : Word :=
  match f with
  | .vv => s.readV l b.toNat
  | .vs => s.readSFor l b.toNat
  | .vi => imm6 zext b
  | .ss => s.readSFor l b.toNat

/-- The destination of an FP32 form. -/
def FForm.dest (f : FForm) (d : Reg) : Dest :=
  match f with
  | .vv => .v d.toNat
  | .vs => .v d.toNat
  | .ss => .s d.toNat

/-- The registers read by an FP32 form of two operands. -/
def FForm.reads (f : FForm) (a b : Reg) : Uses :=
  match f with
  | .vv => { rv := [(a.toNat, 1), (b.toNat, 1)] }
  | .vs => { rv := [(a.toNat, 1)], rs := [b.toNat] }
  | .ss => { rs := [a.toNat, b.toNat] }

/-- The registers read by an FP32 form of one operand. -/
def FForm.reads1 (f : FForm) (a : Reg) : Uses :=
  match f with
  | .vv => { rv := [(a.toNat, 1)] }
  | .vs => { rv := [(a.toNat, 1)] }
  | .ss => { rs := [a.toNat] }

/-- Operand a of an FP32 form. -/
def FForm.opA (f : FForm) (a : Reg) (s : State) (l : Nat) : Word :=
  match f with
  | .vv => s.readV l a.toNat
  | .vs => s.readV l a.toNat
  | .ss => s.readSFor l a.toNat

/-- Operand b of an FP32 form. -/
def FForm.opB (f : FForm) (b : Reg) (s : State) (l : Nat) : Word :=
  match f with
  | .vv => s.readV l b.toNat
  | .vs => s.readSFor l b.toNat
  | .ss => s.readSFor l b.toNat

/-! ### Index pairs, capability quads and register lists -/

/-- The registers of an index field (03 R72). -/
def Index.reads (x : Index) : Uses :=
  if x.isS then { rs := [2 * x.pair.toNat, 2 * x.pair.toNat + 1] }
  else { rv := [(2 * x.pair.toNat, 2)] }

/-- The 64-bit index of a lane. -/
def Index.val (x : Index) (s : State) (l : Nat) : Nat :=
  if x.isS then (s.readS64For l (2 * x.pair.toNat)).toNat
  else (s.readV64 l (2 * x.pair.toNat)).toNat

end Sys2Proof

namespace Sys2Proof.Machine

open Sys2Proof

/-- The four S registers of a capability quad C`c` (03 R56). -/
def quadReads (c : Nat) : Uses := { rs := [4 * c, 4 * c + 1, 4 * c + 2, 4 * c + 3] }

/-- A quad from four registers, the first holding bits 31:0. -/
def quadOf (a b c d : Word) : Quad :=
  BitVec.ofNat 128 (a.toNat + b.toNat * 2 ^ 32 + c.toNat * 2 ^ 64 + d.toNat * 2 ^ 96)

/-- Word i of a quad. -/
def quadWord (q : Quad) (i : Nat) : Word := w32 (q.toNat / 2 ^ (32 * i))

/-- Reads the S quad C`c` for fibre `l`. -/
def State.readSQuadFor (s : State) (l c : Nat) : Quad :=
  quadOf (s.readSFor l (4 * c)) (s.readSFor l (4 * c + 1)) (s.readSFor l (4 * c + 2)) (s.readSFor l (4 * c + 3))

/-- Reads the S quad C`c` for a word that uses it once. -/
def State.readSQuad (s : State) (c : Nat) : Quad := s.readSQuadFor 0 c

/-- The bits of the S quad C`c` as last written. -/
def Wave.squad (w : Wave) (c : Nat) : Quad :=
  quadOf (w.sreg (4 * c)) (w.sreg (4 * c + 1)) (w.sreg (4 * c + 2)) (w.sreg (4 * c + 3))

/-- The tag that an instruction reads of the S quad C`c` for fibre `l`. DEDUCED (log 31): a quad read early carries
its tag only where all four registers read as last written. -/
def State.stagFor (s : State) (l c : Nat) : Bool :=
  sget false s.wave.stags c && decide (s.readSQuadFor l c = s.wave.squad c)

/-- The tag of the S quad C`c` for a word that uses it once. -/
def State.stag (s : State) (c : Nat) : Bool := s.stagFor 0 c

/-- Reads the V quad Q`q` of a lane. -/
def State.readVQuad (s : State) (l q : Nat) : Quad :=
  quadOf (s.readV l (4 * q)) (s.readV l (4 * q + 1)) (s.readV l (4 * q + 2)) (s.readV l (4 * q + 3))

/-- The bits of the V quad Q`q` of a lane as last written. -/
def Wave.vquad (w : Wave) (l q : Nat) : Quad :=
  let f := w.fib l
  let n := f.base + 4 * q
  quadOf (f.reg n) (f.reg (n + 1)) (f.reg (n + 2)) (f.reg (n + 3))

/-- The tag that an instruction reads of the V quad Q`q` of a lane, by its window (03 R56, log 31). -/
def State.vtag (s : State) (l q : Nat) : Bool :=
  (s.wave.fib l).tag ((s.wave.fib l).base + 4 * q) &&
  decide (s.readVQuad l q = s.wave.vquad l q)

end Sys2Proof.Machine
end

