-- ==== Sys2Proof/Machine/Flags.lean ====
section
/-!
DEFINITION. Sys2Proof/Machine/Flags.lean: the one way every ALU word computes (05 R99, 04 R84 to R86):
its lanes' results, the flags they merge into FPSTAT, and the arithmetic traps. Also the integer and
comparison results that the minors name (05 R101, R102, R104, R106).
-/

namespace Sys2Proof.Machine

open Sys2Proof

/-- FPCTL's rounding mode (04 R83). -/
def Wave.rm (w : Wave) : RoundMode :=
  match w.fpctl.toNat % 4 with
  | 0 => .rne
  | 1 => .zero
  | 2 => .up
  | _ => .down

/-- Computes the lanes' results, takes an enabled arithmetic trap or writes the destination and merges
the flags, and retires (05 R99, 04 R86). -/
def State.compute (s : State) (st : Stall) (lat : Nat) (d : Dest) (r : Nat → LaneRes) : Out :=
  let ls := s.wave.activeLanes
  match arithTrap s.wave.fpctl ls r with
  | some x => s.trapHere x.1 x.2
  | none => (s.onWave (fun w => (w.writeDest lat d r).mergeFlags (orFlags ls r))).retire st

/-- An ALU word: the checks of every word, then its lanes' results. -/
def State.alu (s : State) (st : Stall) (lat : Nat) (d : Dest) (u : Uses)
    (r : State → Nat → LaneRes) : Out :=
  s.gate (d.uses.plus u) (fun s1 => s1.compute st lat d (r s1))

/-! ### Latencies in slots (02 R31) -/

/-- Latency of the integer ALU, address arithmetic and capability operations. -/
def latInt : Nat := 4
/-- Latency of FP32, packed, conversion and special functions. -/
def latF32 : Nat := 6
/-- Latency of QNT, DQN and of cross-lane words. -/
def latX : Nat := 8
/-- Latency of FP64. -/
def latF64 : Nat := 12
/-- Latency of predicate logic and SEL. -/
def latP : Nat := 2

/-! ### Integer words -/

/-- An integer word of two operands (05 R101). -/
def State.int2 (s : State) (st : Stall) (f : IntForm) (zext : Bool) (d a b : Reg)
    (op : Word → Word → Word × Word) : Out :=
  s.alu st latInt (f.dest d) (f.reads a b) (fun s1 l =>
    let x := f.opA a s1 l
    let y := f.opB zext b s1 l
    { val := wide (op x y).1, flags := (op x y).2, a := x, b := y })

/-- An integer word of one operand. -/
def State.int1 (s : State) (st : Stall) (f : IntForm) (d a : Reg) (op : Word → Word) : Out :=
  s.alu st latInt (f.dest d) (f.reads1 a) (fun s1 l => { val := wide (op (f.opA a s1 l)) })

/-- An operation that raises no flag. -/
def noFlag (op : Word → Word → Word) (x y : Word) : Word × Word := (op x y, 0)

/-- MULH.i32: bits 63:32 of the signed product. -/
def mulhS (x y : Word) : Word := w32 (wrapI 64 (x.toInt * y.toInt) / 2 ^ 32)

/-- MULH.n32: bits 63:32 of the natural product. -/
def mulhU (x y : Word) : Word := w32 (x.toNat * y.toNat / 2 ^ 32)

/-- DIV.i32 with its flag (05 R102). -/
def divS (x y : Word) : Word × Word :=
  if y = 0 then (0xFFFFFFFF, fIDZ) else (i32 (Int.tdiv x.toInt y.toInt), 0)

/-- DIV.n32 with its flag. -/
def divU (x y : Word) : Word × Word :=
  if y = 0 then (0xFFFFFFFF, fIDZ) else (w32 (x.toNat / y.toNat), 0)

/-- REM.i32 with its flag; the remainder has the sign of the dividend. -/
def remS (x y : Word) : Word × Word :=
  if y = 0 then (x, fIDZ) else (i32 (x.toInt - y.toInt * Int.tdiv x.toInt y.toInt), 0)

/-- REM.n32 with its flag. -/
def remU (x y : Word) : Word × Word :=
  if y = 0 then (x, fIDZ) else (w32 (x.toNat % y.toNat), 0)

/-- The count of a shift or rotate: its low five bits. -/
def shiftCount (y : Word) : Nat := y.toNat % 32

/-- SHL. -/
def shlOp (x y : Word) : Word := w32 (x.toNat * 2 ^ shiftCount y)

/-- SHR. -/
def shrOp (x y : Word) : Word := w32 (x.toNat / 2 ^ shiftCount y)

/-- SAR. -/
def sarOp (x y : Word) : Word := i32 (x.toInt / (2 ^ shiftCount y : Nat))

/-- ROL. -/
def rolOp (x y : Word) : Word :=
  w32 (x.toNat * 2 ^ shiftCount y) ||| w32 (x.toNat / 2 ^ (32 - shiftCount y))

/-- MIN.i32. -/
def minS (x y : Word) : Word := if x.toInt ≤ y.toInt then x else y

/-- MIN.n32. -/
def minU (x y : Word) : Word := if x.toNat ≤ y.toNat then x else y

/-- MAX.i32. -/
def maxS (x y : Word) : Word := if x.toInt ≤ y.toInt then y else x

/-- MAX.n32. -/
def maxU (x y : Word) : Word := if x.toNat ≤ y.toNat then y else x

/-- CLZ; 32 when the operand is 0. -/
def clzOp (x : Word) : Word := w32 (if x = 0 then 32 else 31 - x.toNat.log2)

/-- POPC. -/
def popcOp (x : Word) : Word := w32 ((List.range 32).countP (fun i => bit x.toNat i))

/-- BREV. -/
def brevOp (x : Word) : Word :=
  w32 ((List.range 32).foldl (fun acc i => acc * 2 + b2n (bit x.toNat i)) 0)

/-- ADDSAT.i32. -/
def addsat (x y : Word) : Word := i32 (satI (x.toInt + y.toInt) (-(2 ^ 31)) (2 ^ 31 - 1))

/-- SUBSAT.i32. -/
def subsat (x y : Word) : Word := i32 (satI (x.toInt - y.toInt) (-(2 ^ 31)) (2 ^ 31 - 1))

end Sys2Proof.Machine

namespace Sys2Proof

open Sys2Proof.Machine

/-- The ICMP conditions (03 R68). -/
def ICond.holds (c : ICond) (x y : Word) : Bool :=
  match c with
  | .eq => decide (x = y)
  | .ne => decide (x ≠ y)
  | .ltI => decide (x.toInt < y.toInt)
  | .leI => decide (x.toInt ≤ y.toInt)
  | .gtI => decide (y.toInt < x.toInt)
  | .geI => decide (y.toInt ≤ x.toInt)
  | .ltN => decide (x.toNat < y.toNat)
  | .leN => decide (x.toNat ≤ y.toNat)
  | .gtN => decide (y.toNat < x.toNat)
  | .geN => decide (y.toNat ≤ x.toNat)

/-- Codes 6 to 9 zero-extend an imm6 (03 R67). -/
def ICond.zext (c : ICond) : Bool :=
  match c with
  | .ltN => true | .leN => true | .gtN => true | .geN => true
  | .eq => false | .ne => false | .ltI => false | .leI => false | .gtI => false | .geI => false

/-- The CMP64 conditions (05 R106). -/
def Cond64.holds (c : Cond64) (x y : DWord) : Bool :=
  match c with
  | .eq => decide (x = y)
  | .ne => decide (x ≠ y)
  | .ltI => decide (x.toInt < y.toInt)
  | .leI => decide (x.toInt ≤ y.toInt)
  | .ltN => decide (x.toNat < y.toNat)
  | .leN => decide (x.toNat ≤ y.toNat)

end Sys2Proof

namespace Sys2Proof.Machine

open Sys2Proof

/-! ### Floating-point words -/

/-- A rounded result as a lane's result. -/
def ofRounded (r : Rounded) (a b : Word) : LaneRes :=
  { val := BitVec.ofNat 64 r.code, flags := r.flags, a := a, b := b }

/-- An FP32 word of two operands (05 R108). -/
def State.fp2 (s : State) (st : Stall) (f : FForm) (d a b : Reg)
    (op : RoundMode → Nat → Nat → Rounded) : Out :=
  s.alu st latF32 (f.dest d) (f.reads a b) (fun s1 l =>
    let x := f.opA a s1 l
    let y := f.opB b s1 l
    ofRounded (op s1.wave.rm x.toNat y.toNat) x y)

/-- An FP32 word of one operand in an FP32 ALU form. -/
def State.fp1 (s : State) (st : Stall) (f : FForm) (d a : Reg) (op : Nat → Nat) : Out :=
  s.alu st latF32 (f.dest d) (f.reads1 a) (fun s1 l =>
    { val := BitVec.ofNat 64 (op (f.opA a s1 l).toNat), a := f.opA a s1 l })

/-- A word of the FMA family (05 R109). -/
def State.fp3 (s : State) (st : Stall) (negP negC : Bool) (d a b c : Reg) : Out :=
  s.alu st latF32 (.v d.toNat)
    { rv := [(a.toNat, 1), (b.toNat, 1), (c.toNat, 1)] } (fun s1 l =>
      let x := s1.readV l a.toNat
      let y := s1.readV l b.toNat
      let z := s1.readV l c.toNat
      ofRounded (fpFma fp32 s1.wave.rm negP negC x.toNat y.toNat z.toNat) x y)

/-- A special function of one V register (05 R111 to R116). -/
def State.special (s : State) (st : Stall) (d a : Reg) (op : Nat → Rounded) : Out :=
  s.alu st latF32 (.v d.toNat) { rv := [(a.toNat, 1)] } (fun s1 l =>
    let x := s1.readV l a.toNat
    ofRounded (op x.toNat) x 0)

/-- A packed 16-bit word (05 R117): each half is computed on its own and the flags are ORed. -/
def State.packed (s : State) (st : Stall) (t : HalfType) (readD : Bool) (d a b : Reg)
    (op : FpFmt → RoundMode → Nat → Nat → Nat → Rounded) : Out :=
  s.alu st latF32 (.v d.toNat)
    { rv := [(a.toNat, 1), (b.toNat, 1)] ++ (if readD then [(d.toNat, 1)] else []) } (fun s1 l =>
      let x := s1.readV l a.toNat
      let y := s1.readV l b.toNat
      let z := if readD then s1.readV l d.toNat else 0
      let F := match t with
        | .f16 => fp16
        | .bf16 => bf16
      let h (k : Nat) : Rounded :=
        op F s1.wave.rm (bits x.toNat (k + 15) k) (bits y.toNat (k + 15) k)
          (bits z.toNat (k + 15) k)
      { val := BitVec.ofNat 64 ((h 0).code + (h 16).code * 65536)
        flags := (h 0).flags ||| (h 16).flags
        a := x
        b := y })

/-- An FP64 word of two operands (05 R118). -/
def State.dp2 (s : State) (st : Stall) (d a b : Reg)
    (op : RoundMode → Nat → Nat → Rounded) : Out :=
  s.alu st latF64 (.v64 d.toNat) { rv := [(a.toNat, 2), (b.toNat, 2)] } (fun s1 l =>
    let x := s1.readV64 l a.toNat
    let y := s1.readV64 l b.toNat
    ofRounded (op s1.wave.rm x.toNat y.toNat) (lo32 x) (lo32 y))

/-- An FP64 word of one operand that raises no flag. -/
def State.dp1 (s : State) (st : Stall) (d a : Reg) (op : Nat → Nat) : Out :=
  s.alu st latF64 (.v64 d.toNat) { rv := [(a.toNat, 2)] } (fun s1 l =>
    { val := BitVec.ofNat 64 (op (s1.readV64 l a.toNat).toNat) })

/-! ### Interlocked results (02 R32) -/

/-- FSQRT and FDIV: the operands are read and the flags merged at issue; the destination is written by
INTERLOCK_RESULT. -/
def State.interlockV (s : State) (st : Stall) (d : Reg) (u : Uses)
    (r : State → Nat → LaneRes) : Out :=
  s.gate (Uses.plus { wv := [(d.toNat, 1)] } u) (fun s1 =>
    let ls := s1.wave.activeLanes
    let v := r s1
    match arithTrap s1.wave.fpctl ls v with
    | some x => s1.trapHere x.1 x.2
    | none =>
      let writes := ls.map (fun l =>
        (RegFile.v, l, (s1.wave.fib l).base + d.toNat, lo32 (v l).val))
      (s1.onWave (fun w =>
        { (w.supersede (writes.map (fun x => (x.1, x.2.1, x.2.2.1)))).mergeFlags (orFlags ls v) with
          interlocks := if ls.isEmpty then w.interlocks else w.interlocks ++ [⟨writes⟩] })).issue st)

/-- Writes one value that was outstanding: no earlier write to the register is in flight any longer. -/
def Wave.landWrite (w : Wave) (x : RegFile × Nat × Nat × Word) : Wave :=
  let w1 := { w with board := w.board.filter (fun e =>
    !(decide (e.file = x.1) && e.lane == x.2.1 && e.reg == x.2.2.1)) }
  match x.1 with
  | .v => w1.mapLanes (fun l f => if l = x.2.1 then f.putV x.2.2.1 x.2.2.2 else f)
  | .s => w1.putS x.2.2.1 x.2.2.2
  | .p => w1.mapLanes (fun l f => if l = x.2.1 then f.setPred x.2.2.1 (x.2.2.2 != 0) else f)

/-- What a register of a wave holds, as a word. -/
def Wave.held (w : Wave) (file : RegFile) (l r : Nat) : Word :=
  match file with
  | .v => (w.fib l).reg r
  | .s => w.sreg r
  | .p => if (w.fib l).pred r then 1 else 0

/-- Writes one value of an operation on a counter that completes now: until a wait on the counter a read may
still receive the value before it, for a number of slots that is free (13 R273, 02 R33). -/
def Wave.landLate (w : Wave) (n ctr : Nat) (x : RegFile × Nat × Nat × Word) : Wave :=
  { w.landWrite x with
    board := { file := x.1, reg := x.2.2.1, lane := x.2.1, old := w.held x.1 x.2.1 x.2.2.1, slot := w.slotNo
               lat := Config.landing n, ctr := some ctr } :: (w.landWrite x).board }

end Sys2Proof.Machine
end

