-- ==== Sys2Proof/Machine/Keccak.lean ====
section
/-!
DEFINITION. Sys2Proof/Machine/Keccak.lean: SHAKE256, which 19 R368, R369 and 22 R406 name as a standard. PRESUMED
(log 26): the function is that of FIPS 202, which the spec does not restate.
-/

namespace Sys2Proof.Machine

open Sys2Proof

/-- The 25 lanes of a Keccak state: lane x + 5y at index x + 5y. -/
abbrev KeccakState := List DWord

/-- A lane of a state; the coordinates count modulo 5. -/
def kLane (a : KeccakState) (x y : Nat) : DWord := a.getD (x % 5 + 5 * (y % 5)) 0

/-- The state whose lane (x, y) is `f x y`. -/
def kBuild (f : Nat → Nat → DWord) : KeccakState := (List.range 25).map (fun i => f (i % 5) (i / 5))

/-- How far each lane is rotated, by index. -/
def kOffsets : List Nat :=
  [0, 1, 62, 28, 27, 36, 44, 6, 55, 20, 3, 10, 43, 25, 39, 41, 45, 15, 21, 8, 18, 2, 61, 56, 14]

/-- The constants of the 24 rounds. -/
def kRounds : List DWord :=
  [0x0000000000000001, 0x0000000000008082, 0x800000000000808A, 0x8000000080008000,
   0x000000000000808B, 0x0000000080000001, 0x8000000080008081, 0x8000000000008009,
   0x000000000000008A, 0x0000000000000088, 0x0000000080008009, 0x000000008000000A,
   0x000000008000808B, 0x800000000000008B, 0x8000000000008089, 0x8000000000008003,
   0x8000000000008002, 0x8000000000000080, 0x000000000000800A, 0x800000008000000A,
   0x8000000080008081, 0x8000000000008080, 0x0000000080000001, 0x8000000080008008]

/-- The parity of a column. -/
def kColumn (a : KeccakState) (x : Nat) : DWord :=
  kLane a x 0 ^^^ kLane a x 1 ^^^ kLane a x 2 ^^^ kLane a x 3 ^^^ kLane a x 4

/-- The step that adds the parities of two neighbouring columns. -/
def kTheta (a : KeccakState) : KeccakState :=
  kBuild (fun x y => kLane a x y ^^^ (kColumn a (x + 4) ^^^ (kColumn a (x + 1)).rotateLeft 1))

/-- The rotations and the exchange of the lanes: lane (x, y) comes from lane (x + 3y, x). -/
def kRhoPi (a : KeccakState) : KeccakState :=
  kBuild (fun x y => (kLane a (x + 3 * y) x).rotateLeft (kOffsets.getD ((x + 3 * y) % 5 + 5 * x) 0))

/-- The step that is not linear. -/
def kChi (a : KeccakState) : KeccakState :=
  kBuild (fun x y => kLane a x y ^^^ (~~~ kLane a (x + 1) y &&& kLane a (x + 2) y))

/-- One round. -/
def kRound (a : KeccakState) (c : DWord) : KeccakState :=
  let b := kChi (kRhoPi (kTheta a))
  (b.headD 0 ^^^ c) :: b.drop 1

/-- The permutation. -/
def keccakF (a : KeccakState) : KeccakState := kRounds.foldl kRound a

/-- The bytes that one block takes in or gives out. -/
def shakeRate : Nat := 136

/-- A message padded to whole blocks. -/
def shakePad (m : List Byte) : List Byte :=
  let n := shakeRate - m.length % shakeRate
  m ++ (if n = 1 then [0x9F] else 0x1F :: List.replicate (n - 2) 0 ++ [0x80])

/-- A state takes in one block. -/
def absorbBlock (a : KeccakState) (b : List Byte) : KeccakState :=
  keccakF (a.mapIdx (fun i x => x ^^^ BitVec.ofNat 64 (fromBytes ((b.drop (8 * i)).take 8))))

/-- A state takes in n blocks. -/
def absorb (a : KeccakState) : Nat → List Byte → KeccakState
  | 0, _ => a
  | n + 1, bs => absorb (absorbBlock a (bs.take shakeRate)) n (bs.drop shakeRate)

/-- n blocks of output. -/
def squeeze (a : KeccakState) : Nat → List Byte
  | 0 => []
  | n + 1 => (a.flatMap (fun x => bytesOf x.toNat 8)).take shakeRate ++ squeeze (keccakF a) n

/-- SHAKE256 with an output of n bytes. -/
def shake256 (n : Nat) (m : List Byte) : List Byte :=
  let p := shakePad m
  (squeeze (absorb (List.replicate 25 0) (p.length / shakeRate) p) (ceilDiv n shakeRate)).take n

end Sys2Proof.Machine
end

