-- ==== Sys2Proof/Machine/Memory.lean ====
section
/-!
DEFINITION. Sys2Proof/Machine/Memory.lean: the physical address space, page tables, TLBs and address
translation (18 R317 to R325, R423), the tier map and the wait tables (18 R328 to R333, 22 R402), and
the fault records that go to the steward (20 R381, R387).
-/

namespace Sys2Proof.Machine

open Sys2Proof

/-! ### Bytes of physical memory (18 R318) -/

/-- One byte; an unlisted byte reads 0 (log 4). -/
def State.rdByte (s : State) (a : Nat) : Byte := sget 0 s.mem a

/-- The n bytes at an address. -/
def State.rdBytes (s : State) (a n : Nat) : List Byte := (List.range n).map (fun i => s.rdByte (a + i))

/-- The n bytes at an address as a little-endian number. -/
def State.rd (s : State) (a n : Nat) : Nat := fromBytes (s.rdBytes a n)

/-- Writes bytes into the sparse memory. -/
def putBytes (m : Memory) (a : Nat) : List Byte → Memory
  | [] => m
  | b :: bs => putBytes (sput 0 m a b) (a + 1) bs

/-- The local part of a physical address. -/
def localOf (a : Nat) : Nat := a % 2 ^ 44

/-- The device number of a physical address. -/
def deviceOf (a : Nat) : Nat := a / 2 ^ 44

/-- A local address in the cask (18 R423). -/
def isCask (l : Nat) : Bool := decide (l < 0x06000000000)

/-- The die whose cask range holds a local address. -/
def caskDie (l : Nat) : Nat := l / 0x1800000000

/-- A local address in the module tier. -/
def isModule (l : Nat) : Bool := decide (0x10000000000 ≤ l) && decide (l < 0x30000000000)

/-- A local address in the host aperture. -/
def isHost (l : Nat) : Bool := decide (0x80000000000 ≤ l) && decide (l < 0x100000000000)

/-- A local address that 18 R423 assigns. -/
def isAssigned (l : Nat) : Bool := isCask l || isModule l || isHost l

/-- The address of the module-tier unit of an address of this device, if it lies in the module tier
(22 R406). -/
def State.unitOf (s : State) (a : Nat) : Option Nat :=
  if deviceOf a == s.mgmt.devno && isModule (localOf a) then some (a / 4096) else none

/-- The 32-byte key of the present boot (22 R406). -/
def State.bootKey (s : State) : List Byte := (List.range 32).map (Config.bootKey s.mgmt.bootseq.toNat)

/-- The tag of a unit with some bytes: the first 8 bytes of SHAKE256 of the boot key, the unit's local address and the
bytes (22 R406). -/
def State.tagFor (s : State) (u : Nat) (d : List Byte) : DWord :=
  BitVec.ofNat 64 (fromBytes (shake256 8 (s.bootKey ++ bytesOf (localOf (u * 4096)) 8 ++ d)))

/-- The tag that a unit's bytes ask for under the boot's key (22 R406). -/
def State.tagOf (s : State) (u : Nat) : DWord := s.tagFor u (s.rdBytes (u * 4096) 4096)

/-- The tag a unit holds: every unit is zero with its tag when the boot has run step 6 (22 R406). -/
def State.unitHolds (s : State) (u : Nat) : DWord := sget (s.tagFor u (List.replicate 4096 0)) s.unitTags u

/-- Whether a module-tier unit fails both reads: it is known to be bad, its tag is not that of its bytes, or both
attempts meet an error (22 R408). -/
def State.unitFails (s : State) (p : Nat) : Bool :=
  match s.unitOf p with
  | none => false
  | some u =>
    s.badUnits.contains u || s.unitHolds u != s.tagOf u ||
    (Config.unitError s.fresh u && Config.unitError (s.fresh + 1) u)

/-- Gives a unit the tag of its present bytes (22 R407). -/
def State.retag (s : State) (u : Nat) : State :=
  { s with unitTags := sins s.unitTags u (s.tagOf u) }

/-- Writes bytes at a physical address; a module-tier unit gets its new tag. -/
def State.wr (s : State) (a : Nat) (bs : List Byte) : State :=
  let s1 := { s with mem := putBytes s.mem a bs }
  match s.unitOf a with
  | some u => s1.retag u
  | none => s1

/-- A run of bytes as it stands in the sparse memory. -/
def runCells : Nat → List Byte → Memory
  | _, [] => []
  | a, b :: bs => if b = 0 then runCells (a + 1) bs else (a, b) :: runCells (a + 1) bs

/-- Writes a long run of bytes at once. -/
def putRun (m : Memory) (a : Nat) (bs : List Byte) : Memory :=
  m.filter (fun c => decide (c.1 < a)) ++
    (runCells a bs ++ m.filter (fun c => decide (a + bs.length ≤ c.1)))

/-- Writes a long run of bytes at a physical address; the module-tier units that it touches get their new tags. -/
def State.wrRun (s : State) (a : Nat) (bs : List Byte) : State :=
  let s1 := { s with mem := putRun s.mem a bs }
  if bs.isEmpty then s
  else
    (List.range ((a + bs.length - 1) / 4096 + 1 - a / 4096)).foldl (fun s i =>
      match s.unitOf (a / 4096 * 4096 + 4096 * i) with
      | some u => s.retag u
      | none => s) s1

/-- Writes an n-byte little-endian number. -/
def State.wrN (s : State) (a v n : Nat) : State := s.wr a (bytesOf v n)

/-! ### Cores, clusters, dies, contexts, launches and groups by number -/

/-- The cluster of a core. -/
def clusterOf (core : Nat) : Nat := core / 4

/-- The die of a core. -/
def dieOf (core : Nat) : Nat := core / 48

/-- The issuing core's cluster. -/
def State.cluster (s : State) : Cluster := sget {} s.clusters (clusterOf s.core.num)

/-- A die by number. -/
def State.die (s : State) (d : Nat) : Die := sget {} s.dies d

/-- Replaces a die. -/
def State.setDie (s : State) (d : Nat) (x : Die) : State := { s with dies := sins s.dies d x }

/-- A context by number. -/
def State.context (s : State) (id : Nat) : Option Context := s.contexts.find? (fun c => c.id == id)

/-- A context by number, or an empty one. -/
def State.ctxD (s : State) (id : Nat) : Context := (s.context id).getD {}

/-- Changes a context. -/
def State.onContext (s : State) (id : Nat) (f : Context → Context) : State :=
  { s with contexts := updateWhere (fun c => c.id == id) f s.contexts }

/-- Changes a launch. -/
def State.onLaunch (s : State) (id : Nat) (f : Launch → Launch) : State :=
  { s with launches := updateWhere (fun x => x.id == id) f s.launches }

/-- A group by number. -/
def State.groupD (s : State) (id : Nat) : Group := (s.groups.find? (fun g => g.id == id)).getD {}

/-- Changes a group. -/
def State.onGroup (s : State) (id : Nat) (f : Group → Group) : State :=
  { s with groups := updateWhere (fun g => g.id == id) f s.groups }

/-- Every wave that is resident on some core, the issuing wave first. -/
def State.allWaves (s : State) : List Wave :=
  s.wave :: s.core.waves ++ s.cores.flatMap (fun c => c.waves)

/-- Every core, the issuing wave's first. -/
def State.allCores (s : State) : List Core := s.core :: s.cores

/-- Changes every resident wave. -/
def State.onWaves (s : State) (f : Wave → Wave) : State :=
  { s with
    wave := f s.wave
    core := { s.core with waves := s.core.waves.map f }
    cores := s.cores.map (fun c => { c with waves := c.waves.map f }) }

/-- Changes every core. -/
def State.onCores (s : State) (f : Core → Core) : State :=
  { s with core := f s.core, cores := s.cores.map f }

/-! ### Page-table entries (18 R320, R321) -/

/-- V. -/
def entV (e : Nat) : Bool := bit e 0
/-- A present entry whose kind bits are zero points to the next table. -/
def entPointer (e : Nat) : Bool := bits e 3 1 == 0
/-- R. -/
def entR (e : Nat) : Bool := bit e 1
/-- W. -/
def entW (e : Nat) : Bool := bit e 2
/-- X. -/
def entX (e : Nat) : Bool := bit e 3
/-- C: a checked page (12 R264). -/
def entC (e : Nat) : Bool := bit e 4
/-- Tier code (01 R14). -/
def entTier (e : Nat) : Nat := bits e 6 5
/-- Home die. -/
def entHome (e : Nat) : Nat := bits e 8 7
/-- G. -/
def entG (e : Nat) : Bool := bit e 9
/-- Physical address of the frame. -/
def entFrame (e : Nat) : Nat := bits e 55 16 * 65536
/-- Physical address of the next table. -/
def entNext (e : Nat) : Nat := bits e 55 8 * 256

/-- A frame or table of this device in an unassigned range. -/
def State.unassigned (s : State) (a : Nat) : Bool :=
  deviceOf a == s.mgmt.devno && !isAssigned (localOf a)

/-- An invalid pointer of a table at a level (18 R322). -/
def State.badPointer (s : State) (level e : Nat) : Bool :=
  let align := match level with
    | 0 => 65536
    | 1 => 4096
    | _ => 256
  bits e 63 56 != 0 || bits e 7 4 != 0 || level == 3 || entNext e % align != 0 ||
  deviceOf (entNext e) != s.mgmt.devno || s.unassigned (entNext e)

/-- An invalid leaf of a table at a level (18 R322). -/
def State.badLeaf (s : State) (ctx level e : Nat) : Bool :=
  bits e 63 56 != 0 || bits e 15 10 != 0 || level == 0 ||
  (level == 1 && bits e 29 16 != 0) || (level == 2 && bits e 20 16 != 0) ||
  (entW e && (!entR e || entX e)) || (entG e && ctx != 0) ||
  (entTier e == 0 && !(isCask (localOf (entFrame e)) && caskDie (localOf (entFrame e)) == entHome e)) ||
  s.unassigned (entFrame e)

/-- A leaf with the size of the page that it maps, 2^shift bytes. -/
structure Leaf where
  ent   : Nat := 0
  shift : Nat := 16
  deriving DecidableEq, Repr, Inhabited

/-- The physical address that a leaf gives an address of its page. -/
def Leaf.phys (x : Leaf) (va : Nat) : Nat := entFrame x.ent + va % 2 ^ x.shift

/-- The virtual address bits that index a table at a level. -/
def levelIndex (level va : Nat) : Nat :=
  match level with
  | 0 => bits va 55 43
  | 1 => bits va 42 30
  | 2 => bits va 29 21
  | _ => bits va 20 16

/-- The entries of a table at a level (18 R319). -/
def levelEntries (level : Nat) : Nat :=
  match level with
  | 0 => 8192
  | 1 => 8192
  | 2 => 512
  | _ => 32

/-- The page size of a leaf at a level (18 R319). -/
def levelShift (level : Nat) : Nat :=
  match level with
  | 0 => 43
  | 1 => 30
  | 2 => 21
  | _ => 16

/-- Reads of module-tier units on behalf of a context: the event of a unit that met one failure of its tag and verified
on the second read is posted at the next turn (22 R408, log 27). -/
def State.noteUnits (s : State) (ctx : Nat) (ps : List Nat) : State :=
  let us := ps.filterMap (fun p =>
    match s.unitOf p with
    | none => none
    | some u => if Config.unitError s.fresh u && !s.unitFails p then some (ctx, u) else none)
  { s with retried := us.foldl (fun xs x => if xs.contains x then xs else xs ++ [x]) s.retried }

/-- The unit at `p` failed both reads: it stays bad until a whole write (22 R407, log 27). -/
def State.markBad (s : State) (p : Nat) : State :=
  { s with badUnits := if s.badUnits.contains (p / 4096) then s.badUnits else p / 4096 :: s.badUnits }

/-- Reads or partial writes of the device's own at some addresses: a unit that fails both reads delivers nothing, and
the next turn marks the pages on it (22 R408, R409, log 27). -/
def State.noteDead (s : State) (ps : List Nat) : State :=
  match ps.filter (fun p => s.unitFails p) with
  | [] => s
  | xs => xs.foldl (fun s p =>
      { s.markBad p with
        deadUnits := if s.deadUnits.contains (p / 4096) then s.deadUnits else s.deadUnits ++ [p / 4096] }) s

/-- Room in a die's cellar reservation of 64 MiB, in 64 KiB frames (01 R13, 18 R323). -/
def cellarFrames : Nat := 1024

/-- The 64 KiB frames of a leaf. -/
def Leaf.frames (x : Leaf) : List Nat :=
  (List.range (2 ^ (x.shift - 16))).map (fun i => entFrame x.ent / 65536 + i)

/-- Whether a die's cellar reservation holds the leaf's frames or has room for them. -/
def State.cellarFits (s : State) (x : Leaf) : Bool :=
  let d := s.die (entHome x.ent)
  decide (x.shift ≤ 26) &&
  (let new := x.frames.filter (fun f => !d.cellar.contains f)
   decide (d.cellar.length + new.length ≤ cellarFrames))

/-- The walk from a table at `level`; `n` bounds the levels left (18 R319 to R323). An entry whose module-tier unit
fails both reads is not delivered, and the walk ends as at one that is not present (22 R408; DESIGN CHOICE, log 27).
-/
def State.walkFrom (s : State) (ctx va : Nat) : Nat → Nat → Nat → Except Nat Leaf
  | 0, _, _ => .error 0x003
  | n + 1, level, table =>
    let e := s.rd (table + 8 * levelIndex level va) 8
    if s.unitFails (table + 8 * levelIndex level va) || !entV e then .error 0x002
    else if entPointer e then
      if s.badPointer level e then .error 0x003 else s.walkFrom ctx va n (level + 1) (entNext e)
    else if s.badLeaf ctx level e then .error 0x003
    else
      let x : Leaf := { ent := e, shift := levelShift level }
      if entTier e == 3 && !s.cellarFits x then .error 0x005 else .ok x

/-- A walk of a context's page tables. -/
def State.walk (s : State) (ctx va : Nat) : Except Nat Leaf :=
  s.walkFrom ctx va 4 0 (s.ctxD ctx).ptroot.toNat

/-- The physical addresses of the entries that a walk from a table reads. -/
def State.readsFrom (s : State) (va : Nat) : Nat → Nat → Nat → List Nat
  | 0, _, _ => []
  | n + 1, level, table =>
    let a := table + 8 * levelIndex level va
    let e := s.rd a 8
    a :: (if !s.unitFails a && entV e && entPointer e && !s.badPointer level e then
      s.readsFrom va n (level + 1) (entNext e) else [])

/-- The physical addresses of the entries that the walk of a context's address reads. -/
def State.walkReads (s : State) (ctx va : Nat) : List Nat := s.readsFrom va 4 0 (s.ctxD ctx).ptroot.toNat

/-- The physical address of the level-3 entry that maps a 64 KiB page, if the walk reaches one. -/
def State.leafSlot (s : State) (ctx va : Nat) : Nat → Nat → Nat → Option Nat
  | 0, _, _ => none
  | n + 1, level, table =>
    let a := table + 8 * levelIndex level va
    let e := s.rd a 8
    if s.unitFails a then none
    else if level == 3 then some a
    else if entV e && entPointer e && !s.badPointer level e then
      s.leafSlot ctx va n (level + 1) (entNext e)
    else none

/-- The physical address of the entry that ends the walk of a page: its leaf at whatever level, or its entry of
the level-3 table. -/
def State.entrySlot (s : State) (ctx va : Nat) : Nat → Nat → Nat → Option Nat
  | 0, _, _ => none
  | n + 1, level, table =>
    let a := table + 8 * levelIndex level va
    let e := s.rd a 8
    if s.unitFails a then none
    else if level == 3 then some a
    else if !entV e then none
    else if entPointer e then
      if s.badPointer level e then none else s.entrySlot ctx va n (level + 1) (entNext e)
    else some a

/-- The entry that maps a page of a context (22 R409). -/
def State.pageEntry (s : State) (ctx page : Nat) : Option Nat :=
  s.entrySlot ctx (page * 65536) 4 0 (s.ctxD ctx).ptroot.toNat

/-- The level-3 entry of a page of a context. -/
def State.pageSlot (s : State) (ctx page : Nat) : Option Nat :=
  s.leafSlot ctx (page * 65536) 4 0 (s.ctxD ctx).ptroot.toNat

/-! ### TLBs (18 R324) -/

/-- A TLB entry that translates an address of a context. -/
def TlbEntry.covers (e : TlbEntry) (ctx va : Nat) : Bool :=
  (e.ctx == ctx || entG e.leaf.toNat) && va / 2 ^ e.shift == e.vpn

/-- The hit of an address in the core's L1 TLB; an entry may have been evicted. -/
def State.l1Hit (s : State) (ctx va : Nat) : Option TlbEntry :=
  match s.core.tlb.find? (fun e => e.covers ctx va) with
  | some e => if Config.evicted s.fresh (2 * (va / 65536)) then none else some e
  | none => none

/-- The hit of an address in the cluster's L2 TLB. -/
def State.l2Hit (s : State) (ctx va : Nat) : Option TlbEntry :=
  match s.cluster.tlb.find? (fun e => e.covers ctx va) with
  | some e => if Config.evicted s.fresh (2 * (va / 65536) + 1) then none else some e
  | none => none

/-- The TLB hit of an address: the core's L1, then its cluster's L2. -/
def State.tlbHit (s : State) (ctx va : Nat) : Option TlbEntry := (s.l1Hit ctx va).or (s.l2Hit ctx va)

/-- The leaf that translates an address: a TLB entry, or a walk. -/
def State.leafOf (s : State) (ctx va : Nat) : Except Nat Leaf :=
  match s.tlbHit ctx va with
  | some e => .ok { ent := e.leaf.toNat, shift := e.shift }
  | none => s.walk ctx va

/-- What a TLBI drops: whether it drops an entry (20 R386). -/
def Tlbi.drops (t : Tlbi) (e : TlbEntry) : Bool :=
  match t.kind with
  | .page va => e.covers t.ctx va
  | .ctx => e.ctx == t.ctx && !entG e.leaf.toNat
  | .all => true

/-- Whether a TLBI may drop what translates an address of a context: for a page, any entry of up to 1 GiB that covers
it, of whichever context with G. To take in more than is dropped only delays the acknowledgement, and a clause
dropped is fetched again. -/
def Tlbi.coversPage (t : Tlbi) (ctx va : Nat) : Bool :=
  match t.kind with
  | .page x => x / 2 ^ 30 == va / 2 ^ 30
  | .ctx => t.ctx == ctx
  | .all => true

/-- A core drops what a TLBI names: entries, instruction-cache lines and branch targets (18 R334). -/
def Core.forget (c : Core) (t : Tlbi) : Core :=
  { c with
    tlb := c.tlb.filter (fun e => !t.drops e)
    icache := c.icache.filter (fun x => !t.coversPage (x.1 / 2 ^ 50) (x.1 % 2 ^ 50 * 64))
    brx := [] }

/-- Frames of the cellar reservation that no TLB entry uses any longer are released (18 R323). -/
def State.freeCellar (s : State) : State :=
  let es := s.allCores.flatMap (fun c => c.tlb) ++ s.clusters.flatMap (fun x => x.2.tlb)
  let used := es.flatMap (fun e =>
    if entTier e.leaf.toNat = 3 then
      Leaf.frames { ent := e.leaf.toNat, shift := e.shift }
    else [])
  { s with dies := s.dies.map (fun x =>
      (x.1, { x.2 with cellar := x.2.cellar.filter (fun f => used.contains f) })) }

/-- Solera's TLBI.page at device scope for a page whose leaf it has withdrawn: every core and cluster drops what the
page's entry gave it (18 R334, 22 R403, R409). -/
def State.flushPage (s : State) (ctx page : Nat) : State :=
  let t : Tlbi := { kind := .page (page * 65536), ctx := ctx }
  State.freeCellar { s.onCores (fun c => c.forget t) with
    clusters := s.clusters.map (fun x => (x.1, { x.2 with tlb := x.2.tlb.filter (fun e => !t.drops e) })) }

/-- Some access that was translated to the n bytes at a physical address has not been performed: of a wave, of a saved
wave, or of a metadata load in a core's array queue. -/
def State.rangeBusy (s : State) (lo n : Nat) : Bool :=
  let at_ (p : Nat) : Bool := decide (lo ≤ p) && decide (p < lo + n)
  let hit (o : MemOp) : Bool :=
    (match o.space, o.kind with
      | .global, _ => true
      | .vat _, .vsync .. => true
      | .vat _, _ => false) && o.reqs.any (fun q => at_ q.phys)
  s.allWaves.any (fun w => w.outst.any hit) ||
  s.contexts.any (fun c => c.images.any (fun i => i.waves.any (fun w => w.outst.any hit))) ||
  s.allCores.any (fun c => c.arrayQ.any (fun a =>
    match a.op with
    | .mld _ .global ps _ => ps.any at_
    | _ => false))

/-- Adds an entry to a TLB of a given capacity. -/
def tlbAdd (cap : Nat) (e : TlbEntry) (xs : List TlbEntry) : List TlbEntry :=
  (e :: xs.filter (fun y => !(y.ctx == e.ctx && y.vpn == e.vpn && y.shift == e.shift))).take cap

/-- Takes the cellar reservation of the page at an address (01 R13, 18 R323). -/
def State.reserve (s : State) (ctx va : Nat) : State :=
  match s.leafOf ctx va with
  | .error _ => s
  | .ok x =>
    if entTier x.ent == 3 then
      let d := s.die (entHome x.ent)
      s.setDie (entHome x.ent)
        { d with cellar := d.cellar ++ x.frames.filter (fun f => !d.cellar.contains f) }
    else s

/-- Takes the reservations of several pages, in order. -/
def State.reserveAll (s : State) (ctx : Nat) (vas : List Nat) : State :=
  vas.foldl (fun s a => s.reserve ctx a) s

/-- Installs a translation that was used in the core's L1 and, unless it came from there, in its cluster's L2
(18 R324): no hit in an L1 brings an entry back that a TLBI dropped from the L2 (18 R334). Its cellar reservation
is taken (18 R323). -/
def State.install (s : State) (ctx va : Nat) : State :=
  match s.leafOf ctx va with
  | .error _ => s
  | .ok x =>
    let e : TlbEntry :=
      { ctx := ctx, vpn := va / 2 ^ x.shift, shift := x.shift, leaf := BitVec.ofNat 64 x.ent }
    let c := s.cluster
    let s0 := if (s.tlbHit ctx va).isSome then s else s.noteUnits ctx (s.walkReads ctx va)
    let s1 := s0.reserve ctx va
    { s1 with
      core := { s1.core with tlb := tlbAdd 192 e s1.core.tlb }
      clusters :=
        if (s.l1Hit ctx va).isSome then s1.clusters
        else sins s1.clusters (clusterOf s.core.num) { c with tlb := tlbAdd 4096 e c.tlb } }

/-! ### Translation of one access (18 R325) -/

/-- The parts of a run of at most 64 KiB that lie in one 64 KiB page each: address and length. -/
def pageParts (a n : Nat) : List (Nat × Nat) :=
  let cut := 65536 - a % 65536
  if n ≤ cut then [(a, n)] else [(a, cut), (a + cut, n - cut)]

/-- What an access asks of a page; a `probe` needs load permission and reads no byte (18 R330, 22 R405). -/
inductive Access where
  | read | write | fetch | rmw | probe
  deriving DecidableEq, Repr

/-- The access code of a group 4 detail (20 R374). -/
def Access.code : Access → Nat
  | .read => 0 | .write => 1 | .fetch => 2 | .rmw => 3 | .probe => 0

/-- The permission an access needs (18 R325). -/
def Access.allowed (a : Access) (e : Nat) : Bool :=
  match a with
  | .read => entR e
  | .write => entW e
  | .fetch => entX e
  | .rmw => entR e && entW e
  | .probe => entR e

/-- Translates an address of a context: the physical address, or the code of cause group 4. -/
def State.translate (s : State) (ctx va : Nat) (a : Access) : Except Nat Nat :=
  if 2 ^ 56 ≤ va then .error 0x001
  else
    match s.leafOf ctx va with
    | .error c => .error c
    | .ok x =>
      if a.allowed x.ent then .ok (x.phys va) else .error 0x004

/-- A read of a context's byte: what its unit's tag makes of it (22 R408). -/
def State.noteRetry (s : State) (ctx va : Nat) : State :=
  match s.leafOf ctx va with
  | .error _ => s
  | .ok x => s.noteUnits ctx [x.phys va]

/-- Whether the leaf that translates an address is of a checked page (12 R264). -/
def State.checkedPage (s : State) (ctx va : Nat) : Bool :=
  match s.leafOf ctx va with
  | .ok x => entC x.ent
  | .error _ => false

/-- The virtual address of the page, of whatever size, that holds an address. -/
def State.pageOf (s : State) (ctx va : Nat) : Nat :=
  match s.leafOf ctx va with
  | .ok x => va / 2 ^ x.shift * 2 ^ x.shift
  | .error _ => va / 65536 * 65536

/-! ### The tier map (22 R402) -/

/-- Whether the walk of a page finds no present leaf. -/
def State.leafAbsent (s : State) (ctx page : Nat) : Bool :=
  match s.leafOf ctx (page * 65536) with
  | .error 2 => true
  | _ => false

/-- The state of a page: the mark of the tier map, or what its leaf says. A failed mark stands until the steward
has installed a present leaf (22 R409). -/
def State.pageState (s : State) (ctx page : Nat) : PageState :=
  match (s.ctxD ctx).tiers.find? (fun x => x.1 == page) with
  | some x => if x.2 == .failed && !s.leafAbsent ctx page then .resident else x.2
  | none => if s.leafAbsent ctx page then .absent else .resident

/-- Memory was written: a page whose failed mark meets a present leaf now has lost the mark for good (22 R409). -/
def State.tidyMarks (s : State) : State :=
  { s with contexts := s.contexts.map (fun c =>
      if c.tiers.any (fun x => x.2 == .failed) then
        { c with tiers := c.tiers.filter (fun x => x.2 != .failed ||
            (match s.walk c.id (x.1 * 65536) with
              | .error 2 => true
              | _ => false)) }
      else c) }

/-- Marks a page. -/
def State.setPage (s : State) (ctx page : Nat) (p : PageState) : State :=
  s.onContext ctx (fun c => { c with tiers := sins c.tiers page p })

/-- Takes a page's mark away: its leaf alone says its state. -/
def State.clearPage (s : State) (ctx page : Nat) : State :=
  s.onContext ctx (fun c => { c with tiers := sdel c.tiers page })

/-! ### Wait tables (18 R329) -/

/-- Entries of a wait table. -/
def waitEntries : Nat := 1024

/-- A token. -/
def tokenOf (die : Nat) (e : WtEntry) : Word := w32 (e.gen * 65536 + die * 16384 + e.idx)

/-- The die and entry of a page, wherever its table. -/
def State.findWait (s : State) (ctx page : Nat) : Option (Nat × WtEntry) :=
  (List.range 4).findSome? (fun d =>
    ((s.die d).waits.find? (fun e => e.ctx == ctx && e.page == page)).map (fun e => (d, e)))

/-- The live entry that a token of a context names. -/
def State.tokenEntry (s : State) (ctx : Nat) (tok : Word) : Option (Nat × WtEntry) :=
  let d := bits tok.toNat 15 14
  if bits tok.toNat 13 10 != 0 then none
  else
    ((s.die d).waits.find? (fun e =>
      e.idx == bits tok.toNat 9 0 && e.gen == bits tok.toNat 31 16 && e.ctx == ctx)).map
        (fun e => (d, e))

/-- The lowest free index of a wait table. -/
def Die.freeIndex (d : Die) : Option Nat :=
  (List.range waitEntries).find? (fun i => d.waits.all (fun e => e.idx != i))

/-- The next generation of an entry: 1 to 65,535, never 0. -/
def nextGen (g : Nat) : Nat := if 65535 ≤ g then 1 else g + 1

/-- Changes an entry of a die's wait table. -/
def State.onWait (s : State) (d idx : Nat) (f : WtEntry → WtEntry) : State :=
  let x := s.die d
  s.setDie d { x with waits := updateWhere (fun e => e.idx == idx) f x.waits }

/-- Removes an entry of a die's wait table. -/
def State.freeWait (s : State) (d idx : Nat) : State :=
  let x := s.die d
  s.setDie d { x with waits := x.waits.filter (fun e => e.idx != idx) }

/-- Frees an entry whose interest is 0 and which is not pending (18 R329). -/
def State.settleWait (s : State) (d idx : Nat) : State :=
  let x := s.die d
  s.setDie d
    { x with waits := x.waits.filter (fun e => !(e.idx == idx && e.interest == 0 && e.state != .pending)) }

/-- Adds one to the interest in a page's entry, or allocates a pending one in the die's table; the
token, if the table has room. -/
def State.interest (s : State) (die ctx page : Nat) : State × Option Word :=
  match s.findWait ctx page with
  | some x =>
    (s.onWait x.1 x.2.idx (fun e => { e with interest := e.interest + 1 }), some (tokenOf x.1 x.2))
  | none =>
    let d := s.die die
    match d.freeIndex with
    | none => (s, none)
    | some i =>
      let g := nextGen (sget 0 d.gens i)
      let e : WtEntry := { idx := i, gen := g, ctx := ctx, page := page, interest := 1 }
      (s.setDie die { d with waits := d.waits ++ [e], gens := sins d.gens i g },
        some (tokenOf die e))

/-! ### Records to the steward (20 R382, R387) -/

/-- A fault record as 32 bytes (20 R382). -/
def FaultRecord.bytes (r : FaultRecord) (seq : Nat) : List Byte :=
  bytesOf (packFields [
    (160, 32, r.info.d0.toNat), (192, 32, r.info.d1.toNat), (224, 32, r.info.d2.toNat),
    (128, 32, r.fibid.toNat), (64, 48, r.pc), (48, 16, seq), (40, 5, r.wctx), (32, 8, r.core),
    (20, 12, r.ctx), (19, 1, b2n r.abandoned), (18, 1, b2n r.nested), (17, 1, b2n r.unhandled),
    (16, 1, b2n r.retired), (11, 5, r.info.group), (0, 11, r.info.code)]) 32

/-- Posts the die's waiting records while the steward's queue has room (20 R387); `n` bounds them. A record waits, too,
while the module-tier unit under its slot does not verify (22 R407). -/
def State.postGo (s : State) (d : Nat) : Nat → State
  | 0 => s
  | n + 1 =>
    let x := s.die d
    match x.posts with
    | [] => s
    | r :: rs =>
      if (x.sfqtail - x.sfqhead).toNat < x.sfqcap.toNat then
        let a := x.sfqbase.toNat + 32 * (x.sfqtail.toNat % max x.sfqcap.toNat 1)
        if s.unitFails a then s.noteDead [a]
        else State.postGo
          ((s.wr a (r.bytes (x.sfqtail.toNat))).setDie d
            { x with posts := rs, sfqtail := x.sfqtail + 1 }) d n
      else s

/-- Posts a record to the steward of a die, now or when room appears. -/
def State.postSteward (s : State) (d : Nat) (r : FaultRecord) : State :=
  let x := s.die d
  let s1 := s.setDie d { x with posts := x.posts ++ [r] }
  s1.postGo d (x.posts.length + 1)

/-- Posts the record of a fault that waits on a token of a context; the entry keeps it until it is woken. -/
def State.postFor (s : State) (d ctx : Nat) (tok : Word) (r : FaultRecord) : State :=
  let seq := (s.die d).sfqtail.toNat + (s.die d).posts.length
  let s1 := s.postSteward d r
  match s1.tokenEntry ctx tok with
  | some x => s1.onWait x.1 x.2.idx (fun e => { e with records := e.records ++ [(r, seq)] })
  | none => s1

/-! ### The host event ring (19 R354 to R356) -/

/-- The physical address of host memory: the aperture of the device (19 R353). -/
def State.hostPhys (s : State) (a : Nat) : Nat := s.mgmt.devno * 2 ^ 44 + 2 ^ 43 + a % 2 ^ 43

/-- A write of evbase or evcap takes effect once the ring is empty (19 R355). -/
def Mgmt.settleRing (m : Mgmt) : Mgmt :=
  if m.evtail = m.evhead then { m with evbase := m.evbaseW, evcap := m.evcapW } else m

/-- Posts an event of a kind, or counts it lost; `payload` holds bytes 12 to 31. -/
def State.postEvent (s : State) (kind ctx payload : Nat) : State :=
  let m := s.mgmt
  if m.evbase ≠ 0 ∧ (m.evtail - m.evhead).toNat < m.evcap.toNat then
    let a := s.hostPhys (m.evbase.toNat + 32 * (m.evtail.toNat % max m.evcap.toNat 1))
    { s.wr a (bytesOf (packFields [(0, 64, m.evseq.toNat), (64, 16, kind), (80, 16, ctx),
        (96, 160, payload)]) 32) with
      mgmt := { m with evtail := m.evtail + 1, evseq := m.evseq + 1 } }
  else { s with mgmt := { m with evlost := m.evlost + 1, evseq := m.evseq + 1 } }

/-- Posts the event of a fault record that stays unresolved (kind 1): bytes 0 to 19 of the record. -/
def State.unresolved (s : State) (r : FaultRecord) (seq : Nat) : State :=
  s.postEvent 1 r.ctx (bits (fromBytes (r.bytes seq)) 159 0)

/-- A module-tier unit's event (kinds 5 and 6). -/
def State.unitEvent (s : State) (kind ctx p : Nat) : State :=
  s.postEvent kind ctx (localOf p / 4096 * 4096)

/-! ### Faults that park the set (18 R328, 20 R381) -/

/-- A fibre of the set parks; it keeps its clause and its guards. -/
def Fibre.parkOn (f : Fibre) (c : Option ClauseBuf) (p : Park) : Fibre :=
  { f with run := .parked, inSet := false, clause := c, park := p }

/-- What the steward's record of a fault holds: its wait-table token for groups 4 and 18, the unit for group 20
(20 R374). -/
def TrapInfo.posted (i : TrapInfo) (tok : Word) : TrapInfo := if i.group = 20 then i else { i with d2 := tok }

/-- What the handler sees of a fault that the steward could not resolve: the token for group 18 (20 R374). -/
def TrapInfo.handed (i : TrapInfo) (tok : Word) : TrapInfo := if i.group = 18 then { i with d2 := tok } else i

/-- The whole issuing set parks on a fault at the issuing word; lane `lead` met it and reports `pc`. -/
def Wave.parkFault (w : Wave) (tok : Word) (i : TrapInfo) (lead pc : Nat) : Wave :=
  { w.mapLanes (fun l f =>
      if f.inSet then
        f.parkOn w.cur (.fault tok (i.handed tok) (if l = lead then some pc else none))
      else f) with
    cur := none
    turnDone := true }

/-- A walk has failed: a module-tier unit that failed both reads under it is noted (22 R408). -/
def State.walkMet (s : State) (i : TrapInfo) (ctx page : Nat) : State :=
  if i.group = 4 then s.noteDead (s.walkReads ctx (page * 65536)) else s

/-- A fault of group 4 code 0x002 to 0x005, or of group 18 or 20, at the issuing word: a record with a
wait-table token goes to the steward and the set parks; with no free entry the word is held. -/
def State.stewardFault (s : State) (i : TrapInfo) (lane page : Nat) : Out :=
  let r := s.interest (dieOf s.core.num) s.wave.ctx page
  match r.2 with
  | none => s.hold
  | some tok =>
    let rec0 := s.recordOf (i.posted tok) (s.wave.fib lane).fibid s.wave.pc
    let s1 := (r.1.walkMet i s.wave.ctx page).postFor (dieOf s.core.num) s.wave.ctx tok rec0
    .next
      { s1 with
        wave := (s1.wave.tick s.wave.stallHere).parkFault tok i lane s.wave.pc
        fresh := s1.fresh + freshStride }

end Sys2Proof.Machine
end

