-- ==== Sys2Proof/Machine/Vat.lean ====
section
/-!
DEFINITION. Sys2Proof/Machine/Vat.lean: the Vats of groups with their granule tags (12 R249, 13 R279),
mapped regions (12 R268, R269), and the barrier objects that live in them, with the parked fibres that
test them again (14 R294 to R300).
-/

namespace Sys2Proof.Machine

open Sys2Proof

/-! ### Groups and Vat targets -/

/-- The group at a cluster position beside a group, as seen from a core (13 R277): the core's own
position names the own Vat. -/
def State.groupAt (s : State) (own : Option Nat) (core : Nat) (v : VatTarget) : Option Nat :=
  match own with
  | none => none
  | some gid =>
    match v with
    | .own => some gid
    | .pos p =>
      if core % 4 == p.toNat then some gid
      else
        let g := s.groupD gid
        let c := (s.launches.find? (fun x => x.id == g.launch)).getD {}
        if c.csize == 0 then none
        else
          (s.groups.find? (fun x =>
            x.launch == g.launch && x.g / c.csize == g.g / c.csize && x.g % c.csize == p.toNat)).map
              (fun x => x.id)

/-- The group whose Vat the issuing wave's target names. -/
def State.target (s : State) (v : VatTarget) : Option Nat :=
  s.groupAt s.wave.group s.core.num v

/-- The group that a wave's target names, from the core the wave stands on. -/
def State.targetOf (s : State) (w : Wave) (v : VatTarget) : Option Nat :=
  match w.group with
  | none => none
  | some gid => s.groupAt (some gid) (s.groupD gid).core v

/-- One byte of a Vat. -/
def Group.rdByte (g : Group) (off : Nat) : Byte := sget 0 g.vat off

/-- n bytes of a Vat. -/
def Group.rdBytes (g : Group) (off n : Nat) : List Byte := (List.range n).map (fun i => g.rdByte (off + i))

/-- n bytes of a Vat as a little-endian number. -/
def Group.rd (g : Group) (off n : Nat) : Nat := fromBytes (g.rdBytes off n)

/-- The tag of the 16-byte granule at an offset. -/
def Group.vtag (g : Group) (off : Nat) : Bool := sget false g.vtags (off / 16)

/-- The mapped region that holds an offset. -/
def Group.bindingAt (g : Group) (off : Nat) : Option Binding :=
  g.binds.find? (fun b => decide (b.off ≤ off) && decide (off < b.off + b.len))

/-- Marks the bytes written as dirty in the regions that hold them (12 R268). -/
def Binding.dirtied (b : Binding) (off n : Nat) : Binding :=
  { b with dirty := sortNats (b.dirty ++
      ((List.range n).map (fun i => off + i)).filter (fun a =>
        decide (b.off ≤ a) && decide (a < b.off + b.len))) }

/-- Clears the tags of the granules that bytes touch (13 R279). -/
def clearTags (tags : Flags) (off n : Nat) : Flags :=
  (List.range ((off + n + 15) / 16 - off / 16)).foldl (fun t i => sdel t (off / 16 + i)) tags

/-- Writes bytes of a Vat: their granules lose their tags, and their region marks them dirty where the group
itself writes them, `own` (12 R268). -/
def Group.wr (g : Group) (off : Nat) (bs : List Byte) (own : Bool := true) : Group :=
  { g with
    vat := putBytes g.vat off bs
    vtags := clearTags g.vtags off bs.length
    binds := if g.binds.isEmpty || !own then g.binds else g.binds.map (fun b => b.dirtied off bs.length) }

/-- Notes a wave's write: until an OFENCE of that wave an array command may use the bytes before it, each of them
where several such writes stand (06 R142). -/
def Group.noteWrite (g : Group) (off n wid : Nat) : Group :=
  let u : Unfenced := { off := off, olds := g.rdBytes off n, writer := some wid }
  if g.unfenced.contains u then g else { g with unfenced := u :: g.unfenced }

/-- Writes a capability with its tag (13 R278, R279). -/
def Group.wrCap (g : Group) (off : Nat) (q : Nat) (tag : Bool) : Group :=
  let g1 := g.wr off (bytesOf q 16)
  { g1 with vtags := sput false g1.vtags (off / 16) tag }

/-! ### Mapped regions (12 R268) -/

/-- The 256-byte granules of mapped regions that an access touches and that are not filled: the region's
offset and the granule's index in it. -/
def Group.unfilled (g : Group) (off n : Nat) : List (Nat × Nat) :=
  g.binds.flatMap (fun b =>
    if off + n ≤ b.off ∨ b.off + b.len ≤ off then []
    else
      let lo := (max off b.off - b.off) / 256
      let hi := (min (off + n) (b.off + b.len) - 1 - b.off) / 256
      ((List.range (hi + 1 - lo)).map (fun i => lo + i)).filterMap (fun k =>
        if b.filled.contains k then none else some (b.off, k)))

/-- The global address of a granule of a region. -/
def Group.granuleAddr (g : Group) (x : Nat × Nat) : Nat :=
  match g.binds.find? (fun b => b.off == x.1) with
  | some b => b.gaddr + 256 * x.2
  | none => 0

/-! ### Barrier objects (14 R294) -/

/-- The fields of a barrier object. -/
structure Bar where
  phase    : Nat := 0
  expected : Nat := 0
  arrivals : Nat := 0
  target   : Nat := 0
  landed   : Nat := 0
  broken   : Bool := false
  overrun  : Bool := false
  guardBit : Bool := false
  trapb    : Bool := false
  peer     : Bool := false
  deriving DecidableEq, Repr

/-- Reads an object from its 16 bytes. -/
def barOf (x : Nat) : Bar :=
  { phase := bits x 15 0, expected := bits x 31 16, arrivals := bits x 47 32,
    target := bits x 95 64, landed := bits x 127 96, broken := bit x 48, overrun := bit x 49,
    guardBit := bit x 50, trapb := bit x 51, peer := bit x 52 }

/-- The 16 bytes of an object; bits 63:53 are written as zero. -/
def Bar.pack (b : Bar) : Nat :=
  packFields [(0, 16, b.phase), (16, 16, b.expected), (32, 16, b.arrivals), (48, 1, b2n b.broken),
    (49, 1, b2n b.overrun), (50, 1, b2n b.guardBit), (51, 1, b2n b.trapb), (52, 1, b2n b.peer),
    (64, 32, b.target), (96, 32, b.landed)]

/-- The object at an offset. -/
def Group.bar (g : Group) (off : Nat) : Bar := barOf (g.rd off 16)

/-- The check for completion that follows every event (14 R295). -/
def Bar.complete (b : Bar) : Bar :=
  if !b.broken && b.arrivals == b.expected && b.landed == b.target then
    { b with phase := (b.phase + 1) % 65536, arrivals := 0, target := 0, landed := 0 }
  else b

/-- Overrun, truncation and completion after an event that changes counts (14 R295, R296). -/
def Bar.settle (b : Bar) : Bar :=
  let passed := decide (b.expected < b.arrivals) || decide (b.target < b.landed) ||
    decide (2 ^ 32 - 1 < b.target)
  { b with
    overrun := b.overrun || passed
    broken := b.broken || passed
    arrivals := b.arrivals % 2 ^ 16
    target := b.target % 2 ^ 32
    landed := b.landed % 2 ^ 32 }.complete

/-- What a test of a phase says (14 R300). -/
inductive BarTest where
  | pass | brokenTrap | brokenQuiet | wait
  deriving DecidableEq, Repr

/-- The test of a BWAIT. -/
def Bar.test (b : Bar) (ph : Nat) : BarTest :=
  let d := (b.phase + 65536 - ph % 65536) % 65536
  if 1 ≤ d ∧ d ≤ 32767 then .pass
  else if b.broken then (if b.trapb then .brokenTrap else .brokenQuiet)
  else .wait

/-- What a BWAIT that issues finds: its test, and where that would wait, the test of its object as the check for
completion after the BWAIT leaves it (14 R295, R300). -/
def Bar.verdict (b : Bar) (ph : Nat) : BarTest :=
  match b.test ph with
  | .wait => b.complete.test ph
  | .pass => .pass
  | .brokenTrap => .brokenTrap
  | .brokenQuiet => .brokenQuiet

/-- The Vat target of a capability field (03 R72). -/
def fieldTarget (c : Num4) : VatTarget :=
  if c.toNat = 8 then .own else .pos (BitVec.ofNat 2 c.toNat)

/-- The capability field of a Vat target. -/
def targetField (v : VatTarget) : Num4 :=
  match v with
  | .own => 8
  | .pos p => BitVec.ofNat 4 p.toNat

/-- The position of a failed group in the cluster of a group, for a detail of group 11 (20 R374). -/
def State.failedPos (s : State) (gid : Nat) : Nat :=
  let g := s.groupD gid
  let c := (s.launches.find? (fun x => x.id == g.launch)).getD {}
  match s.groups.find? (fun x =>
      x.launch == g.launch && c.csize != 0 && x.g / c.csize == g.g / c.csize && x.failed) with
  | some x => x.g % max c.csize 1
  | none => 0

/-- The trap of a BWAIT that meets a broken object (14 R300, 20 R374). -/
def State.brokenTrap (s : State) (gid off : Nat) (field : Num4) (core : Nat) : TrapInfo :=
  let g := s.groupD gid
  let x := g.rd off 8
  if (g.bar off).peer then
    { group := 11, code := 0x002,
      d0 := w32 ((if field.toNat = 8 then core % 4 else field.toNat) + s.failedPos gid * 16),
      d1 := w32 off }
  else
    { group := 10, code := 0x001, d0 := w32 x, d1 := w32 (x / 2 ^ 32),
      d2 := w32 (off % 2 ^ 19 + field.toNat * 2 ^ 19) }

/-- A parked fibre returns and continues at the word after the one it parked at (14 R300, 18 R331). -/
def Fibre.unpark (f : Fibre) : Fibre :=
  { (f.advance f.clause) with run := .running, park := .none, inSet := false }

/-- A parked fibre returns to issue its word again, or to take a trap there. -/
def Fibre.reissue (f : Fibre) (t : Option (TrapInfo × Option Nat)) : Fibre :=
  { f with run := .running, park := .none, wakeTrap := t }

/-- Tests again the fibres of a wave that are parked on an object. `quiet` is the P14 that a BINIT gives
every one of them. -/
def State.retestFibre (s : State) (gid off : Nat) (init : Bool) (w : Wave) (f : Fibre) : Fibre :=
  match f.park with
  | .barrier field o ph _ _ =>
    if o == off && s.targetOf w (fieldTarget field) == some gid then
      if init then (f.setPred 14 false).unpark
      else
        match ((s.groupD gid).bar off).test ph with
        | .pass => (f.setPred 14 true).unpark
        | .brokenQuiet => (f.setPred 14 false).unpark
        | .brokenTrap =>
          f.reissue (some (s.brokenTrap gid off field
            (match w.group with
              | some x => (s.groupD x).core
              | none => 0), none))
        | .wait => f
    else f
  | .none => f
  | .wait _ => f
  | .fault .. => f

/-- Whether a wave has a parked fibre. -/
def Wave.hasParked (w : Wave) : Bool := w.lanes.any (fun f => decide (f.run = .parked))

/-- Changes every wave, resident or saved in an image. -/
def State.onAllWaves (s : State) (f : Wave → Wave) : State :=
  let s1 := s.onWaves f
  { s1 with contexts := s1.contexts.map (fun c =>
      { c with images := c.images.map (fun i => { i with waves := i.waves.map f }) }) }

/-- The phases on which fibres of a wave that are parked on an object pass its test. -/
def State.passing (s : State) (gid off : Nat) (w : Wave) : List Nat :=
  w.lanes.filterMap (fun f =>
    match f.park with
    | .barrier field o ph _ _ =>
      if o == off && s.targetOf w (fieldTarget field) == some gid &&
          ((s.groupD gid).bar off).test ph == .pass then some ph else none
    | .none => none
    | .wait _ => none
    | .fault .. => none)

/-- A wave's BWAIT has returned for a phase: the bytes that the decanter landed for it count as waited on
(06 R142). -/
def State.markWaited (s : State) (gid off wid ph : Nat) : State :=
  s.onGroup gid (fun g =>
    { g with
      unfenced := g.unfenced.map (fun u =>
        if u.writer.isNone && u.bar == off && decide ((ph + 65536 - u.phase) % 65536 ≤ 32767) then
          { u with waited := wid :: u.waited }
        else u) })

/-- Whether a fibre leads the set that a BWAIT parked. -/
def Fibre.leads (f : Fibre) : Bool :=
  match f.park with
  | .barrier _ _ _ _ lead => lead
  | .none => false
  | .wait _ => false
  | .fault .. => false

/-- A wave whose fibres parked on an object test again. A BWAIT retired when it parked; one that now traps does not
count as retired (10 R231). -/
def State.retestWave (s : State) (gid off : Nat) (init : Bool) (w : Wave) : Wave :=
  let traps := BitVec.ofNat 64 (w.lanes.countP (fun f =>
    f.leads && f.wakeTrap.isNone && (s.retestFibre gid off init w f).wakeTrap.isSome))
  { w.mapLanes (fun _ f => s.retestFibre gid off init w f) with
    retcnt := w.retcnt - traps, retseen := w.retseen - traps }

/-- Tests again every fibre parked on an object. -/
def State.retest (s : State) (gid off : Nat) (init : Bool) : State :=
  let returns := if init then []
    else s.allWaves.flatMap (fun w => (s.passing gid off w).map (fun ph => (w.wid, ph)))
  let s1 := returns.foldl (fun s x => s.markWaited gid off x.1 x.2) s
  s1.onAllWaves (fun w => if w.hasParked then s.retestWave gid off init w else w)

/-- The check for completion after a barrier instruction that changes no count (14 R295, R298). -/
def State.barCheck (s : State) (gid off : Nat) (own : Bool := true) : State :=
  let b := (s.groupD gid).bar off
  if b.complete == b then s
  else (s.onGroup gid (fun g => g.wr off (bytesOf b.complete.pack 16) own)).retest gid off false

/-- An event on a barrier object: its counts change, it may overrun or complete, and the fibres parked
on it test again (14 R295, R300). -/
def State.barEvent (s : State) (gid off : Nat) (f : Bar → Bar) (own : Bool := true) : State :=
  (s.onGroup gid (fun g => g.wr off (bytesOf ((f (g.bar off)).settle.pack) 16) own)).retest gid off false

/-- Breaks an object (14 R305, R297): no completion is checked for a phase that is broken. -/
def State.breakBar (s : State) (gid off : Nat) (peer : Bool) (own : Bool := true) : State :=
  (s.onGroup gid (fun g =>
    let b := g.bar off
    let b1 : Bar := { b with broken := true, peer := b.peer || peer }
    g.wr off (bytesOf b1.pack 16) own)).retest gid off false

/-- The 16-byte objects that an access touches on which some fibre of a wave is parked. -/
def Wave.parkedObjects (s : State) (gid lo n : Nat) (w : Wave) : List Nat :=
  w.lanes.filterMap (fun f =>
    match f.park with
    | .barrier field o _ _ _ =>
      if decide (o < lo + n) && decide (lo < o + 16) && s.targetOf w (fieldTarget field) == some gid
      then some o else none
    | .none => none
    | .wait _ => none
    | .fault .. => none)

/-- Bytes of a group's Vat have been written plainly: parked BWAITs on them test again (14 R298). -/
def State.retestBytes (s : State) (gid off n : Nat) : State :=
  (sortNats (s.allWaves.flatMap (fun w => w.parkedObjects s gid off n))).foldl
    (fun t o => t.retest gid o false) s

/-- Writes bytes of a group's Vat as a plain write. -/
def State.vatWrite (s : State) (gid off : Nat) (bs : List Byte) (own : Bool := true) : State :=
  (s.onGroup gid (fun g => g.wr off bs own)).retestBytes gid off bs.length

/-! ### Fills (12 R268) -/

/-- The bytes at virtual addresses of a context, each run within one page; none where one does not translate. -/
def State.runBytes (s : State) (ctx : Nat) : List (Nat × Nat) → Option (List Byte)
  | [] => some []
  | x :: xs =>
    match s.translate ctx x.1 .read, s.runBytes ctx xs with
    | .ok p, some r => some (s.rdBytes p x.2 ++ r)
    | _, _ => none

/-- A granule of a region with its global bytes in it; bytes that the group has written stay (log 38). -/
def Group.filledWith (g : Group) (x : Nat × Nat) (bs : List Byte) : Group :=
  let off := x.1 + 256 * x.2
  let dirty := (g.bindingAt off).elim [] (fun b => b.dirty)
  { g with
    vat := putBytes g.vat off (bs.mapIdx (fun i b => if dirty.contains (off + i) then g.rdByte (off + i) else b))
    vtags := clearTags g.vtags off 256
    binds := updateWhere (fun b => b.off == x.1)
      (fun b => { b with filled := sortNats (x.2 :: b.filled) }) g.binds }

/-- Fills a granule whose global bytes translate, as plain loads on behalf of the touching fibre: the fill is a
write of the Vat, so parked BWAITs on its bytes test again (13 R279, 14 R298). -/
def State.fillGranule (s : State) (gid : Nat) (x : Nat × Nat) : State :=
  let ctx := (s.groupD gid).ctx
  let parts := pageParts ((s.groupD gid).granuleAddr x) 256
  match s.runBytes ctx parts with
  | none => s
  | some bs =>
    let s1 := parts.foldl (fun s y => (s.noteRetry ctx y.1).install ctx y.1) s
    (s1.onGroup gid (fun g => g.filledWith x bs)).retestBytes gid (x.1 + 256 * x.2) 256

/-- Fills granules in order. -/
def State.fillGranules (s : State) (gid : Nat) (xs : List (Nat × Nat)) : State :=
  xs.foldl (fun s x => s.fillGranule gid x) s

/-! ### Waking a wait-table entry (18 R331, 20 R381) -/

/-- A fibre parked on a token returns: after PWAIT with P15, or to its faulting word. -/
def Fibre.wake (f : Fibre) (tok : Word) (ok : Bool) : Fibre :=
  match f.park with
  | .wait t => if t = tok then (f.setPred 15 ok).unpark else f
  | .fault t i lead => if t = tok then f.reissue (if ok then none else some (i, lead)) else f
  | .none => f
  | .barrier .. => f

/-- Whether a fibre is parked on a token by PWAIT, or is one of a set whose fault waits on it. -/
def Fibre.waitsOn (f : Fibre) (tok : Word) : Bool :=
  match f.park with
  | .wait t => decide (t = tok)
  | .fault t .. => decide (t = tok)
  | .none => false
  | .barrier .. => false

/-- How much interest a wave gives back when a token is woken: one for each PWAIT fibre, one for each set
parked on a fault, counted at the fibre that met it. -/
def Wave.waiters (w : Wave) (tok : Word) : Nat :=
  (w.lanes.filter (fun f =>
    match f.park with
    | .wait t => decide (t = tok)
    | .fault t _ lead => decide (t = tok) && lead.isSome
    | .none => false
    | .barrier .. => false)).length

/-- Wakes an entry with success or failure: its parked fibres return, their interest falls, and the
entry is freed when nothing is left (18 R331, R329). For a fibre of a saved wave the entry keeps the status, and the
fibre its interest, until the restore (21 R400). On failure the records posted for the entry stay unresolved (19 R354,
log 68). -/
def State.wakeEntry (s : State) (d : Nat) (e : WtEntry) (ok : Bool) : State :=
  let tok := tokenOf d e
  let n := (s.allWaves.map (fun w => w.waiters tok)).sum
  let s0 := if ok then s else e.records.foldl (fun s r => s.unresolved r.1 r.2) s
  let s1 := s0.onWait d e.idx (fun e =>
    { e with state := if ok then .succeeded else .failed, interest := e.interest - n, records := [] })
  let s2 := s1.onWaves (fun w =>
    if w.hasParked then w.mapLanes (fun _ f => f.wake tok ok) else w)
  s2.settleWait d e.idx

/-- Interest in the entry of a token is given back. -/
def State.giveToken (s : State) (ctx : Nat) (tok : Word) (n : Nat) : State :=
  match s.tokenEntry ctx tok with
  | none => s
  | some x =>
    (s.onWait x.1 x.2.idx (fun e => { e with interest := e.interest - n })).settleWait x.1 x.2.idx

/-- Wakes the entry of a page, if it has one. -/
def State.wakePage (s : State) (ctx page : Nat) (ok : Bool) : State :=
  match s.findWait ctx page with
  | some x => s.wakeEntry x.1 x.2 ok
  | none => s

end Sys2Proof.Machine
end

