-- ==== Sys2Proof/Machine/Access.lean ====
section
/-!
DEFINITION. Sys2Proof/Machine/Access.lean: the checks a memory word makes for every active fibre, in
the order of 13 R271, the stamps of checked regions (12 R264 to R266), and the issue of an access that
completes later (13 R273).
-/

namespace Sys2Proof.Machine

open Sys2Proof

/-! ### Capabilities (18 R337, R338) -/

/-- The base of a capability. -/
def capBase (q : Quad) : Nat := bits q.toNat 63 0
/-- The permissions of a capability. -/
def capPerm (q : Quad) : Nat := bits q.toNat 111 104
/-- The tensor identifier of a capability. -/
def capTid (q : Quad) : Nat := bits q.toNat 123 112
/-- Whether a capability names global memory. -/
def capGlobal (q : Quad) : Bool := bit q.toNat 111

/-- The length of a capability in every bounds check: 2^56 for the context capability (18 R337). -/
def capLen (q : Quad) : Nat :=
  if capGlobal q && capBase q == 0 && bits q.toNat 103 64 == 0 then 2 ^ 56 else bits q.toNat 103 64

/-- Permission masks. -/
def pLoad : Nat := 1
/-- Store. -/
def pStore : Nat := 2
/-- Load and store. -/
def pLoadStore : Nat := 3
/-- Execute-table. -/
def pTable : Nat := 4
/-- Engine. -/
def pEngine : Nat := 8
/-- Narrow. -/
def pNarrow : Nat := 64
/-- Global. -/
def pGlobal : Nat := 128

/-- A capability operand with its tag, quad number and file. -/
structure CapUse where
  cap : Quad
  tag : Bool
  num : Nat
  isQ : Bool := false

/-- The detail of cause group 5 (20 R374). -/
def CapUse.trap (c : CapUse) (code l o : Nat) : TrapInfo :=
  { group := 5, code := code, d0 := w32 (l % 256 + c.num % 16 * 256 + b2n c.isQ * 4096),
    d1 := w32 o, d2 := w32 (o / 2 ^ 32) }

/-- Checks 4 to 6 of 13 R271: tag, permissions, bounds. -/
def CapUse.check (c : CapUse) (need l o w : Nat) : Option TrapInfo :=
  if !c.tag then some (c.trap 1 l o)
  else if Nat.land (capPerm c.cap) need != need then some (c.trap 2 l o)
  else if capLen c.cap < o + w then some (c.trap 3 l o)
  else none

/-- The capability operand C`n` of the issuing wave for fibre `l`. -/
def State.capSFor (s : State) (l n : Nat) : CapUse :=
  { cap := s.readSQuadFor l n, tag := s.stagFor l n, num := n }

/-- The capability operand C`n` of a word that uses it once. -/
def State.capS (s : State) (n : Nat) : CapUse := s.capSFor 0 n

/-! ### How a check fails -/

/-- A failing check of one lane. -/
inductive Fail where
  /-- A precise trap. -/
  | trap (i : TrapInfo)
  /-- A record to the steward; the set parks (18 R328). -/
  | steward (i : TrapInfo) (page : Nat)
  /-- The page is moving: the set parks under the move's entry (22 R402). -/
  | moving (i : TrapInfo) (page : Nat)
  /-- A module-tier unit fails both reads (22 R409). -/
  | integrity (i : TrapInfo) (page : Nat)
  deriving Repr

/-- A register beyond the allocation (03 R52), as the first check of a table. -/
def Wave.rangeCheck (w : Wave) (u : Uses) (l : Nat) : Option Fail :=
  ((w.fib l).beyond (u.wv ++ u.rv)).map (fun n => .trap (rangeTrap w l n))

/-- A Vat access by a task fibre (09 R183). -/
def taskTrap (off : Nat) : TrapInfo := { group := 9, code := 0x003, d1 := w32 off }

/-- The alignment trap: code 0x001 for global memory, 0x002 for the Vat. -/
def alignTrap (code l a w : Nat) : TrapInfo :=
  { group := 7, code := code, d0 := w32 a, d1 := w32 (a / 2 ^ 32), d2 := w32 (l % 256 + w * 256) }

/-- The detail of cause group 12 for an operand that is not uniform. -/
def uniformTrap (l reg v : Nat) : TrapInfo :=
  { group := 12, code := 0x023, d0 := w32 (l % 256 + reg * 256), d1 := w32 v }

/-- A translation fault as the handler sees it (20 R374). -/
def transTrap (code l a : Nat) (acc : Access) : TrapInfo :=
  { group := 4, code := code, d0 := w32 a, d1 := w32 (a / 2 ^ 32),
    d2 := w32 (l % 256 + acc.code * 256) }

/-- A tier-integrity fault (20 R374). -/
def tierTrap (code a : Nat) : TrapInfo :=
  { group := 18, code := code, d0 := w32 a, d1 := w32 (a / 2 ^ 32) }

/-- Withdraws the leaf of a page, at whatever level it stands: not present, and dropped from every core and cluster
(22 R409). -/
def State.dropPage (s : State) (ctx page : Nat) : State :=
  let s1 := match s.pageEntry ctx page with
    | some a => if entV (s.rd a 8) then s.wrN a (s.rd a 8 / 2 * 2) 8 else s
    | none => s
  s1.flushPage ctx page

/-- A frame is given back to a die: it may be handed out again, whatever bytes it holds. -/
def State.freeFrame (s : State) (d frame : Nat) : State :=
  let s1 : State := { s with dies := s.dies.map (fun x =>
    (x.1, { x.2 with usedFrames := x.2.usedFrames.filter (fun f => f != frame) })) }
  s1.setDie d { s1.die d with freed := sortNats (frame :: (s1.die d).freed) }

/-- The move of a page is given up and its destination frame freed; the source frame is kept (22 R404, R409). -/
def State.endMove (s : State) (ctx page : Nat) : State :=
  match s.moves.find? (fun m => m.ctx == ctx && m.page == page) with
  | none => s
  | some m =>
    { s with moves := s.moves.filter (fun x => !(x.ctx == ctx && x.page == page)) }.freeFrame m.die m.dst

/-- The rest of the actions of 22 R409, once the TLBI of the page is complete: the move's destination, the record with
the token of the page's entry, the entry's failed wake. -/
def State.settleLoss (s : State) (x : Loss) : State :=
  let tok := x.tok.getD 0
  let s1 := (s.endMove x.ctx x.page).postSteward x.die { x.record with info := { x.info with d2 := tok } }
  let s2 := s1.wakePage x.ctx x.page false
  if x.tok.isSome then s2.giveToken x.ctx tok 1 else s2

/-- Completes the losses of pages to which no translated access is outstanding any longer (18 R334, 22 R409). -/
def State.settleLosses (s : State) : State :=
  s.losses.foldl (fun s x =>
    if s.rangeBusy x.lo x.n then s
    else State.settleLoss { s with losses := s.losses.filter (fun y => y != x) } x) s

/-- The actions of 22 R409 for a page, with the record's fibre and PC. The wait-table entry that the record names is
allocated where the page has none and the table has room (DESIGN CHOICE, log 27). -/
def State.pageLost (s : State) (ctx page : Nat) (i : TrapInfo) (r : FaultRecord) (d : Nat) : State :=
  let w := s.interest d ctx page
  let leaf := s.leafOf ctx (page * 65536)
  let x : Loss :=
    { ctx := ctx, page := page, die := d, tok := w.2, info := i, record := r
      lo := match leaf with
        | .ok y => entFrame y.ent
        | .error _ => 0
      n := match leaf with
        | .ok y => 2 ^ y.shift
        | .error _ => 0 }
  let s1 := (w.1.setPage ctx page .failed).dropPage ctx page
  State.settleLosses { s1 with losses := s1.losses ++ [x] }

/-- The unit at `p`, of a page, failed both reads: its event, and the actions of 22 R409. -/
def State.unitLost (s : State) (ctx page p : Nat) (i : TrapInfo) (r : FaultRecord) (d : Nat) : State :=
  ((s.unitEvent 6 ctx p).markBad p).pageLost ctx page i r d

/-- An access of a page met a unit that failed both reads (22 R408, R409). -/
def State.integrityFail (s : State) (ctx page : Nat) (i : TrapInfo) (r : FaultRecord) (d : Nat) :
    State :=
  match s.leafOf ctx (i.d0.toNat + i.d1.toNat * 2 ^ 32) with
  | .ok x => s.unitLost ctx page (x.phys (i.d0.toNat + i.d1.toNat * 2 ^ 32)) i r d
  | .error _ => s.pageLost ctx page i r d

/-- Takes the outcome of a failing check at the issuing word. -/
def State.raise (s : State) (l : Nat) (f : Fail) : Out :=
  match f with
  | .trap i => (if i.group = 19 then { s with refuseNext := none } else s).trapHere i l
  | .steward i page => s.stewardFault i l page
  | .moving i page =>
    let r := s.interest (dieOf s.core.num) s.wave.ctx page
    match r.2 with
    | none => s.hold
    | some tok =>
      .next
        { r.1 with
          wave := (r.1.wave.tick s.wave.stallHere).parkFault tok i l s.wave.pc
          fresh := r.1.fresh + freshStride }
  | .integrity i page =>
    let d := dieOf s.core.num
    let r := s.interest d s.wave.ctx page
    match r.2 with
    | none => s.hold
    | some tok =>
      .next (State.integrityFail
        { r.1 with
          wave := (r.1.wave.tick s.wave.stallHere).parkFault tok i l s.wave.pc
          fresh := r.1.fresh + freshStride }
        s.wave.ctx page i (s.recordOf i (s.wave.fib l).fibid s.wave.pc) d)

/-- The lowest active lane that fails a check, with how it fails. -/
def State.firstFail (s : State) (chk : Nat → Option Fail) : Option (Nat × Fail) :=
  s.wave.activeLanes.findSome? (fun l => (chk l).map (fun f => (l, f)))

/-- Continues when no active lane fails. -/
def State.guardAll (s : State) (chk : Nat → Option Fail) (k : State → Out) : Out :=
  match s.firstFail chk with
  | some x => s.raise x.1 x.2
  | none => k s

/-! ### Translation of a lane's address (13 R271 checks 10 and 12) -/

/-- Check 12 for one address. `nonres` says that non-residence is no failure (13 R275). -/
def State.transCheck (s : State) (l a : Nat) (acc : Access) (nonres : Bool) : Option Fail :=
  match s.translate s.wave.ctx a acc with
  | .ok p =>
    match acc with
    | .write => none
    | .probe => none
    | .read =>
      if s.unitFails p then some (.integrity (tierTrap 1 a) (a / 65536)) else none
    | .rmw =>
      if s.unitFails p then some (.integrity (tierTrap 1 a) (a / 65536)) else none
    | .fetch =>
      if s.unitFails p then some (.integrity (tierTrap 1 a) (a / 65536)) else none
  | .error 1 => some (.trap (transTrap 1 l a acc))
  | .error 2 =>
    if nonres then none
    else
      match s.pageState s.wave.ctx (a / 65536) with
      | .failed => some (.steward (tierTrap 2 a) (a / 65536))
      | .moving => some (.moving (transTrap 2 l a acc) (a / 65536))
      | .absent => some (.steward (transTrap 2 l a acc) (a / 65536))
      | .resident => some (.steward (transTrap 2 l a acc) (a / 65536))
  | .error c => some (.steward (transTrap c l a acc) (a / 65536))

/-- Check 12 for several addresses in order: the walk of each meets the cellar reservations that those before it
take (01 R13, 18 R323). -/
def State.transSeq (s : State) (l : Nat) (acc : Access) : List Nat → Option Fail
  | [] => none
  | a :: as => s.transCheck l a acc false <|> (s.reserve s.wave.ctx a).transSeq l acc as

/-- Check 10: an address with any of bits 63:56 set. -/
def topCheck (l a : Nat) (acc : Access) : Option Fail :=
  if 2 ^ 56 ≤ a then some (.trap (transTrap 1 l a acc)) else none

/-! ### Checked regions (12 R264, R265) -/

/-- The guard of the issuing wave: its group's, or in a cluster that of the cluster's group 0. -/
def State.guardGroup (s : State) : Option Nat :=
  match s.wave.group with
  | none => none
  | some gid =>
    let g := s.groupD gid
    let c := (s.launches.find? (fun x => x.id == g.launch)).getD {}
    if !c.chkd then none
    else
      let home :=
        if c.csize == 0 then some gid
        else
          (s.groups.find? (fun x =>
            x.launch == g.launch && x.g == g.g / c.csize * c.csize)).map (fun x => x.id)
      match home with
      | none => none
      | some h =>
        if (s.groupD h).guardOff.isSome && !(s.groupD h).finished then some h else none

/-- The stamp (guard, phase) that the issuing wave's accesses carry now. -/
def State.stampNow (s : State) : Option (Nat × Nat) :=
  match s.guardGroup with
  | none => none
  | some h =>
    let x := (s.groupD h).guardOff.getD (h, 0)
    some (h, ((s.groupD x.1).bar x.2).phase)

/-- One lane's access for the race check. -/
structure Touch where
  lane   : Nat
  space  : Space
  lo     : Nat
  n      : Nat
  write  : Bool
  atomic : Bool
  deriving DecidableEq, Repr

/-- The parts of an access by 32-byte granule of the shadow tags (12 R266); none of them crosses a page. -/
def Touch.parts (t : Touch) : List Touch :=
  (List.range ((t.lo + t.n + 31) / 32 - t.lo / 32)).map (fun i =>
    let lo := max t.lo (32 * (t.lo / 32 + i))
    { t with lo := lo, n := min (t.lo + t.n) (32 * (t.lo / 32 + i + 1)) - lo })

/-- Two accesses that race if different fibres make them (12 R265). -/
def Touch.conflicts (t : Touch) (lo n : Nat) (write atomic : Bool) : Bool :=
  decide (t.lo < lo + n) && decide (lo < t.lo + t.n) && (t.write || write) && !(t.atomic && atomic)

/-- The trap of a checked region (20 R374). -/
def stampTrap (code phase : Nat) (t : Touch) : TrapInfo :=
  { group := 6, code := code, d0 := w32 t.lo, d1 := w32 (t.lo / 2 ^ 32),
    d2 := w32 (phase % 65536 + t.lane % 256 * 65536 + (match t.space with
      | .global => 2 ^ 24
      | .vat _ => 0)) }

/-- Whether an access falls in a checked region. -/
def State.inChecked (s : State) (t : Touch) : Bool :=
  match t.space with
  | .vat _ => true
  | .global => s.checkedPage s.wave.ctx t.lo

/-- The stamps kept for the space of an access. -/
def State.stampsOf (s : State) (t : Touch) : List Stamp :=
  match t.space with
  | .vat gid => (s.groupD gid).stamps
  | .global => ((s.launches.find? (fun x => x.id == s.wave.launch)).getD {}).gstamps

/-- The guard that the page of a global address is bound to: by a launch of the context that is not complete,
whichever bound it first. -/
def State.pageGuard (s : State) (a : Nat) : Option Nat :=
  (s.launches.filter (fun c => c.ctx == s.wave.ctx && !c.complete)).findSome? (fun c =>
    (c.pages.find? (fun x => x.1 == s.pageOf s.wave.ctx a)).map (fun x => x.2))

/-- Check 11 for the part `t` of the access `a`, among the issue's accesses `all`. -/
def State.partCheck (s : State) (all : List Touch) (a t : Touch) : Option Fail :=
  match s.stampNow with
  | none => none
  | some st =>
    if !s.inChecked t then none
    else
      let fid := (s.wave.fib t.lane).fibid
      let other :=
        match t.space with
        | .global => match s.pageGuard t.lo with
          | some h => h != st.1
          | none => false
        | .vat _ => false
      let old := (s.stampsOf t).any (fun x =>
        x.guard == st.1 && x.phase == st.2 && !(x.fibid == fid && x.wave == s.wave.wid) &&
        t.conflicts x.lo x.n x.write x.atomic)
      let mate := all.any (fun y =>
        y.lane != t.lane && y.space == t.space && t.conflicts y.lo y.n y.write y.atomic)
      if other then some (.trap (stampTrap 2 st.2 a))
      else if old || mate then some (.trap (stampTrap 1 st.2 a))
      else none

/-- Check 11 for one lane's access, granule by granule. -/
def State.stampCheck (s : State) (all : List Touch) (t : Touch) : Option Fail :=
  t.parts.findSome? (fun x => s.partCheck all t x)

/-- A stamp joins the records, each of one 32-byte granule: a record of its granule with another guard or phase is
discarded (12 R266). -/
def stampAdd (x : Stamp) (xs : List Stamp) : List Stamp :=
  x :: xs.filter (fun y => (y.guard == x.guard && y.phase == x.phase) || y.lo / 32 != x.lo / 32)

/-- Records the stamps of an issue whose checks have all passed. -/
def State.recordStamps (s : State) (all : List Touch) : State :=
  match s.stampNow with
  | none => s
  | some st =>
    (all.flatMap Touch.parts).foldl (fun s t =>
      if !s.inChecked t then s
      else
        let x : Stamp :=
          { guard := st.1, phase := st.2, fibid := (s.wave.fib t.lane).fibid, wave := s.wave.wid,
            lo := t.lo, n := t.n, write := t.write, atomic := t.atomic }
        match t.space with
        | .vat gid => s.onGroup gid (fun g => { g with stamps := stampAdd x g.stamps })
        | .global =>
          s.onLaunch s.wave.launch (fun c =>
            { c with
              gstamps := stampAdd x c.gstamps
              pages := if (s.pageGuard t.lo).isSome then c.pages
                else c.pages ++ [(s.pageOf s.wave.ctx t.lo, st.1)] })) s

/-! ### Vat addresses (13 R271 checks 2, 7 to 9) -/

/-- The trap of a cluster position that holds no group. -/
def positionTrap (p off : Nat) : TrapInfo := { group := 11, code := 0x001, d0 := w32 p, d1 := w32 off }

/-- Boot step 8 was skipped: the device stands alone (19 R367). -/
def Mgmt.standalone (m : Mgmt) : Bool := m.paths.getD 7 0 == 2

/-- The code with which the home of a physical address refuses an access: a device that has left the domain or that a
standalone device cannot reach (19 R358, R367), the module tier when boot step 6 was skipped (18 R423), or a
module-tier unit that does not verify, of which no byte is read and into which none is merged (22 R407, R408). -/
def State.refusedAt (s : State) (p : Nat) : Option Nat :=
  if deviceOf p != s.mgmt.devno then
    if s.mgmt.left.contains (deviceOf p) || s.mgmt.standalone then some 0x001 else none
  else if isModule (localOf p) && !s.mgmt.tier1 then some 0x001
  else if s.unitFails p then some 0x002
  else none

/-- The detail of cause group 19 (20 R374); the width field of a whole-granule access, 256 bytes, reads 0. -/
def refusalInfo (code : Nat) (q : LaneReq) (w : Nat) (retired : Bool) : TrapInfo :=
  { group := 19, code := code, d0 := w32 q.virt, d1 := w32 (q.virt / 2 ^ 32),
    d2 := w32 (q.lane % 256 + w % 256 * 256 + b2n retired * 65536) }

/-- The code of a refusal (20 R374, R385). -/
def refusalCode (why : RefusalKind) : Nat :=
  match why with
  | .refused => 0x001
  | .uncorrectable => 0x002
  | .link => 0x004

/-- The code with which a transfer that is no outstanding access fails at its home: a fill, a table or descriptor
read, a metadata load, a write-back at a group's end (19 R357, 20 R385, log 59). -/
def State.transferFails (s : State) (p : Nat) : Option Nat := (s.refusedAt p).or (s.refuseNext.map refusalCode)

/-- The transfer that was to fail has failed. -/
def State.homeOpen (s : State) : State := { s with refuseNext := none }

/-- The refusal, at its home, of a load of n bytes that is made at issue, as a precise trap of the instruction
(DEDUCED, logs 34 and 38): a fill's fault is precise whatever its kind (12 R268), and so is that of a descriptor. -/
def State.readRefused (s : State) (l a n : Nat) : Option Fail :=
  match s.translate s.wave.ctx a .read with
  | .error _ => none
  | .ok p => (s.transferFails p).map (fun c =>
      Fail.trap (refusalInfo c { lane := l, virt := a } n false))

/-- What a fill touches: global bytes of one page. -/
def fillTouch (l : Nat) (x : Nat × Nat) : Touch :=
  { lane := l, space := .global, lo := x.1, n := x.2, write := false, atomic := false }

/-- The first fill that fails, each a plain load with its checks 10 to 12, and each taking its cellar reservation
before the next (12 R268, R265, 13 R271). Fills for an engine are not stamped (12 R264). -/
def State.fillGo (s : State) (eng : Bool) (l : Nat) : List (Nat × Nat) → Option Fail
  | [] => none
  | x :: xs =>
    topCheck l x.1 .read
    <|> (if eng then none else s.stampCheck [] (fillTouch l x))
    <|> s.transCheck l x.1 .read false
    <|> s.readRefused l x.1 256
    <|> (s.reserve s.wave.ctx x.1).fillGo eng l xs

/-- The global bytes of the granules that an access would fill, by page. -/
def State.fillAddrs (s : State) (gid off n : Nat) : List (Nat × Nat) :=
  ((s.groupD gid).unfilled off n).flatMap (fun x => pageParts ((s.groupD gid).granuleAddr x) 256)

/-- The loads of the fills that accesses of a Vat ask for: a granule is filled on behalf of the lowest lane that
touches it (12 R268). -/
def State.fillTouches (s : State) (gid : Nat) (all : List Touch) : List Touch :=
  all.foldl (fun acc t => acc ++ ((s.fillAddrs gid t.lo t.n).filter (fun x =>
    acc.all (fun y => y.lo != x.1))).map (fillTouch t.lane)) []

/-- The fault of a fill on behalf of a lane, among the accesses `all` of an issue: the fills for the lanes below
take their cellar reservations first. -/
def State.fillCheck (s : State) (gid l : Nat) (all : List Touch) : Option Fail :=
  let fills := s.fillTouches gid all
  (s.reserveAll s.wave.ctx ((fills.filter (fun t => decide (t.lane < l))).map (fun t => t.lo))).fillGo false l
    ((fills.filter (fun t => t.lane == l)).map (fun t => (t.lo, t.n)))

/-- The fault of a granule that an engine's work for a lane would fill (13 R290). -/
def State.engFillCheck (s : State) (gid l off n : Nat) : Option Fail :=
  s.fillGo true l (s.fillAddrs gid off n)

/-- Checks 7 to 9 for a Vat access. -/
def State.vatCheck (s : State) (v : VatTarget) (l off n align : Nat) : Option Fail :=
  if off % align ≠ 0 then some (.trap (alignTrap 2 l off align))
  else
    match s.target v with
    | none =>
      some (.trap (positionTrap (match v with
        | .own => s.core.num % 4
        | .pos p => p.toNat) 0))
    | some gid =>
      if (s.groupD gid).size < off + n then
        some (.trap { group := 9, code := 0x003, d1 := w32 off })
      else none

/-! ### Accesses that are not yet performed (12 R252, R257, R259, R261) -/

/-- Whether an access of some active fibre is outstanding. -/
def Wave.busyLanes (w : Wave) : Bool :=
  w.outst.any (fun o => o.reqs.any (fun r => (w.fib r.lane).active))

/-- Whether an array command writes the Vat: a RANK that makes a packet, and LSUM. -/
def ArrayOp.vatWrites : ArrayOp → Bool
  | .rank ctl .. => bit ctl.toNat 19
  | .lsum _ => true
  | .ldstat .. => false | .swap => false | .mma .. => false | .mmar .. => false | .unrank .. => false
  | .attld .. => false | .relset .. => false | .lblset _ => false | .ltest .. => false | .mld .. => false

/-- Whether an array command is a load, as MLD is (20 R385). -/
def ArrayOp.isLoad : ArrayOp → Bool
  | .mld .. => true
  | .ldstat .. => false | .swap => false | .mma .. => false | .mmar .. => false | .rank .. => false
  | .unrank .. => false | .attld .. => false | .relset .. => false | .lblset _ => false | .lsum _ => false
  | .ltest .. => false

/-- Whether a tile-port command writes the Vat. -/
def TileOp.vatWrites : TileOp → Bool
  | .movVat .. => true
  | .movV .. => false | .rowMax .. => false | .rowSum .. => false | .rescale .. => false | .norm .. => false

/-- Whether an engine of the core holds an unfinished load that a wave issued before a time for one of some lanes:
that of an MLD, or those of a merge (12 R252, 14 R313). -/
def Core.loadBefore (k : Core) (wid stamp : Nat) (lane : Nat → Bool) : Bool :=
  k.arrayQ.any (fun c =>
    c.wid == wid && c.follow.isNone && c.op.isLoad && decide (c.stamp < stamp) && lane c.lane) ||
  k.blendQ.any (fun c => c.wid == wid && decide (c.stamp < stamp) && lane c.lane)

/-- Whether an engine of the core holds an unfinished Vat write of that kind: of a RANK, LSUM or TMOV.vat, or those
of a merge. -/
def Core.writeBefore (k : Core) (wid stamp : Nat) (lane : Nat → Bool) : Bool :=
  k.arrayQ.any (fun c =>
    c.wid == wid && c.follow.isNone && c.op.vatWrites && decide (c.stamp < stamp) && lane c.lane) ||
  k.tileQ.any (fun c => c.wid == wid && c.op.vatWrites && decide (c.stamp < stamp) && lane c.lane) ||
  k.blendQ.any (fun c => c.wid == wid && decide (c.stamp < stamp) && lane c.lane)

/-- Whether an engine of the core holds an unfinished access that a wave issued before a time for one of some
lanes: an access of an engine is one of the fibre that started it (12 R252). The decanter's writes are ordered
by their barrier alone (12 R263). -/
def Core.engBefore (k : Core) (wid stamp : Nat) (lane : Nat → Bool) : Bool :=
  k.loadBefore wid stamp lane || k.writeBefore wid stamp lane

/-- Whether an access reads a value. -/
def MemKind.loads : MemKind → Bool
  | .load _ => true | .loadNr _ => true | .loadS => true | .loadCap => true | .atom .. => true
  | .kvalloc => true | .kvset => true | .barr => true | .btest => true
  | .store => false | .storeCap => false | .vmap => false | .vsync .. => false | .preq => false
  | .pcancel => false | .promo => false | .cflush => false | .binit => false | .bexp => false

/-- Whether two accesses share a lane. -/
def MemOp.sharesLane (x y : MemOp) : Bool :=
  x.reqs.any (fun a => y.reqs.any (fun b => a.lane == b.lane))

/-- Whether two accesses of one fibre touch a common byte of one space. -/
def MemOp.overlaps (x y : MemOp) : Bool :=
  decide (x.space = y.space) &&
  x.reqs.any (fun a => y.reqs.any (fun b =>
    a.lane == b.lane && decide (a.phys < b.phys + y.w) && decide (b.phys < a.phys + x.w)))

/-- The object of a barrier access: its Vat and its offset. -/
def MemOp.object (o : MemOp) : Nat × Nat :=
  ((match o.space with
    | .vat gid => gid
    | .global => 0), (o.reqs.headD {}).virt)

/-- Whether an access writes mapped bytes back to global memory. -/
def MemKind.writesBack : MemKind → Bool
  | .vsync .. => true
  | .load _ => false | .loadNr _ => false | .loadS => false | .loadCap => false | .store => false
  | .storeCap => false | .atom .. => false | .vmap => false | .preq => false | .pcancel => false
  | .promo => false | .cflush => false | .kvalloc => false | .kvset => false | .binit => false
  | .barr => false | .bexp => false | .btest => false

/-- Whether an earlier access must be performed before a later one: acquires and releases (12 R261, 13 R280),
a load before a store (12 R259), accesses of common bytes, everything after a write-back, and the requests of
the collector in issue order (13 R287). -/
def MemOp.before (x y : MemOp) : Bool :=
  x.sharesLane y &&
  (x.acquire || y.release || (x.kind.loads && y.kind.stores) || x.overlaps y || x.kind.writesBack ||
    (x.gather && y.gather))

/-- Whether the k-th outstanding access may be performed now. -/
def Wave.mayPerform (w : Wave) (k : Nat) : Bool :=
  match w.outst[k]? with
  | none => false
  | some o => (w.outst.take k).all (fun x => !x.before o)

/-- Whether an access is one of a Vat. -/
def Space.isVat : Space → Bool
  | .vat _ => true
  | .global => false

/-- Whether the engines' unfinished accesses of its fibres hold an access back: a release follows all of them, a
store follows a load, and an access of a Vat follows their Vat writes (12 R252, R257, R259, R261). -/
def Core.holdsBack (c : Core) (wid : Nat) (o : MemOp) : Bool :=
  let lane (l : Nat) : Bool := o.reqs.any (fun q => q.lane == l)
  if o.release then c.engBefore wid o.stamp lane
  else (o.kind.stores && c.loadBefore wid o.stamp lane) || (o.space.isVat && c.writeBefore wid o.stamp lane)

/-- Whether the k-th outstanding access of the issuing wave may be performed now. -/
def State.mayPerform (s : State) (k : Nat) : Bool :=
  s.wave.mayPerform k &&
  (match s.wave.outst[k]? with
    | none => false
    | some o => !s.core.holdsBack s.wave.wid o)

/-- Whether an access made at issue must wait for earlier accesses of its fibres (12 R252, R257, 13 R280). -/
def State.mustFollow (s : State) (o : MemOp) : Bool :=
  s.wave.outst.any (fun x => x.before o) || s.core.holdsBack s.wave.wid { o with stamp := s.fresh }

/-- Whether some access of an active fibre, its own or an engine's, is not yet performed. -/
def State.accessBusy (s : State) : Bool :=
  s.wave.busyLanes || s.core.engBefore s.wave.wid s.fresh (fun l => (s.wave.fib l).active)

/-! ### Issuing an access (13 R273) -/

/-- Installs the translations an issue used. -/
def State.installAll (s : State) (as : List Nat) : State :=
  as.foldl (fun s a => s.install s.wave.ctx a) s

/-- Reads at addresses of the wave's context: their translations are installed, and a module-tier unit that verifies
on its second read only leaves its event to post (22 R408). -/
def State.readAll (s : State) (as : List Nat) : State :=
  (as.foldl (fun s a => s.noteRetry s.wave.ctx a) s).installAll as

/-- The physical address of an access that has passed its checks; 0 where the page is not resident. -/
def State.physOf (s : State) (a : Nat) (acc : Access) : Nat :=
  match s.translate s.wave.ctx a acc with
  | .ok p => p
  | .error _ => 0

/-- The request collector holds lane requests until its window closes at 256 (13 R287). -/
def Core.collect (c : Core) (n : Nat) : Core :=
  { c with window := if 256 ≤ c.window + n then 0 else c.window + n }

/-- The access joins the wave's outstanding ones and signals its counter. -/
def Wave.addOp (w : Wave) (o : MemOp) : Wave :=
  let w1 := (w.supersede o.dests).incCtr o.ctr
  { w1 with outst := w1.outst ++ [o] }

/-- Fills the granules that accesses of a Vat touch. -/
def State.fillAll (s : State) (gid : Nat) (all : List Touch) : State :=
  all.foldl (fun (s : State) (t : Touch) => s.fillGranules gid ((s.groupD gid).unfilled t.lo t.n)) s

/-- Continues with the granules of some Vat accesses filled and the loads of their fills recorded. A fill is a
load of the touching fibre, made at once, so the word is held while an earlier access of an active fibre is not
yet performed (12 R257, R268, 13 R280). -/
def State.withFills (s : State) (gid : Nat) (all : List Touch) (k : State → Out) : Out :=
  let fills := s.fillTouches gid all
  if !fills.isEmpty && s.accessBusy then s.hold
  else k ((s.recordStamps fills).fillAll gid all)

/-- Whether engine work at its issue must wait to fill the granules it touches (ranges of a group's Vat). -/
def State.fillsHeld (s : State) (xs : List (Nat × Nat × Nat)) : Bool :=
  xs.any (fun x => !((s.groupD x.1).unfilled x.2.1 x.2.2).isEmpty) && s.accessBusy

/-- Fills the granules that engine work touches. -/
def State.engFillAll (s : State) (xs : List (Nat × Nat × Nat)) : State :=
  xs.foldl (fun s x => s.fillGranules x.1 ((s.groupD x.1).unfilled x.2.1 x.2.2)) s

/-- Continues with the granules that an engine's work touches at its issue filled; it waits as `withFills` does. -/
def State.withEngFills (s : State) (xs : List (Nat × Nat × Nat)) (k : State → Out) : Out :=
  if s.fillsHeld xs then s.hold else k (s.engFillAll xs)

/-- Issues an access whose checks have passed: its stamps are recorded, its translations installed or its
granules filled. -/
def State.issueOp (s : State) (st : Stall) (o : MemOp) (all : List Touch) : Out :=
  let go (s1 : State) : Out :=
    let s2 := s1.recordStamps all
    let s3 := if o.gather then s2.onCore (fun c => c.collect o.reqs.length) else s2
    (s3.onWave (fun w => w.addOp { o with stamp := s.fresh })).issue st
  match o.space with
  | .global =>
    let as := o.reqs.map LaneReq.virt
    go (if o.kind.reads then s.readAll as else s.installAll as)
  | .vat gid => s.withFills gid all go

/-- A memory word: with no active fibre it completes at issue (13 R273, 05 R125); otherwise its counter
must have room (02 R35). -/
def State.memWord (s : State) (st : Stall) (u : Uses) (ctr : Nat) (k : State → Out) : Out :=
  s.gateOpen u (fun s1 =>
    if !s1.wave.anyActive then s1.retire st
    else s1.withCtr ctr k)

/-- The data of a store or an atomic operand: a register or a pair. -/
def State.dataV (s : State) (l n w : Nat) : DWord :=
  if w = 8 then s.readV64 l n else BitVec.ofNat 64 (s.readV l n).toNat

/-- How many registers hold w bytes. -/
def regsOf (w : Nat) : Nat := if w ≤ 4 then 1 else w / 4

end Sys2Proof.Machine
end

