-- ==== Sys2Proof/Machine/MemWords.lean ====
section
/-!
DEFINITION. Sys2Proof/Machine/MemWords.lean: what the memory, atomic, gather, mapping and wait-table
words do at issue: majors 0x1B to 0x20, 0x22 and 0x23 but for MLD (13 R270 to R292, 18 R330 to R332,
22 R405, R414). What they do when they are performed stands in Machine/Complete.lean.
-/

namespace Sys2Proof.Machine

open Sys2Proof

/-! ### Words that address global memory through a C quad (13 R270) -/

/-- How a word uses global memory. -/
structure GlobalUse where
  kind    : MemKind
  w       : Nat
  sc      : Scope := .fibre
  ctr     : Nat
  need    : Nat
  acc     : Access
  write   : Bool := false
  atomic  : Bool := false
  nonres  : Bool := false
  acquire : Bool := false
  release : Bool := false
  nt      : Bool := false
  gather  : Bool := false

/-- A lane's part of a word: its capability and offset, its destination register in the allocation, and
its data. -/
structure LaneUse where
  cap   : CapUse
  off   : Nat
  dst   : Nat := 0
  data  : DWord := 0
  data2 : DWord := 0

/-- The address of a lane: base + o, computed exactly. -/
def LaneUse.addr (x : LaneUse) : Nat := capBase x.cap.cap + x.off

/-- What a lane touches, for the race check. -/
def LaneUse.touch (x : LaneUse) (g : GlobalUse) (l : Nat) : Touch :=
  { lane := l, space := .global, lo := x.addr, n := g.w, write := g.write, atomic := g.atomic }

/-- The checks of 13 R271 for a global access of one lane, from check 4 on. The pages of the lanes below take
their cellar reservation first (01 R13, 18 R323). -/
def State.globalChecks (s : State) (g : GlobalUse) (all : List Touch) (x : LaneUse) (l : Nat) :
    Option Fail :=
  (x.cap.check (g.need ||| pGlobal) l x.off g.w).map Fail.trap
  <|> (if x.addr % g.w ≠ 0 then some (.trap (alignTrap 1 l x.addr g.w)) else none)
  <|> topCheck l x.addr g.acc
  <|> s.stampCheck all (x.touch g l)
  <|> (s.reserveAll s.wave.ctx ((all.filter (fun t => decide (t.lane < l))).map (fun t => t.lo))).transCheck l
        x.addr g.acc g.nonres

/-- The request of a lane. -/
def State.laneReq (s : State) (acc : Access) (x : LaneUse) (l : Nat) : LaneReq :=
  { lane := l, virt := x.addr, phys := s.physOf x.addr acc, dst := x.dst,
    fibid := (s.wave.fib l).fibid, data := x.data, data2 := x.data2 }

/-- Issues a word that addresses global memory. `pre` holds the checks before check 4. -/
def State.globalWord (s : State) (st : Stall) (u : Uses) (g : GlobalUse)
    (pre : State → Nat → Option Fail) (use : State → Nat → LaneUse) : Out :=
  s.memWord st u g.ctr (fun s1 =>
    let all := s1.wave.activeLanes.map (fun l => (use s1 l).touch g l)
    s1.guardAll (fun l =>
      s1.wave.rangeCheck u l <|> pre s1 l <|> s1.globalChecks g all (use s1 l) l) (fun s2 =>
      s2.issueOp st
        { kind := g.kind, w := g.w, sc := g.sc, ctr := g.ctr, pc := s2.wave.pc,
          acquire := g.acquire, release := g.release, nt := g.nt, gather := g.gather,
          reqs := s2.wave.activeLanes.map (fun l => s2.laneReq g.acc (use s2 l) l) } all))

/-- No check before check 4. -/
def noPre (_ : State) (_ : Nat) : Option Fail := none

/-- The allocation register of V field n of a lane. -/
def Wave.areg (w : Wave) (l n : Nat) : Nat := (w.fib l).base + n

/-- A load through a C quad. -/
def State.loadC (s : State) (st : Stall) (g : GlobalUse) (d : Reg) (c : Num4) (x : Index)
    (wp : List Nat) : Out :=
  s.globalWord st
    (Uses.plus { wv := [(d.toNat, regsOf g.w)], wp := wp } (x.reads.plus (quadReads c.toNat)))
    g noPre (fun s1 l =>
      { cap := s1.capSFor l c.toNat, off := x.val s1 l, dst := s1.wave.areg l d.toNat })

/-- A store through a C quad. -/
def State.storeC (s : State) (st : Stall) (g : GlobalUse) (d : Reg) (c : Num4) (x : Index) : Out :=
  s.globalWord st
    (Uses.plus { rv := [(d.toNat, regsOf g.w)] } (x.reads.plus (quadReads c.toNat)))
    g noPre (fun s1 l =>
      { cap := s1.capSFor l c.toNat, off := x.val s1 l, data := s1.dataV l d.toNat g.w })

end Sys2Proof.Machine

namespace Sys2Proof

open Sys2Proof.Machine

/-- Bytes of an LD type (13 R274). -/
def LdType.bytes : LdType → Nat
  | .n8 => 1 | .i8 => 1 | .n16 => 2 | .i16 => 2 | .n32 => 4 | .n64 => 8

/-- Bytes of an LDNR type (13 R275). -/
def NrType.bytes : NrType → Nat
  | .n32 => 4 | .n64 => 8

/-- Bytes of an ST form (13 R276). -/
def StType.bytes : StType → Nat
  | .n8 => 1 | .n16 => 2 | .n32 => 4 | .n64 => 8 | .n32nt => 4 | .n64nt => 8

/-- Whether an ST form is non-temporal. -/
def StType.isNt : StType → Bool
  | .n8 => false | .n16 => false | .n32 => false | .n64 => false | .n32nt => true | .n64nt => true

/-- Bytes of an atomic type (13 R284). -/
def AtomType.bytes : AtomType → Nat
  | .i32 => 4 | .n32 => 4 | .i64 => 8 | .n64 => 8 | .f32 => 4

end Sys2Proof

namespace Sys2Proof.Machine

open Sys2Proof

/-- LD (13 R274). -/
def execLd (st : Stall) (t : LdType) (sc : Scope) (d : Reg) (c : Num4) (x : Index) (k : MCtr)
    (s : State) : Out :=
  s.loadC st
    { kind := .load t, w := t.bytes, sc := sc, ctr := k.toNat, need := pLoad, acc := .read } d c x []

/-- LDNR: non-residence is no failure and P15 says it (13 R275). -/
def execLdnr (st : Stall) (t : NrType) (sc : Scope) (d : Reg) (c : Num4) (x : Index) (k : MCtr)
    (s : State) : Out :=
  s.loadC st
    { kind := .loadNr t.bytes, w := t.bytes, sc := sc, ctr := k.toNat, need := pLoad, acc := .read,
      nonres := true } d c x [15]

/-- ST (13 R276). -/
def execStore (st : Stall) (t : StType) (sc : Scope) (d : Reg) (c : Num4) (x : Index) (k : MCtr)
    (s : State) : Out :=
  s.storeC st
    { kind := .store, w := t.bytes, sc := sc, ctr := k.toNat, need := pStore, acc := .write,
      write := true, nt := t.isNt } d c x

/-- LDA.n32: an atomic read and an acquire (13 R280). -/
def execLdaN32 (st : Stall) (sc : Scope) (d : Reg) (c : Num4) (x : Index) (k : MCtr)
    (s : State) : Out :=
  s.loadC st
    { kind := .load .n32, w := 4, sc := sc, ctr := k.toNat, need := pLoad, acc := .read,
      atomic := true, acquire := true } d c x []

/-- LDA.n64 (13 R280). -/
def execLdaN64 (st : Stall) (sc : Scope) (d : Reg) (c : Num4) (x : Index) (k : MCtr)
    (s : State) : Out :=
  s.loadC st
    { kind := .load .n64, w := 8, sc := sc, ctr := k.toNat, need := pLoad, acc := .read,
      atomic := true, acquire := true } d c x []

/-- STL.n32: an atomic write and a release (13 R280). -/
def execStlN32 (st : Stall) (sc : Scope) (d : Reg) (c : Num4) (x : Index) (k : MCtr)
    (s : State) : Out :=
  s.storeC st
    { kind := .store, w := 4, sc := sc, ctr := k.toNat, need := pStore, acc := .write,
      write := true, atomic := true, release := true } d c x

/-- STL.n64 (13 R280). -/
def execStlN64 (st : Stall) (sc : Scope) (d : Reg) (c : Num4) (x : Index) (k : MCtr)
    (s : State) : Out :=
  s.storeC st
    { kind := .store, w := 8, sc := sc, ctr := k.toNat, need := pStore, acc := .write,
      write := true, atomic := true, release := true } d c x

/-! ### Gather and scatter (13 R286) -/

/-- The capability operand Q`q` of a lane. -/
def State.capQ (s : State) (l q : Nat) : CapUse :=
  { cap := s.readVQuad l q, tag := s.vtag l q, num := q, isQ := true }

/-- Check 3: the quad, tag included, is equal in every active fibre. -/
def State.quadUniform (s : State) (q l : Nat) : Option Fail :=
  let x := s.capQ s.wave.lowest q
  let y := s.capQ l q
  if decide (x.cap = y.cap) && x.tag == y.tag then none
  else
    let i := ((List.range 4).find? (fun i => decide (quadWord x.cap i ≠ quadWord y.cap i))).getD 0
    some (.trap (uniformTrap l (4 * q + i) (quadWord y.cap i).toNat))

/-- The registers of a Q quad. -/
def vquadReads (q : Nat) : Uses := { rv := [(4 * q, 4)] }

/-- GATH: the offset is w times the element number (13 R286). -/
def State.gather (s : State) (st : Stall) (t : LdType) (sc : Scope) (d : Reg) (q : Num4) (x : Index)
    (k : MCtr) : Out :=
  s.globalWord st
    (Uses.plus { wv := [(d.toNat, regsOf t.bytes)] } (x.reads.plus (vquadReads q.toNat)))
    { kind := .load t, w := t.bytes, sc := sc, ctr := k.toNat, need := pLoad, acc := .read,
      gather := true }
    (fun s1 l => s1.quadUniform q.toNat l)
    (fun s1 l =>
      { cap := s1.capQ l q.toNat, off := t.bytes * x.val s1 l, dst := s1.wave.areg l d.toNat })

/-- SCAT (13 R286). -/
def State.scatter (s : State) (st : Stall) (w : Nat) (sc : Scope) (d : Reg) (q : Num4) (x : Index)
    (k : MCtr) : Out :=
  s.globalWord st
    (Uses.plus { rv := [(d.toNat, regsOf w)] } (x.reads.plus (vquadReads q.toNat)))
    { kind := .store, w := w, sc := sc, ctr := k.toNat, need := pStore, acc := .write,
      write := true, gather := true }
    (fun s1 l => s1.quadUniform q.toNat l)
    (fun s1 l =>
      { cap := s1.capQ l q.toNat, off := w * x.val s1 l, data := s1.dataV l d.toNat w })

/-- GATH.n32. -/
def execGathN32 (st : Stall) (sc : Scope) (d : Reg) (q : Num4) (x : Index) (k : MCtr)
    (s : State) : Out := s.gather st .n32 sc d q x k

/-- GATH.n64. -/
def execGathN64 (st : Stall) (sc : Scope) (d : Reg) (q : Num4) (x : Index) (k : MCtr)
    (s : State) : Out := s.gather st .n64 sc d q x k

/-- SCAT.n32. -/
def execScatN32 (st : Stall) (sc : Scope) (d : Reg) (q : Num4) (x : Index) (k : MCtr)
    (s : State) : Out := s.scatter st 4 sc d q x k

/-- SCAT.n64. -/
def execScatN64 (st : Stall) (sc : Scope) (d : Reg) (q : Num4) (x : Index) (k : MCtr)
    (s : State) : Out := s.scatter st 8 sc d q x k

/-! ### Vat accesses (13 R277, R278) -/

/-- Check 2: a Vat access by a task fibre. -/
def State.taskCheck (s : State) (off : Nat) : Option Fail :=
  if s.wave.group.isNone then some (.trap (taskTrap off)) else none

/-- How a word uses a Vat. -/
structure VatUse where
  kind  : MemKind
  w     : Nat
  ctr   : Nat
  write : Bool := false

/-- What a lane touches in a Vat. -/
def vatTouch (gid : Nat) (g : VatUse) (off l : Nat) : Touch :=
  { lane := l, space := .vat gid, lo := off, n := g.w, write := g.write, atomic := false }

/-- Issues a Vat access; `req` gives a lane's data. -/
def State.vatWord (s : State) (st : Stall) (u : Uses) (g : VatUse) (v : VatTarget)
    (lanes : State → List Nat) (off : State → Nat → Nat) (req : State → Nat → LaneReq) : Out :=
  s.memWord st u g.ctr (fun s1 =>
    let gid := (s1.target v).getD 0
    let all := (lanes s1).map (fun l => vatTouch gid g (off s1 l) l)
    s1.guardAll (fun l =>
      s1.wave.rangeCheck u l
      <|> s1.taskCheck (off s1 l)
      <|> s1.vatCheck v l (off s1 l) g.w g.w
      <|> s1.stampCheck all (vatTouch gid g (off s1 l) l)
      <|> s1.fillCheck gid l all) (fun s2 =>
      s2.issueOp st
        { kind := g.kind, space := .vat gid, w := g.w, ctr := g.ctr, pc := s2.wave.pc,
          reqs := (lanes s2).map (fun l =>
            { req s2 l with
              lane := l, virt := off s2 l, phys := off s2 l, fibid := (s2.wave.fib l).fibid }) }
        all))

/-- A load of V registers from a Vat. -/
def State.vatLoad (s : State) (st : Stall) (kind : MemKind) (w : Nat) (d : Reg) (v : VatTarget)
    (x : Index) (k : MCtr) : Out :=
  s.vatWord st (Uses.plus { wv := [(d.toNat, regsOf w)] } x.reads)
    { kind := kind, w := w, ctr := k.toNat } v (fun s1 => s1.wave.activeLanes)
    (fun s1 l => x.val s1 l) (fun s1 l => { dst := s1.wave.areg l d.toNat })

/-- A store of V registers to a Vat. -/
def State.vatStore (s : State) (st : Stall) (w : Nat) (d : Reg) (v : VatTarget) (x : Index)
    (k : MCtr) : Out :=
  s.vatWord st (Uses.plus { rv := [(d.toNat, regsOf w)] } x.reads)
    { kind := .store, w := w, ctr := k.toNat, write := true } v (fun s1 => s1.wave.activeLanes)
    (fun s1 l => x.val s1 l) (fun s1 l => { data := s1.dataV l d.toNat w })

/-- VLD.n32. -/
def execVldN32 (st : Stall) (d : Reg) (v : VatTarget) (x : Index) (k : MCtr) (s : State) : Out :=
  s.vatLoad st (.load .n32) 4 d v x k

/-- VLD.n64. -/
def execVldN64 (st : Stall) (d : Reg) (v : VatTarget) (x : Index) (k : MCtr) (s : State) : Out :=
  s.vatLoad st (.load .n64) 8 d v x k

/-- VLD.cap: 16 bytes and the granule's tag. -/
def execVldCap (st : Stall) (d : Reg) (v : VatTarget) (x : Index) (k : MCtr) (s : State) : Out :=
  s.vatLoad st .loadCap 16 d v x k

/-- VST.n32. -/
def execVstN32 (st : Stall) (d : Reg) (v : VatTarget) (x : Index) (k : MCtr) (s : State) : Out :=
  s.vatStore st 4 d v x k

/-- VST.n64. -/
def execVstN64 (st : Stall) (d : Reg) (v : VatTarget) (x : Index) (k : MCtr) (s : State) : Out :=
  s.vatStore st 8 d v x k

/-- VST.n8. -/
def execVstN8 (st : Stall) (d : Reg) (v : VatTarget) (x : Index) (k : MCtr) (s : State) : Out :=
  s.vatStore st 1 d v x k

/-- VST.cap: 16 bytes with the quad's tag. -/
def execVstCap (st : Stall) (d : Reg) (v : VatTarget) (x : Index) (k : MCtr) (s : State) : Out :=
  s.vatWord st (Uses.plus { rv := [(d.toNat, 4)] } x.reads)
    { kind := .storeCap, w := 16, ctr := k.toNat, write := true } v (fun s1 => s1.wave.activeLanes)
    (fun s1 l => x.val s1 l) (fun s1 l =>
      { data := s1.readV64 l d.toNat, data2 := s1.readV64 l (d.toNat + 2),
        tag := s1.vtag l (d.toNat / 4) })

/-- VLDS.n32: one word into an S register. -/
def execVldsN32 (st : Stall) (d : Reg) (v : VatTarget) (pair : BitVec 5) (k : MCtr)
    (s : State) : Out :=
  let x : Index := { isS := true, pair := pair }
  s.vatWord st (Uses.plus { ws := [d.toNat] } x.reads)
    { kind := .loadS, w := 4, ctr := k.toNat } v (fun s1 => [s1.wave.lowest])
    (fun s1 _ => x.val s1 0) (fun _ _ => { dst := d.toNat })

/-! ### Atomics (13 R284, R285) -/

/-- The registers that an atomic word reads and writes. -/
def atomUses (t : AtomType) (o : AtomOp) (ret : Bool) (d c : Nat) (pair : BitVec 5) : Uses :=
  let n := regsOf t.bytes
  Uses.plus
    { rv := [(d, if o = .cas then 2 * n else n), (2 * pair.toNat, 2)]
      wv := if ret then [(d, n)] else [] } (quadReads c)

/-- ATOM and ARED: through a global capability, or through one that names the own Vat. -/
def State.atomic (s : State) (st : Stall) (t : AtomType) (o : AtomOp) (ret : Bool) (sc : Scope)
    (d4 : Num4) (c : BitVec 3) (pair : BitVec 5) (k : MCtr) : Out :=
  let d := 4 * d4.toNat
  let w := t.bytes
  let x : Index := { isS := false, pair := pair }
  let g : GlobalUse :=
    { kind := .atom t o ret, w := w, sc := sc, ctr := k.toNat, need := pLoadStore, acc := .rmw,
      write := true, atomic := true, acquire := ret, release := true }
  let use (s1 : State) (l : Nat) : LaneUse :=
    { cap := s1.capSFor l c.toNat, off := x.val s1 l, dst := s1.wave.areg l d,
      data := s1.dataV l d w, data2 := s1.dataV l (d + regsOf w) w }
  s.memWord st (atomUses t o ret d c.toNat pair) k.toNat (fun s1 =>
    if capGlobal (s1.capSFor s1.wave.lowest c.toNat).cap then
      s1.globalWord st (atomUses t o ret d c.toNat pair) g noPre use
    else
      let gid := (s1.target .own).getD 0
      let all := s1.wave.activeLanes.map (fun l =>
        { (use s1 l).touch g l with space := .vat gid })
      s1.guardAll (fun l =>
        let y := use s1 l
        s1.wave.rangeCheck (atomUses t o ret d c.toNat pair) l
        <|> s1.taskCheck y.addr
        <|> (y.cap.check pLoadStore l y.off w).map Fail.trap
        <|> s1.vatCheck .own l y.addr w w
        <|> s1.stampCheck all { y.touch g l with space := .vat gid }
        <|> s1.fillCheck gid l all) (fun s2 =>
        s2.issueOp st
          { kind := .atom t o ret, space := .vat gid, w := w, sc := sc, ctr := k.toNat,
            pc := s2.wave.pc, acquire := ret, release := true,
            reqs := s2.wave.activeLanes.map (fun l =>
              { lane := l, virt := (use s2 l).addr, phys := (use s2 l).addr, dst := (use s2 l).dst,
                fibid := (s2.wave.fib l).fibid, data := (use s2 l).data,
                data2 := (use s2 l).data2 }) } all))

/-- ATOM (13 R284). -/
def execAtom (st : Stall) (t : AtomType) (o : AtomOp) (sc : Scope) (d4 : Num4) (c : BitVec 3)
    (pair : BitVec 5) (k : MCtr) (s : State) : Out := s.atomic st t o true sc d4 c pair k

/-- ARED: nothing is written back (13 R284). -/
def execAred (st : Stall) (t : AtomType) (o : AtomOp) (sc : Scope) (d4 : Num4) (c : BitVec 3)
    (pair : BitVec 5) (k : MCtr) (s : State) : Out := s.atomic st t o false sc d4 c pair k

/-! ### Fences (13 R281 to R283) -/

/-- A fence is held until the active fibres' earlier accesses are performed; then `f` happens. -/
def State.fenceWord (s : State) (st : Stall) (f : Core → Core) : Out :=
  s.gate {} (fun s1 =>
    if !s1.wave.anyActive then s1.retire st
    else if s1.accessBusy then s1.hold
    else (s1.onCore f).retire st)

/-- FENCE (13 R281). -/
def execFence (st : Stall) (_sc : Scope) (s : State) : Out := s.fenceWord st (fun c => c)

/-- IFENCE discards instruction-cache lines, decoded clauses and the BRX target cache (13 R282). -/
def execIfence (st : Stall) (_sc : Scope) (s : State) : Out :=
  s.fenceWord st (fun c => { c with icache := [], brx := [] })

/-- DFENCE discards the cached TDT entries and compander tables (13 R283). -/
def execDfence (st : Stall) (_sc : Scope) (s : State) : Out :=
  s.fenceWord st (fun c => { c with tdtCache := [] })

/-! ### Mapped regions (13 R288, R289) -/

/-- The binding a VMAP asks for. -/
structure MapUse where
  off : Nat
  len : Nat
  cap : CapUse
  o   : Nat

/-- The checks of VMAP, made once per issue. -/
def State.mapCheck (s : State) (m : MapUse) (l : Nat) : Option Fail :=
  let a := capBase m.cap.cap + m.o
  let g := s.groupD (s.wave.group.getD 0)
  s.taskCheck m.off
  <|> (m.cap.check (pLoadStore ||| pGlobal) l m.o m.len).map Fail.trap
  <|> (if m.off % 256 ≠ 0 ∨ m.len % 256 ≠ 0 ∨ m.len = 0 ∨ m.o % 256 ≠ 0 then
        some (.trap { group := 9, code := 0x002, d0 := w32 m.len, d1 := w32 m.off }) else none)
  <|> (if g.size < m.off + m.len then
        some (.trap { group := 9, code := 0x003, d0 := w32 m.len, d1 := w32 m.off }) else none)
  <|> topCheck l a .read
  <|> (if 8 ≤ g.binds.length ∨ g.binds.any (fun b =>
          decide (b.off < m.off + m.len) && decide (m.off < b.off + b.len)) then
        some (.trap { group := 9, code := 0x00B, d0 := w32 m.len, d1 := w32 m.off }) else none)

/-- VMAP adds a binding with every granule unfilled and clean (13 R288). It is held while an earlier access of an
active fibre is not yet performed, so that no earlier store falls in the new region. -/
def execVmap (st : Stall) (sc : Scope) (d : Reg) (c : Num4) (pair : BitVec 5) (k : MCtr)
    (s : State) : Out :=
  let x : Index := { isS := true, pair := pair }
  let u := Uses.plus { rs := [d.toNat, d.toNat + 1] } (x.reads.plus (quadReads c.toNat))
  s.memWord st u k.toNat (fun s1 =>
    let m : MapUse :=
      { off := (s1.readS d.toNat).toNat, len := (s1.readS (d.toNat + 1)).toNat,
        cap := s1.capS c.toNat, o := x.val s1 0 }
    let l := s1.wave.lowest
    match s1.mapCheck m l with
    | some f => s1.raise l f
    | none =>
      if s1.accessBusy then s1.hold else
      let gid := s1.wave.group.getD 0
      let b : Binding :=
        { off := m.off, len := m.len, gaddr := capBase m.cap.cap + m.o, sc := sc
          lane := l, slot := s1.wave.slot, fibid := (s1.wave.fib l).fibid, pc := s1.wave.pc }
      ((s1.onGroup gid (fun g => { g with binds := g.binds ++ [b] })).onWave (fun w =>
        w.addOp { kind := .vmap, space := .vat gid, sc := sc, ctr := k.toNat, pc := w.pc,
                  acquire := true, stamp := s1.fresh,
                  reqs := [{ lane := l, fibid := (w.fib l).fibid }] })).issue st)

/-- The dirty granules of a binding. -/
def Binding.dirtyGranules (b : Binding) : List Nat :=
  sortNats (b.dirty.map (fun a => (a - b.off) / 256))

/-- The runs of consecutive numbers in a rising list: the first number and the length. -/
def runsOf : List Nat → List (Nat × Nat)
  | [] => []
  | a :: as =>
    match runsOf as with
    | [] => [(a, 1)]
    | (b, n) :: rs => if b == a + 1 then (a, n + 1) :: rs else (a, 1) :: (b, n) :: rs

/-- What the write-back of a binding touches: plain stores of its dirty bytes (12 R269), by granule of the shadow
tags. -/
def Binding.backTouches (b : Binding) (l : Nat) : List Touch :=
  (runsOf (sortNats b.dirty)).flatMap (fun x => Touch.parts
    { lane := l, space := .global, lo := b.gaddr + (x.1 - b.off), n := x.2, write := true, atomic := false })

/-- The global bytes of the dirty granules, by page, where they hold a dirty byte: address and length. -/
def Binding.backParts (b : Binding) : List (Nat × Nat) :=
  (b.dirtyGranules.flatMap (fun i => pageParts (b.gaddr + 256 * i) 256)).filter (fun x =>
    b.dirty.any (fun a => decide (x.1 ≤ b.gaddr + (a - b.off)) && decide (b.gaddr + (a - b.off) < x.1 + x.2)))

/-- The first write-back that fails its checks 10 to 12. -/
def State.backGo (s : State) (all : List Touch) (l : Nat) : List (Nat × Nat) → Option Fail
  | [] => none
  | x :: xs =>
    topCheck l x.1 .write
    <|> (all.filter (fun t => decide (x.1 ≤ t.lo) && decide (t.lo < x.1 + x.2))).findSome? (fun t =>
          s.stampCheck [] t)
    <|> s.transCheck l x.1 .write false
    <|> (s.reserve s.wave.ctx x.1).backGo all l xs

/-- VSYNC and VUNMAP: the dirty bytes are written back when performed; a check that fails is taken here (12 R269,
13 R271, R289). The word is held while an earlier access of an active fibre is not yet performed, so that every
byte it wrote is in the region. -/
def State.syncWord (s : State) (st : Stall) (sc : Scope) (d : Reg) (k : MCtr) (drop : Bool) : Out :=
  s.memWord st { rs := [d.toNat] } k.toNat (fun s1 =>
    let l := s1.wave.lowest
    let off := (s1.readS d.toNat).toNat
    let gid := s1.wave.group.getD 0
    match s1.taskCheck off with
    | some f => s1.raise l f
    | none =>
      match (s1.groupD gid).binds.find? (fun b => b.off == off) with
      | none => s1.trapHere { group := 9, code := 0x00C, d1 := w32 off } l
      | some b =>
        if s1.accessBusy then s1.hold else
        let all := b.backTouches l
        match s1.backGo all l b.backParts with
        | some f => s1.raise l f
        | none =>
          let reqs := b.backParts.map (fun x =>
            { lane := l, virt := x.1, phys := s1.physOf x.1 .write, dst := x.2,
              fibid := (s1.wave.fib l).fibid : LaneReq })
          (((s1.recordStamps all).readAll (b.backParts.map (fun x => x.1))).onWave (fun w =>
            w.addOp { kind := .vsync off drop, space := .vat gid, w := 256, sc := sc, ctr := k.toNat,
                      pc := w.pc, release := true, stamp := s1.fresh,
                      reqs := if reqs.isEmpty then
                          [{ lane := l, dst := 2 ^ 32, fibid := (w.fib l).fibid }]
                        else reqs })).issue st)

/-- VSYNC (13 R289). -/
def execVsync (st : Stall) (sc : Scope) (d : Reg) (k : MCtr) (s : State) : Out :=
  s.syncWord st sc d k false

/-- VUNMAP (13 R289). -/
def execVunmap (st : Stall) (sc : Scope) (d : Reg) (k : MCtr) (s : State) : Out :=
  s.syncWord st sc d k true

/-! ### Non-resident pages (18 R330 to R332, 22 R405) -/

/-- PREQ (18 R330). -/
def execPreq (st : Stall) (d : Reg) (c : Num4) (x : Index) (k : MCtr) (s : State) : Out :=
  s.loadC st
    { kind := .preq, w := 1, ctr := k.toNat, need := pLoad, acc := .probe, nonres := true } d c x []

/-- PROMO (22 R405). -/
def execPromo (st : Stall) (d : Reg) (c : Num4) (x : Index) (k : MCtr) (s : State) : Out :=
  s.loadC st
    { kind := .promo, w := 1, ctr := k.toNat, need := pLoad, acc := .probe, nonres := true } d c x []

/-- What PWAIT does to a fibre: it continues with P15, or parks (18 R331). -/
inductive WaitOutcome where
  | go (p15 : Bool) (live : Bool)
  | park
  deriving DecidableEq, Repr

/-- The outcome of a token (18 R331). -/
def State.waitOutcome (s : State) (tok : Word) : WaitOutcome :=
  if tok = 0 then .go true false
  else
    match s.tokenEntry s.wave.ctx tok with
    | none => .go false false
    | some x =>
      match x.2.state with
      | .succeeded => .go true true
      | .failed => .go false true
      | .pending => .park

/-- Lowers the interest of a live entry by one (18 R331, R332). -/
def State.lowerInterest (s : State) (tok : Word) : State :=
  match s.tokenEntry s.wave.ctx tok with
  | none => s
  | some x =>
    (s.onWait x.1 x.2.idx (fun e => { e with interest := e.interest - 1 })).settleWait x.1 x.2.idx

/-- One active lane of a PWAIT. -/
def State.waitLane (s : State) (tok : Word) (l : Nat) : State :=
  match s.waitOutcome tok with
  | .go p live =>
    let s1 := s.onWave (fun w => w.mapLanes (fun i f => if i = l then f.setPred 15 p else f))
    if live then s1.lowerInterest tok else s1
  | .park =>
    s.onWave (fun w => w.mapLanes (fun i f => if i = l then f.parkOn w.cur (.wait tok) else f))

/-- PWAIT: under det a test that would park holds the word (18 R331, 09 R209). -/
def execPwait (st : Stall) (d : Reg) (s : State) : Out :=
  s.gate { rv := [(d.toNat, 1)], wp := [15] } (fun s1 =>
    let toks := s1.wave.activeLanes.map (fun l => (l, s1.readV l d.toNat))
    if s1.wave.det && toks.any (fun x => s1.waitOutcome x.2 == .park) then s1.hold
    else
      (toks.foldl (fun s x => s.waitLane x.2 x.1)
        (s1.onWave (fun w => w.supersede (w.activeLanes.map (fun l => (RegFile.p, l, 15)))))).retire
          st)

/-- PCANCEL, performed later (18 R332). -/
def execPcancel (st : Stall) (d : Reg) (k : MCtr) (s : State) : Out :=
  s.memWord st { rv := [(d.toNat, 1)] } k.toNat (fun s1 =>
    s1.guardAll (fun l => s1.wave.rangeCheck { rv := [(d.toNat, 1)] } l) (fun s2 =>
      (s2.onWave (fun w =>
        w.addOp { kind := .pcancel, ctr := k.toNat, pc := w.pc, stamp := s2.fresh,
                  reqs := w.activeLanes.map (fun l =>
                    { lane := l, data := wide (s2.readV l d.toNat),
                      fibid := (w.fib l).fibid }) })).issue st))

/-- CFLUSH writes lines back; it changes no value that a read returns (13 R292). -/
def execCflush (st : Stall) (c : Num4) (x : Index) (k : MCtr) (s : State) : Out :=
  s.globalWord st (x.reads.plus (quadReads c.toNat))
    { kind := .cflush, w := 1, ctr := k.toNat, need := pLoad, acc := .probe } noPre
    (fun s1 l => { cap := s1.capSFor l c.toNat, off := x.val s1 l })

/-! ### Key-value words (22 R414) -/

/-- KVALLOC: w is 128 and Vd gives the tier at issue (22 R414, R415). -/
def execKvalloc (st : Stall) (sc : Scope) (d : Reg) (c : Num4) (x : Index) (k : MCtr)
    (s : State) : Out :=
  s.globalWord st
    (Uses.plus { rv := [(d.toNat, 1)], wv := [(d.toNat, 2)] } (x.reads.plus (quadReads c.toNat)))
    { kind := .kvalloc, w := 128, sc := sc, ctr := k.toNat, need := pLoadStore, acc := .rmw,
      write := true, atomic := true, acquire := true, release := true } noPre
    (fun s1 l =>
      { cap := s1.capSFor l c.toNat, off := x.val s1 l, dst := s1.wave.areg l d.toNat,
        data := wide (s1.readV l d.toNat) })

/-- KVSET exchanges sequence-table entries (22 R414, R416). -/
def execKvset (st : Stall) (sc : Scope) (d : Reg) (c : Num4) (x : Index) (k : MCtr)
    (s : State) : Out :=
  s.globalWord st
    (Uses.plus { rv := [(d.toNat, 2)], wv := [(d.toNat, 2)] } (x.reads.plus (quadReads c.toNat)))
    { kind := .kvset, w := 8, sc := sc, ctr := k.toNat, need := pLoadStore, acc := .rmw,
      write := true, atomic := true, acquire := true, release := true } noPre
    (fun s1 l =>
      { cap := s1.capSFor l c.toNat, off := x.val s1 l, dst := s1.wave.areg l d.toNat,
        data := s1.readV64 l d.toNat })

end Sys2Proof.Machine
end

