-- ==== Sys2Proof/Machine/Queues.lean ====
section
/-!
DEFINITION. Sys2Proof/Machine/Queues.lean: memory that the device itself reads and writes on behalf of a
context (launch records, queues, completion words, error queues: 09 R190 to R194, 20 R384, R385), and
the refusal of an access at its home (20 R385).
-/

namespace Sys2Proof.Machine

open Sys2Proof

/-! ### Device accesses through a context's page tables -/

/-- The physical address of a context's virtual address, by a walk; none, too, where its module-tier unit fails both
reads, of which no byte is read and into which none is merged (22 R407, R408). -/
def State.ctxPhys (s : State) (ctx va : Nat) (a : Access) : Option Nat :=
  if 2 ^ 56 ≤ va then none
  else
    match s.walk ctx va with
    | .error _ => none
    | .ok x => if a.allowed x.ent && !s.unitFails (x.phys va) then some (x.phys va) else none

/-- An access of the device to a context's virtual address: the units that failed under it are noted (22 R409,
log 27). -/
def State.ctxMet (s : State) (ctx va : Nat) : State :=
  s.noteDead (s.walkReads ctx va ++
    (match s.walk ctx va with
      | .error _ => []
      | .ok x => [x.phys va]))

/-- n bytes at a virtual address that do not cross a page. -/
def State.ctxRd (s : State) (ctx va n : Nat) : Option Nat :=
  (s.ctxPhys ctx va .read).map (fun p => s.rd p n)

/-- `n` 16-byte units at a 16-byte aligned virtual address. -/
def State.ctxUnits (s : State) (ctx va : Nat) : Nat → Option (List Byte)
  | 0 => some []
  | n + 1 =>
    match s.ctxPhys ctx va .read, s.ctxUnits ctx (va + 16) n with
    | some p, some r => some (s.rdBytes p 16 ++ r)
    | _, _ => none

/-- Writes an n-byte number at a virtual address; an address that does not translate is dropped. -/
def State.ctxWr (s : State) (ctx va v n : Nat) : State :=
  match s.ctxPhys ctx va .write with
  | some p => s.wrN p v n
  | none => s.ctxMet ctx va

/-! ### The error queue of a launch (20 R384) -/

/-- The sequence number of the next record of a launch's error queue (20 R382, R384). -/
def State.errorSeq (s : State) (launch : Nat) : Nat :=
  match s.launches.find? (fun x => x.id == launch) with
  | none => 0
  | some c => if c.errq = 0 then 0 else (s.ctxRd c.ctx (c.errq + 4) 4).getD 0

/-- Writes one record to the error queue of a launch, or counts it lost. -/
def State.queueRecord (s : State) (x : Launch) (r : FaultRecord) : State :=
  if x.errq = 0 then s
  else
    match s.ctxRd x.ctx x.errq 12 with
    | none => s.ctxMet x.ctx x.errq
    | some h =>
      let cap := bits h 31 0
      let posted := bits h 63 32
      if cap = 0 ∨ 65536 < cap then s
      else if posted < cap then
        let s1 := match s.ctxPhys x.ctx (x.errq + 64 + 32 * posted) .write with
          | some p => s.wr p (r.bytes posted)
          | none => s.ctxMet x.ctx (x.errq + 64 + 32 * posted)
        s1.ctxWr x.ctx (x.errq + 4) (posted + 1) 4
      else s.ctxWr x.ctx (x.errq + 8) ((bits h 95 64 + 1) % 2 ^ 32) 4

/-- Posts a record to a launch's error queue. One that ends a group or a task wave stays unresolved, and the host
learns of it by an event (19 R354; DEDUCED, log 68). -/
def State.postError (s : State) (launch : Nat) (r : FaultRecord) : State :=
  match s.launches.find? (fun x => x.id == launch) with
  | none => s
  | some x =>
    let s1 := s.queueRecord x r
    if r.unhandled then s1.unresolved r (s.errorSeq launch) else s1

/-! ### Refusals at the home (13 R273, 20 R385) -/

/-- Posts the record of a refused access and makes the trap pending, or fails the group when the issuing fibre has
ended (20 R385). -/
def State.refuseLane (s : State) (o : MemOp) (code : Nat) (q : LaneReq) : State :=
  let ended := !(s.wave.fib q.lane).alive
  let i := refusalInfo code q o.w ended
  let r : FaultRecord :=
    { s.recordOf i q.fibid o.pc with retired := ended, unhandled := ended }
  let s1 := s.postError s.wave.launch r
  s1.onWave (fun w =>
    if ended then { w with dying := match w.dying with
        | some x => some x
        | none => some { r with unhandled := false } }
    else { w with pend19 := w.pend19 ++
      [{ info := i, fibid := q.fibid, pc := o.pc, seq := s.errorSeq s.wave.launch, wctx := r.wctx, core := r.core }] })

/-- The writes of zero that a refused access leaves in its destinations (20 R385). -/
def MemOp.zeroWrites (o : MemOp) (q : LaneReq) : List (RegFile × Nat × Nat × Word) :=
  ((o.kind.dests o.w q).filter (fun x => !o.dead.contains x)).map (fun x => (x.1, x.2.1, x.2.2, 0))

end Sys2Proof.Machine
end

