-- ==== Sys2Proof/Machine/Pools.lean ====
section
/-!
DEFINITION. Sys2Proof/Machine/Pools.lean: key-value pools: descriptors, block tables, allocation and the
exchange of sequence-table entries (22 R410 to R416).
-/

namespace Sys2Proof.Machine

open Sys2Proof

/-! ### Descriptors (22 R410) -/

/-- Field of n bytes of the descriptor at a physical address. -/
def State.desc (s : State) (p off n : Nat) : Nat := s.rd (p + off) n

/-- The block number that means none. -/
def noBlock : Nat := 2 ^ 40 - 1

/-- A descriptor that keeps the rules of 22 R410. -/
def State.descOk (s : State) (p num : Nat) : Bool :=
  let btok := s.desc p 100 1
  let bpt := s.desc p 96 4
  s.desc p 0 8 % 16 == 0 && s.desc p 8 8 % 16 == 0 && s.desc p 16 8 % 16 == 0 &&
  s.desc p 24 8 % 8 == 0 && decide (s.desc p 32 8 < noBlock) && decide (s.desc p 40 8 < noBlock) &&
  decide (1 ≤ s.desc p 80 4) && decide (1 ≤ bpt) && decide (bpt ≤ 65536) && decide (btok < 3) &&
  decide (16 * 2 ^ btok * bpt ≤ 65536) && s.desc p 101 1 == num && decide (num < 64) &&
  decide (s.desc p 102 1 < 8) && (s.rdBytes (p + 103) 25).all (fun b => b == 0)

/-- The pool whose descriptor lies at a virtual address of a context. -/
def State.poolAt (s : State) (ctx va : Nat) : Option Pool :=
  (s.ctxD ctx).pools.find? (fun x => x.desc == va)

/-- The pool of a number. -/
def State.poolNum (s : State) (ctx num : Nat) : Option Pool :=
  (s.ctxD ctx).pools.find? (fun x => x.num == num)

/-- Changes a pool. -/
def State.onPool (s : State) (ctx num : Nat) (f : Pool → Pool) : State :=
  s.onContext ctx (fun c => { c with pools := updateWhere (fun x => x.num == num) f c.pools })

/-- The physical address of block table entry k of a tier (22 R411). -/
def State.blockEntry (s : State) (ctx p tier k : Nat) : Option Nat :=
  let tab := s.desc p (8 * tier) 8
  if tab = 0 ∨ s.desc p (32 + 8 * tier) 8 ≤ k then none
  else s.ctxPhys ctx (tab + 16 * k) .read

/-- A block table entry could not be read: what failed under it is noted (22 R409). -/
def State.blockMet (s : State) (ctx p tier k : Nat) : State := s.ctxMet ctx (s.desc p (8 * tier) 8 + 16 * k)

/-- A sequence-table entry (22 R412). -/
def seqEntry (device tier block pool : Nat) : Nat :=
  packFields [(52, 12, device), (50, 2, tier), (10, 40, block), (4, 6, pool), (0, 1, 1)]

/-! ### KVALLOC (22 R415) -/

/-- One lane of a KVALLOC on the descriptor at physical address p: the value it receives. -/
def State.kvAllocLane (s : State) (ctx p t : Nat) : State × Nat :=
  if 1 < t ∨ s.desc p (8 * t) 8 = 0 ∨ s.desc p (48 + 8 * t) 8 = noBlock then (s, 0)
  else
    let k := s.desc p (48 + 8 * t) 8
    match s.blockEntry ctx p t k with
    | none => (s.blockMet ctx p t k, 0)
    | some a =>
      let e := s.rd a 16
      let act := bit (s.desc p 102 1) 0
      let e1 := packFields [(126, 2, 1), (125, 1, b2n act), (64, 40, bits e 103 64),
        (0, 56, bits e 55 0)]
      let s1 := s.wrN a e1 16
      let s2 := s1.wrN (p + 48 + 8 * t) (bits e 103 64) 8
      let s3 := s2.wrN (p + 64 + 8 * t) (s2.desc p (64 + 8 * t) 8 - 1) 8
      (s3, seqEntry (deviceOf p) t k (s.desc p 101 1))

/-- Starts a cycle when a free count lies below lowmark and no cycle runs (22 R415): the engine then
performs FINING_START. -/
def State.kvLow (s : State) (ctx p num : Nat) : State :=
  let low := s.desc p 88 4
  let ctl := s.desc p 102 1
  if (s.desc p 64 8 < low ∨ s.desc p 72 8 < low) ∧ !bit ctl 0 ∧ !bit ctl 2 then
    s.onPool ctx num (fun x => if x.phase = 0 then { x with phase := 1 } else x)
  else s

/-! ### Marks (22 R417) -/

/-- Sets or clears the mark of a block entry. -/
def State.setMark (s : State) (a : Nat) (m : Bool) : State :=
  let e := s.rd a 16
  if bit e 125 == m then s else s.wrN a (if m then e + 2 ^ 125 else e - 2 ^ 125) 16

/-- Marks the allocated block that a sequence-table entry names, if it is one of this pool. -/
def State.markEntry (s : State) (ctx p pool e : Nat) : State :=
  if bit e 0 && bits e 9 4 == pool && bits e 63 52 == s.mgmt.devno && decide (bits e 51 50 ≤ 1) then
    match s.blockEntry ctx p (bits e 51 50) (bits e 49 10) with
    | none => s.blockMet ctx p (bits e 51 50) (bits e 49 10)
    | some a => if bits (s.rd a 16) 127 126 = 1 then s.setMark a true else s
  else s

/-! ### The log (22 R416) -/

/-- Whether a value is one that KVSET logs: V is 1 and its pool's mark flag stands at the core. -/
def Core.logs (c : Core) (ctx v : Nat) : Bool := bit v 0 && c.marks.contains (ctx, bits v 9 4)

/-- Whether the log of a value's pool has no room: logcap entries are not yet consumed. -/
def State.logFull (s : State) (ctx v : Nat) : Bool :=
  match s.poolNum ctx (bits v 9 4) with
  | none => false
  | some x =>
    match s.ctxPhys ctx x.desc .read with
    | none => false
    | some p => decide (s.desc p 80 4 ≤ s.desc p 84 4 - x.logRead)

/-- The engine marks what log entry i names. DEDUCED (log 32): it lies at log + 8 · (i mod logcap). -/
def State.markLogged (s : State) (ctx p pool i : Nat) : State :=
  match s.ctxRd ctx (s.desc p 24 8 + 8 * (i % max (s.desc p 80 4) 1)) 8 with
  | some e => s.markEntry ctx p pool e
  | none => s.ctxMet ctx (s.desc p 24 8 + 8 * (i % max (s.desc p 80 4) 1))

/-- A log without room holds the write until the engine has consumed an entry, its oldest. -/
def State.makeRoom (s : State) (ctx v p : Nat) (x : Pool) : State :=
  if s.logFull ctx v then
    (s.markLogged ctx p x.num x.logRead).onPool ctx x.num (fun y => { y with logRead := x.logRead + 1 })
  else s

/-- Appends a value to its pool's log. -/
def State.logAppend (s : State) (ctx v : Nat) : State :=
  match s.poolNum ctx (bits v 9 4) with
  | none => s
  | some x =>
    match s.ctxPhys ctx x.desc .read with
    | none => s.ctxMet ctx x.desc
    | some p =>
      let n := s.desc p 84 4
      let s1 := (s.makeRoom ctx v p x).ctxWr ctx (s.desc p 24 8 + 8 * (n % max (s.desc p 80 4) 1)) v 8
      s1.wrN (p + 84) ((n + 1) % 2 ^ 32) 4

end Sys2Proof.Machine
end

