-- ==== Sys2Proof/Machine/Complete.lean ====
section
/-!
DEFINITION. Sys2Proof/Machine/Complete.lean: how an outstanding access is performed and completes
(ACCESS_COMPLETE, HOME_REFUSAL, INTERLOCK_RESULT, COLLECTOR_WINDOW_CLOSE: 13 R273 to R287, 12 R257 to
R261, 20 R385, 02 R32).
-/

namespace Sys2Proof.Machine

open Sys2Proof

/-! ### Values -/

/-- The n bytes that a request reads. -/
def State.accessRd (s : State) (o : MemOp) (p n : Nat) : Nat :=
  match o.space with
  | .global => s.rd p n
  | .vat gid => (s.groupD gid).rd p n

/-- Notes a Vat write of the issuing wave for the array commands (06 R142). -/
def State.noteVat (s : State) (gid off n : Nat) : State :=
  if s.wave.det then s else s.onGroup gid (fun g => g.noteWrite off n s.wave.wid)

/-- Writes bytes for an access; a Vat write tests parked BWAITs again. -/
def State.accessWr (s : State) (o : MemOp) (p : Nat) (bs : List Byte) : State :=
  match o.space with
  | .global => s.wr p bs
  | .vat gid => (s.noteVat gid p bs.length).vatWrite gid p bs (s.wave.group == some gid)

/-- Writes the live destinations of one request: the words of `v`, low first. -/
def State.land (s : State) (o : MemOp) (q : LaneReq) (vs : List Word) : State :=
  let ds := o.kind.dests o.w q
  s.onWave (fun w =>
    (ds.zip vs).foldl (fun w x =>
      if o.dead.contains x.1 then w
      else w.landLate s.fresh o.ctr (x.1.1, x.1.2.1, x.1.2.2, x.2)) w)

/-- The two words of a 64-bit value. -/
def halves (v : Nat) : List Word := [w32 v, w32 (v / 2 ^ 32)]

/-- The words that an LD of a type writes (13 R274). -/
def ldWords (t : LdType) (v : Nat) : List Word :=
  match t with
  | .n8 => [w32 v]
  | .i8 => [i32 (toSigned 8 v)]
  | .n16 => [w32 v]
  | .i16 => [i32 (toSigned 16 v)]
  | .n32 => [w32 v]
  | .n64 => halves v

/-- One atomic operation on a location's value (13 R284): `x` is the operand, `y` the new value of a
compare and swap. -/
def atomStep (t : AtomType) (o : AtomOp) (v x y : Nat) : Nat :=
  let n := 8 * t.bytes
  let sg : Bool := match t with
    | .i32 => true | .i64 => true | .n32 => false | .n64 => false | .f32 => false
  let le : Bool := if sg then decide (toSigned n v ≤ toSigned n x) else decide (v ≤ x)
  match o with
  | .add => if t = .f32 then (fpAdd fp32 .rne v x).code else (v + x) % 2 ^ n
  | .min => if t = .f32 then (minMax fp32 false v x).code else if le then v else x
  | .max => if t = .f32 then (minMax fp32 true v x).code else if le then x else v
  | .bitAnd => Nat.land v x
  | .bitOr => Nat.lor v x
  | .bitXor => Nat.xor v x
  | .exch => x
  | .cas => if v = x then y else v

/-- The old value of a request and the new value of its location: the requests before it at one address
come first in lane order (13 R285). -/
def atomChain (t : AtomType) (o : AtomOp) (v : Nat) : List LaneReq → Nat
  | [] => v
  | q :: qs => atomChain t o (atomStep t o v (q.data.toNat % 2 ^ (8 * t.bytes))
      (q.data2.toNat % 2 ^ (8 * t.bytes))) qs

/-- The requests of an issue that name the address of one. -/
def MemOp.atAddr (o : MemOp) (p : Nat) : List LaneReq := o.reqs.filter (fun q => q.phys == p)

/-! ### Performing one request -/

/-- The value of PREQ for a page (18 R330). -/
def State.preqPage (s : State) (page : Nat) : State × Word :=
  match s.pageState s.wave.ctx page with
  | .resident => (s, 0)
  | .failed => (s, 0xFFFFFFFE)
  | .absent =>
    let r := s.interest (dieOf s.core.num) s.wave.ctx page
    (r.1, r.2.getD 0xFFFFFFFF)
  | .moving =>
    let r := s.interest (dieOf s.core.num) s.wave.ctx page
    (r.1, r.2.getD 0xFFFFFFFF)

/-- Queues a promotion at the issuing core's die. -/
def State.queuePromo (s : State) (page : Nat) : State :=
  let d := dieOf s.core.num
  let x := s.die d
  s.setDie d { x with promoQ := x.promoQ ++ [(s.wave.ctx, page)] }

/-- The value of PROMO for a page (22 R405). -/
def State.promoPage (s : State) (page : Nat) : State × Word :=
  let ask (queue : Bool) : State × Word :=
    let r := s.interest (dieOf s.core.num) s.wave.ctx page
    match r.2 with
    | none => (s, 0xFFFFFFFF)
    | some tok => (if queue then r.1.queuePromo page else r.1, tok)
  let live := (s.findWait s.wave.ctx page).isSome
  let full := decide (Config.promoCapacity ≤ (s.die (dieOf s.core.num)).promoQ.length)
  match s.pageState s.wave.ctx page with
  | .failed => (s, 0xFFFFFFFE)
  | .moving => ask false
  | .absent => if live then ask false else if full then (s, 0xFFFFFFFF) else ask true
  | .resident =>
    let tier := match s.leafOf s.wave.ctx (page * 65536) with
      | .ok x => entTier x.ent
      | .error _ => 1
    if tier == 0 || tier == 3 then (s, 0)
    else if live then ask false
    else if full then (s, 0xFFFFFFFF) else ask true

/-- A move whose entry is cancelled: the copy is discarded, the destination frame freed, and the page
returns to what it was (22 R404). -/
def State.cancelMove (s : State) (ctx page : Nat) : State :=
  match s.moves.find? (fun m => m.ctx == ctx && m.page == page) with
  | none => s
  | some m =>
    if !m.promotion then s
    else
      let s1 := (s.endMove ctx page).clearPage ctx page
      if m.wasResident then
        match s1.pageSlot ctx page with
        | some a => s1.wrN a m.srcLeaf.toNat 8
        | none => s1
      else s1

/-- One fibre's PCANCEL (18 R332). -/
def State.cancelToken (s : State) (tok : Word) : State :=
  match s.tokenEntry s.wave.ctx tok with
  | none => s
  | some x =>
    let s1 := s.onWait x.1 x.2.idx (fun e => { e with interest := e.interest - 1 })
    if x.2.interest ≤ 1 then
      match x.2.state with
      | .pending =>
        let s2 := (s1.freeWait x.1 x.2.idx).cancelMove x.2.ctx x.2.page
        let d := s2.die x.1
        s2.setDie x.1
          { d with promoQ := d.promoQ.filter (fun y => !(y.1 == x.2.ctx && y.2 == x.2.page)) }
      | .succeeded => s1.settleWait x.1 x.2.idx
      | .failed => s1.settleWait x.1 x.2.idx
    else s1

/-- Marks the n bytes of a binding at a global address clean (13 R289). -/
def State.cleanBack (s : State) (gid off virt n : Nat) : State :=
  s.onGroup gid (fun g =>
    { g with binds := updateWhere (fun b => b.off == off) (fun b =>
        { b with dirty := b.dirty.filter (fun a =>
            !(decide (virt ≤ b.gaddr + (a - off)) && decide (b.gaddr + (a - off) < virt + n))) }) g.binds })

/-- Writes back the dirty bytes of a binding among the n global bytes at a virtual address, which stand at `p`
(12 R269). -/
def State.writeBack (s : State) (gid off virt n p : Nat) : State :=
  match (s.groupD gid).binds.find? (fun b => b.off == off) with
  | none => s
  | some b =>
    let dirty := b.dirty.filter (fun a =>
      decide (virt ≤ b.gaddr + (a - off)) && decide (b.gaddr + (a - off) < virt + n))
    (dirty.foldl (fun s a => s.wr (p + (b.gaddr + (a - off) - virt)) [(s.groupD gid).rdByte a]) s).cleanBack
      gid off virt n

/-- The physical address at which a request is performed: that of its issue, but for LDNR that of now, if its
page is resident (13 R275). -/
def State.homeOf (s : State) (o : MemOp) (q : LaneReq) : Option Nat :=
  match o.kind with
  | .loadNr _ =>
    match s.translate s.wave.ctx q.virt .read with
    | .ok p => if s.pageState s.wave.ctx (q.virt / 65536) == .resident then some p else none
    | .error _ => none
  | _ => some q.phys

/-- Performs one request of an access that is not one event for all its lanes. -/
def State.performReq (s : State) (o : MemOp) (q : LaneReq) : State :=
  match o.kind with
  | .load t => s.land o q (ldWords t (s.accessRd o q.phys t.bytes))
  | .loadNr n =>
    match s.homeOf o q with
    | some p =>
      let v := s.rd p n
      s.land o q ((if n = 8 then halves v else [w32 v]) ++ [1])
    | none => s.land o q ((if n = 8 then [0, 0] else [0]) ++ [0])
  | .loadS => s.land o q [w32 (s.accessRd o q.phys 4)]
  | .loadCap =>
    let v := s.accessRd o q.phys 16
    let tag := match o.space with
      | .vat gid => (s.groupD gid).vtag q.phys
      | .global => false
    let alive := (o.kind.dests o.w q).all (fun x => !o.dead.contains x)
    let s1 := s.land o q [w32 v, w32 (v / 2 ^ 32), w32 (v / 2 ^ 64), w32 (v / 2 ^ 96)]
    if alive && tag then
      s1.onWave (fun w => w.mapLanes (fun l f =>
        if l = q.lane then { f with vtags := sput false f.vtags (q.dst / 4) true } else f))
    else s1
  | .store => s.accessWr o q.phys (bytesOf q.data.toNat o.w)
  | .storeCap =>
    match o.space with
    | .global => s
    | .vat gid =>
      let v := q.data.toNat + q.data2.toNat * 2 ^ 64
      ((s.noteVat gid q.phys 16).vatWrite gid q.phys (bytesOf v 16) (s.wave.group == some gid)).onGroup
        gid (fun g =>
        { g with vtags := sput false g.vtags (q.phys / 16) q.tag })
  | .atom .. => s
  | .vmap => s
  | .vsync off _ =>
    match o.space with
    | .global => s
    | .vat gid => if q.dst = 2 ^ 32 then s else s.writeBack gid off q.virt q.dst q.phys
  | .preq => let r := s.preqPage (q.virt / 65536); r.1.land o q [r.2]
  | .promo => let r := s.promoPage (q.virt / 65536); r.1.land o q [r.2]
  | .pcancel => s.cancelToken (lo32 q.data)
  | .cflush => s
  | .kvalloc =>
    let r := s.kvAllocLane s.wave.ctx q.phys (q.data.toNat % 4)
    (r.1.land o q (halves r.2)).kvLow s.wave.ctx q.phys (r.1.desc q.phys 101 1)
  | .kvset =>
    let old := s.rd q.phys 8
    let new := q.data.toNat
    let s1 := s.wrN q.phys new 8
    let log (s : State) (v : Nat) : State :=
      if s.core.logs s.wave.ctx v then s.logAppend s.wave.ctx v else s
    (log (log s1 old) new).land o q (halves old)
  | .binit => s
  | .barr => s
  | .bexp => s
  | .btest => s.land o q [w32 (
      let x := s.accessRd o o.object.2 16
      bits x 63 48 * 65536 + bits x 15 0)]

/-- Performs every atomic update of an issue: one read-modify-write for each distinct address
(13 R285). -/
def State.performAtom (s : State) (o : MemOp) (t : AtomType) (op : AtomOp) (ret : Bool) : State :=
  let addrs := sortNats (o.reqs.map (fun q => q.phys))
  addrs.foldl (fun s p =>
    let qs := o.atAddr p
    let v := s.accessRd o p t.bytes
    let s1 := s.accessWr o p (bytesOf (atomChain t op v qs) t.bytes)
    if ret then
      (List.range qs.length).foldl (fun s i =>
        let q := qs.getD i {}
        s.land o q (halves (atomChain t op v (qs.take i)) |>.take (regsOf t.bytes))) s1
    else s1) s

/-- Performs the one event of a barrier instruction (14 R299). -/
def State.performBarrier (s : State) (o : MemOp) : State :=
  let x := o.object
  match o.kind with
  | .binit =>
    let v := (o.reqs.headD {}).data.toNat
    let b : Bar :=
      { expected := bits v 15 0, trapb := bit v 17
        guardBit := bit v 16 || s.groups.any (fun g => g.guardOff == some x) }
    let s1 := s.onGroup x.1 (fun g => g.wr x.2 (bytesOf b.pack 16) (s.wave.group == some x.1))
    let s2 := if bit v 16 then s1.onGroup (s.wave.group.getD 0) (fun g => { g with guardOff := some x }) else s1
    s2.retest x.1 x.2 true
  | .barr =>
    let phase := ((s.groupD x.1).bar x.2).phase
    let s1 := s.barEvent x.1 x.2 (fun b => { b with arrivals := b.arrivals + o.reqs.length }) (s.wave.group == some x.1)
    o.reqs.foldl (fun s q => s.land o q [w32 phase]) s1
  | _ =>
    s.barEvent x.1 x.2 (fun b =>
      { b with target := b.target + (o.reqs.map (fun q => q.data.toNat)).sum }) (s.wave.group == some x.1)

/-- A VUNMAP that has been performed removes its binding (13 R289). -/
def State.unbind (s : State) (o : MemOp) (off : Nat) (drop : Bool) : State :=
  match o.space with
  | .global => s
  | .vat gid =>
    if drop then s.onGroup gid (fun g => { g with binds := g.binds.filter (fun b => b.off != off) }) else s

/-- What an access of which every request was refused still does: a VUNMAP removes its binding. -/
def State.refusedAll (s : State) (o : MemOp) : State :=
  match o.kind with
  | .vsync off drop => s.unbind o off drop
  | _ => s

/-- Performs an access whose requests are not refused. -/
def State.performOp (s : State) (o : MemOp) : State :=
  match o.kind with
  | .atom t op ret => s.performAtom o t op ret
  | .binit => s.performBarrier o
  | .barr => s.performBarrier o
  | .bexp => s.performBarrier o
  | .vsync off drop =>
    (o.reqs.foldl (fun s q => s.performReq o q) s).unbind o off drop
  | .load _ => o.reqs.foldl (fun s q => s.performReq o q) s
  | .loadNr _ => o.reqs.foldl (fun s q => s.performReq o q) s
  | .loadS => o.reqs.foldl (fun s q => s.performReq o q) s
  | .loadCap => o.reqs.foldl (fun s q => s.performReq o q) s
  | .store => o.reqs.foldl (fun s q => s.performReq o q) s
  | .storeCap => o.reqs.foldl (fun s q => s.performReq o q) s
  | .vmap => s
  | .preq => o.reqs.foldl (fun s q => s.performReq o q) s
  | .pcancel => o.reqs.foldl (fun s q => s.performReq o q) s
  | .promo => o.reqs.foldl (fun s q => s.performReq o q) s
  | .cflush => s
  | .kvalloc => o.reqs.foldl (fun s q => s.performReq o q) s
  | .kvset => o.reqs.foldl (fun s q => s.performReq o q) s
  | .btest =>
    (o.reqs.foldl (fun s q => s.performReq o q) s).barCheck o.object.1 o.object.2 (s.wave.group == some o.object.1)

/-- The granules that a Vat access touches are filled, where a region was bound after its issue (12 R268). -/
def State.fillFor (s : State) (o : MemOp) : State :=
  match o.space with
  | .global => s
  | .vat gid =>
    if o.kind.writesBack || o.kind == .vmap then s
    else o.reqs.foldl (fun s q => s.fillGranules gid ((s.groupD gid).unfilled q.phys o.w)) s

/-! ### Completion -/

/-- The code with which the home refuses one request. -/
def State.reqRefused (s : State) (o : MemOp) (q : LaneReq) : Option Nat :=
  match o.kind with
  | .loadNr _ => (s.homeOf o q).bind (fun p => s.refusedAt p)
  | .kvalloc =>
    match s.poolAt s.wave.ctx q.virt with
    | none => some 0x001
    | some x => (s.refusedAt q.phys).or (if s.descOk q.phys x.num then none else some 0x001)
  | .pcancel => none
  | .preq => none
  | .promo => none
  | .vmap => none
  | _ =>
    match o.space with
    | .global => s.refusedAt q.phys
    | .vat _ => match o.kind with
      | .vsync .. =>
        if q.dst == 2 ^ 32 then none
        else (s.refusedAt q.phys).map (fun _ => 0x003)
      | _ => none

/-- Whether a KVSET waits at its home for a log to be consumed (22 R416). -/
def State.logWait (s : State) (o : MemOp) : Bool :=
  match o.kind with
  | .kvset => o.reqs.any (fun q =>
      (s.core.logs s.wave.ctx q.data.toNat && s.logFull s.wave.ctx q.data.toNat) ||
      (s.core.logs s.wave.ctx (s.rd q.phys 8) && s.logFull s.wave.ctx (s.rd q.phys 8)))
  | _ => false

/-- A refused access at `p` that met a failed unit of the module tier: the page is marked failed (22 R407 to R409). A
write-back is refused with a code of its own (20 R374). -/
def State.unitMet (s : State) (o : MemOp) (code : Nat) (q : LaneReq) (p : Nat) : State :=
  if (s.unitOf p).isSome && (code == 0x002 || code == 0x003 && s.unitFails p) then
    let i := tierTrap 1 q.virt
    s.unitLost s.wave.ctx (q.virt / 65536) p i (s.recordOf i q.fibid o.pc) (dieOf s.core.num)
  else s

/-- A refused write-back leaves its bytes clean: the VSYNC still marks its range (13 R289). -/
def State.cleanRefused (s : State) (o : MemOp) (q : LaneReq) : State :=
  match o.kind, o.space with
  | .vsync off _, .vat gid => s.cleanBack gid off q.virt q.dst
  | _, _ => s

/-- Refuses the requests for which `why` gives a code: zero in their destinations, a record, a pending
trap. -/
def State.refuseReqs (s : State) (o : MemOp) (why : LaneReq → Option Nat) : State :=
  o.reqs.foldl (fun s q =>
    match why q with
    | none => s
    | some c =>
      (((s.onWave (fun w => (o.zeroWrites q).foldl (fun w x => w.landLate s.fresh o.ctr x) w)).refuseLane
        o c q).unitMet o c q ((s.homeOf o q).getD q.phys)).cleanRefused o q) s

/-- The k-th outstanding access leaves the wave: its counter falls and it retires (10 R231). -/
def Wave.finishOp (w : Wave) (k : Nat) (o : MemOp) : Wave :=
  let w1 := w.decCtr o.ctr
  { w1 with outst := removeAt k w1.outst, retcnt := w1.retcnt + 1, stalled := false }

/-- An access has completed: the copy and merge requests that its wave made after it wait for one less
(14 R308, R310, R313). -/
def Core.opDone (c : Core) (wid k : Nat) : Core :=
  { c with
    reqQ := updateWhere (fun r => r.wid == wid && decide (k < r.earlier))
      (fun r => { r with earlier := r.earlier - 1 }) c.reqQ
    blendQ := updateWhere (fun r => r.wid == wid && decide (k < r.earlier))
      (fun r => { r with earlier := r.earlier - 1 }) c.blendQ }

/-- Completes the k-th outstanding access of the issuing wave. -/
def State.complete (s : State) (k : Nat) : State :=
  match s.wave.outst[k]? with
  | none => s
  | some o =>
    if !s.mayPerform k || s.logWait o then s
    else
      let good := { o with reqs := o.reqs.filter (fun q => (s.reqRefused o q).isNone) }
      let s1 := s.refuseReqs o (fun q => s.reqRefused o q)
      let s2 := if good.reqs.isEmpty && !o.reqs.isEmpty then s1.refusedAll o else (s1.fillFor good).performOp good
      { ((s2.onWave (fun w => w.finishOp k o)).onCore (fun c => c.opDone s.wave.wid k)).tidyMarks with
        fresh := s2.fresh + freshStride }

/-! ### Stores of saved waves (21 R388, R400) -/

/-- An outstanding access of a saved wave: its context, its image, its wave and its place. -/
structure SavedOp where
  ctx : Nat
  seq : Nat
  wid : Nat
  idx : Nat
  deriving DecidableEq, Repr

/-- The outstanding accesses of all saved waves. -/
def State.savedOps (s : State) : List SavedOp :=
  s.contexts.flatMap (fun c => c.images.flatMap (fun i => i.waves.flatMap (fun w =>
    (List.range w.outst.length).map (fun k => { ctx := c.id, seq := i.seq, wid := w.wid, idx := k }))))

/-- The image and the saved wave of an access. -/
def State.savedWave (s : State) (x : SavedOp) : Option (Image × Wave) :=
  match s.context x.ctx with
  | none => none
  | some c =>
    match c.images.find? (fun i => i.seq == x.seq) with
    | none => none
    | some i => (i.waves.find? (fun w => w.wid == x.wid)).map (fun w => (i, w))

/-- A saved wave as it stood on its core, with the requests that wait for its accesses; the wave and the core at the
issue port step aside. -/
def State.standIn (s : State) (i : Image) (w : Wave) : State :=
  { s with
    wave := w
    core := { num := i.core, reqQ := i.reqQ, blendQ := i.blendQ }
    cores := { s.core with waves := s.wave :: s.core.waves } :: s.cores }

/-- What became of a saved wave goes back into its image. -/
def State.saveBack (s : State) (x : SavedOp) : State :=
  s.onContext x.ctx (fun c => { c with images := updateWhere (fun i => i.seq == x.seq) (fun i => { i with
    reqQ := s.core.reqQ
    blendQ := s.core.blendQ
    waves := updateWhere (fun w => w.wid == x.wid) (fun _ => s.wave) i.waves }) c.images })

/-- The wave and the core that stood aside come back to the issue port. -/
def State.standBack (s : State) : State :=
  match s.cores with
  | [] => s
  | k :: ks =>
    match k.waves with
    | [] => s
    | w :: ws => { s with wave := w, core := { k with waves := ws }, cores := ks }

/-- Does something to a saved wave's access. -/
def State.atSaved (s : State) (x : SavedOp) (f : State → State) : State :=
  match s.savedWave x with
  | none => s
  | some (i, w) => ((f (s.standIn i w)).saveBack x).standBack

/-- Does something to the k-th outstanding access of the issuing wave, or, beyond those, to one of the saved waves. -/
def State.atAccess (s : State) (k : Nat) (f : State → Nat → State) : State :=
  if k < s.wave.outst.length then f s k
  else
    match s.savedOps[k - s.wave.outst.length]? with
    | none => s
    | some x => s.atSaved x (fun t => f t x.idx)

/-- ACCESS_COMPLETE: the k-th outstanding access of the issuing wave is performed and completes
(13 R273); a larger k names a saved wave's (21 R400). -/
def execAccessComplete (k : Nat) (s : State) : Out := .next (s.atAccess k State.complete)

/-- Whether an access of a kind has a home that may refuse it. -/
def MemOp.hasHome (o : MemOp) : Bool :=
  match o.space with
  | .global => true
  | .vat _ => match o.kind with
    | .vsync .. => true
    | _ => false

/-- The home of the k-th access's first request refuses the requests to that frame. -/
def State.refuseHome (s : State) (why : RefusalKind) (k : Nat) : State :=
  match s.wave.outst[k]? with
  | none => s
  | some o =>
    if !o.hasHome || !s.mayPerform k then s
    else
      match o.reqs.findSome? (fun q => (s.homeOf o q).map (fun p => p / 65536)) with
      | none => s
      | some frame =>
        let hit (q : LaneReq) : Bool := (s.homeOf o q).map (fun p => p / 65536) == some frame
        let code := match o.kind with
          | .vsync .. => 0x003
          | _ => refusalCode why
        let s1 := s.refuseReqs o (fun q => if hit q then some code else none)
        let rest := o.reqs.filter (fun q => !hit q)
        if rest.isEmpty then
          { ((s1.refusedAll o).onWave (fun w => w.finishOp k o)).onCore (fun c => c.opDone s.wave.wid k) with
            fresh := s1.fresh + freshStride }
        else
          { s1.onWave (fun w =>
              { w with outst := updateAt (fun o => { o with reqs := rest }) k w.outst }) with
            fresh := s1.fresh + freshStride }

/-- COLLECTOR_WINDOW_CLOSE: the request collector closes its window; merging changes only timing
(13 R287). -/
def execCollectorWindowClose (s : State) : Out := .next (s.onCore (fun c => { c with window := 0 }))

/-- INTERLOCK_RESULT: the k-th interlocked result is written, the instruction retires and what it held
may issue (02 R32, 10 R223, R224, R226). -/
def execInterlockResult (k : Nat) (s : State) : Out :=
  match s.wave.interlocks[k]? with
  | none => .next s
  | some x =>
    .next (s.onWave (fun w =>
      let w1 := x.writes.foldl (fun w y => w.landWrite y) w
      { w1 with
        interlocks := removeAt k w.interlocks
        retcnt := w1.retcnt + 1
        stalled := false }))

end Sys2Proof.Machine
end

