-- ==== Sys2Proof/Machine/Barriers.lean ====
section
/-!
DEFINITION. Sys2Proof/Machine/Barriers.lean: the barrier words, major 0x24: their checks, BWAIT, and what
they do at issue (14 R297 to R300). Machine/Complete.lean performs BINIT, BARR, BEXP and BTEST.
-/

namespace Sys2Proof.Machine

open Sys2Proof

/-- A trap of cause group 10 about the object at an offset (20 R374). -/
def State.objTrap (s : State) (code : Nat) (v : VatTarget) (off : Nat) : Fail :=
  let x := (s.groupD ((s.target v).getD 0)).rd off 8
  .trap { group := 10, code := code, d0 := w32 x, d1 := w32 (x / 2 ^ 32),
          d2 := w32 (off % 2 ^ 19 + (targetField v).toNat * 2 ^ 19) }

/-- Check 3 of 14 R298 for the index of one lane: equal to that of the lowest active lane. -/
def State.offsetUniform (s : State) (x : Index) (l : Nat) : Option Fail :=
  let a := x.val s s.wave.lowest
  let b := x.val s l
  if a = b then none
  else
    let hi := decide (a % 2 ^ 32 = b % 2 ^ 32)
    some (.trap (uniformTrap l (2 * x.pair.toNat + b2n hi) (if hi then b / 2 ^ 32 else b % 2 ^ 32)))

/-- The access of an active fibre to the object, as what it touches. -/
def State.objTouches (s : State) (gid off : Nat) : List Touch :=
  s.wave.activeLanes.map (fun l =>
    { lane := l, space := .vat gid, lo := off, n := 16, write := true, atomic := true })

/-- Checks 4 to 6 of 14 R298, and the fill of a mapped granule. -/
def State.objectCheck (s : State) (v : VatTarget) (l off : Nat) : Option Fail :=
  match s.target v with
  | some gid => s.vatCheck v l off 16 16 <|> s.fillCheck gid l (s.objTouches gid off)
  | none =>
    if off % 16 ≠ 0 then some (.trap (alignTrap 2 l off 16))
    else
      some (.trap (positionTrap (match v with
        | .own => s.core.num % 4
        | .pos p => p.toNat) off))

/-- The checks of 14 R298 for one lane: `same` completes check 3, `mid` stands after it, `post` holds checks 7
and 8. The checks after the third are made only where check 3 holds of every active fibre. -/
def State.barChecks (s : State) (u : Uses) (v : VatTarget) (x : Index)
    (same mid post : Nat → Option Fail) (l : Nat) : Option Fail :=
  let off := x.val s l
  let third (i : Nat) : Option Fail := s.offsetUniform x i <|> same i
  s.wave.rangeCheck u l
  <|> s.taskCheck off
  <|> third l
  <|> (if s.wave.activeLanes.any (fun i => (third i).isSome) then none
        else mid l <|> s.objectCheck v l off <|> post l)

/-- No check. -/
def noCheck (_ : Nat) : Option Fail := none

/-- A barrier word that completes later: its checks, then one access for every active fibre. -/
def State.barWord (s : State) (st : Stall) (u : Uses) (v : VatTarget) (x : Index) (k : MCtr)
    (post : State → Option Fail) (note : State → State → State)
    (op : State → MemOp) (req : State → Nat → LaneReq) : Out :=
  s.memWord st u k.toNat (fun s1 =>
    s1.guardAll (fun l => s1.barChecks u v x noCheck noCheck (fun _ => post s1) l) (fun s2 =>
      let gid := (s2.target v).getD 0
      let off := x.val s2 s2.wave.lowest
      s2.withFills gid (s2.objTouches gid off) (fun s3 =>
        ((note s2 s3).onWave (fun w => w.addOp
          { op s2 with
            space := .vat gid, ctr := k.toNat, pc := s2.wave.pc, stamp := s2.fresh
            reqs := s2.wave.activeLanes.map (fun l =>
              { req s2 l with
                lane := l, virt := off, phys := off, fibid := (s2.wave.fib l).fibid }) })).issue st)))

/-- The word of a BINIT: Vd of the lowest active lane. -/
def State.initWord (s : State) (d : Reg) : Nat := (s.readV s.wave.lowest d.toNat).toNat

/-- Whether an access is a BINIT with the guard flag that has not been performed, of another object. -/
def MemOp.guardElse (o : MemOp) (x : Nat × Nat) : Bool :=
  decide (o.kind = .binit) && bit (o.reqs.headD {}).data.toNat 16 && o.object != x

/-- The issuing group has a guard, or a BINIT of one outstanding, and it is another object (12 R264). -/
def State.guardElse (s : State) (x : Nat × Nat) : Bool :=
  (match (s.groupD (s.wave.group.getD 0)).guardOff with
    | some y => y != x
    | none => false) ||
  s.allWaves.any (fun w => w.group == s.wave.group && w.outst.any (fun o => o.guardElse x))

/-- Checks 7 and 8 of 14 R298. -/
def State.initCheck (s : State) (d : Reg) (v : VatTarget) (x : Index) : Option Fail :=
  let w := s.initWord d
  let off := x.val s s.wave.lowest
  let g := s.groupD ((s.target v).getD 0)
  if bits w 31 18 ≠ 0 then some (s.objTrap 0x005 v off)
  else if bit w 16 && s.guardElse ((s.target v).getD 0, off) then some (s.objTrap 0x003 v off)
  else if 64 ≤ g.bars.length ∧ !g.bars.contains off then some (s.objTrap 0x004 v off)
  else none

/-- The object is recorded in the group that holds it (14 R297); a guard becomes the group's when the BINIT is
performed (12 R264). -/
def State.initNote (s : State) (v : VatTarget) (x : Index) (t : State) : State :=
  let off := x.val s s.wave.lowest
  t.onGroup ((s.target v).getD 0) (fun g =>
    { g with bars := if g.bars.contains off then g.bars else g.bars ++ [off] })

/-- BINIT (14 R299). -/
def execBinit (st : Stall) (sc : Scope) (d : Reg) (v : VatTarget) (x : Index) (k : MCtr)
    (s : State) : Out :=
  s.barWord st (Uses.plus { rv := [(d.toNat, 1)] } x.reads) v x k
    (fun s1 => s1.initCheck d v x)
    (fun s1 t => s1.initNote v x t)
    (fun _ => { kind := .binit, w := 16, sc := sc })
    (fun s1 _ => { data := BitVec.ofNat 64 (s1.initWord d) })

/-- BARR: one event that adds the active fibres; a release (14 R299). -/
def execBarr (st : Stall) (sc : Scope) (d : Reg) (v : VatTarget) (x : Index) (k : MCtr)
    (s : State) : Out :=
  s.barWord st (Uses.plus { wv := [(d.toNat, 1)] } x.reads) v x k (fun _ => none) (fun _ t => t)
    (fun _ => { kind := .barr, w := 16, sc := sc, release := true })
    (fun s1 l => { dst := s1.wave.areg l d.toNat })

/-- BEXP: one event that adds the natural sum of the fibres' Vd to the target (14 R299). -/
def execBexp (st : Stall) (sc : Scope) (d : Reg) (v : VatTarget) (x : Index) (k : MCtr)
    (s : State) : Out :=
  s.barWord st (Uses.plus { rv := [(d.toNat, 1)] } x.reads) v x k (fun _ => none) (fun _ t => t)
    (fun _ => { kind := .bexp, w := 16, sc := sc })
    (fun s1 l => { data := wide (s1.readV l d.toNat) })

/-- BTEST reads an object (14 R299). -/
def execBtest (st : Stall) (sc : Scope) (d : Reg) (v : VatTarget) (x : Index) (k : MCtr)
    (s : State) : Out :=
  s.barWord st (Uses.plus { wv := [(d.toNat, 1)] } x.reads) v x k (fun _ => none) (fun _ t => t)
    (fun _ => { kind := .btest, w := 16, sc := sc })
    (fun s1 l => { dst := s1.wave.areg l d.toNat })

/-! ### BWAIT (14 R300) -/

/-- Check 3 for Vd of one lane. -/
def State.phaseUniform (s : State) (d : Reg) (l : Nat) : Option Fail :=
  let b := s.readV l d.toNat
  if s.readV s.wave.lowest d.toNat ≠ b then some (.trap (uniformTrap l d.toNat b.toNat)) else none

/-- The must-be-zero bits of Vd, tested after check 3 (14 R300). -/
def State.phaseCheck (s : State) (d : Reg) (v : VatTarget) (x : Index) (l : Nat) : Option Fail :=
  if bits (s.readV l d.toNat).toNat 31 16 ≠ 0 then some (s.objTrap 0x005 v (x.val s l)) else none

/-- Writes a predicate of every active fibre at once. -/
def Wave.flagActive (w : Wave) (p : Nat) (b : Bool) : Wave :=
  (w.supersede (w.activeLanes.map (fun l => (RegFile.p, l, p)))).onActive
    (fun _ f => f.setPred p b)

/-- Every active fibre parks at the issuing word, the lowest as the one that leads them; the others of the set go
on. -/
def Wave.parkActive (w : Wave) (p : Bool → Park) : Wave :=
  (w.supersede (w.activeLanes.map (fun l => (RegFile.p, l, 14)))).onActive
    (fun l f => f.parkOn w.cur (p (l == w.lowest)))

/-- A BWAIT of the active fibres, as a read of its object. -/
def State.waitOp (s : State) (gid off : Nat) : MemOp :=
  { kind := .btest, space := .vat gid, w := 16
    reqs := s.wave.activeLanes.map (fun l => { lane := l, virt := off, phys := off }) }

/-- BWAIT: after the earlier accesses of its fibres that it must follow, it tests the object, and the unit checks
for completion (14 R295): it passes, traps, returns on a broken object, or parks; under det it is held instead
(14 R300, 09 R209). -/
def execBwait (st : Stall) (sc : Scope) (d : Reg) (v : VatTarget) (x : Index) (s : State) : Out :=
  let u := Uses.plus { rv := [(d.toNat, 1)], wp := [14] } x.reads
  s.gateOpen u (fun s1 =>
    if !s1.wave.anyActive then s1.retire st
    else
      s1.guardAll (fun l =>
          s1.barChecks u v x (fun i => s1.phaseUniform d i) (fun i => s1.phaseCheck d v x i) noCheck l) (fun s2 =>
        let gid := (s2.target v).getD 0
        let l := s2.wave.lowest
        let off := x.val s2 l
        let ph := (s2.readV l d.toNat).toNat
        if s2.mustFollow (s2.waitOp gid off) then s2.hold else
        s2.withFills gid (s2.objTouches gid off) (fun s3 =>
        let s4 := s3.barCheck gid off (s3.wave.group == some gid)
        match ((s3.groupD gid).bar off).verdict ph with
        | .pass =>
          ((s4.markWaited gid off s4.wave.wid ph).onWave (fun w => w.flagActive 14 true)).retire st
        | .brokenQuiet => (s4.onWave (fun w => w.flagActive 14 false)).retire st
        | .brokenTrap => s4.trapHere (s4.brokenTrap gid off (targetField v) s4.core.num) l
        | .wait =>
          if s4.wave.det then s3.hold
          else (s4.onWave (fun w => w.parkActive (.barrier (targetField v) off ph sc))).retire st)))

end Sys2Proof.Machine
end

