-- ==== Sys2Proof/Machine/Relations.lean ====
section
/-!
DEFINITION. Sys2Proof/Machine/Relations.lean: label words, relation descriptors, admission, and granule
summaries (07 R149 to R154, R161, R162).
-/

namespace Sys2Proof.Machine

open Sys2Proof

/-- The invalid label (07 R149). -/
def badLabel : Word := 0xFFFFFFFF

/-! ### Descriptors (07 R151, R152, R154) -/

/-- Width of field j. -/
def relWidth (d : BitVec 256) (j : Nat) : Nat := bits d.toNat (11 * j + 10) (11 * j + 5)
/-- Low bit of field j. -/
def relLow (d : BitVec 256) (j : Nat) : Nat := bits d.toNat (11 * j + 4) (11 * j)
/-- The inv bit. -/
def relInv (d : BitVec 256) : Bool := bit d.toNat 44
/-- The fill code. -/
def relFill (d : BitVec 256) : Nat := bits d.toNat 241 240
/-- Atom j. -/
def relAtom (d : BitVec 256) (j : Nat) : Nat := bits d.toNat (48 + 24 * j + 23) (48 + 24 * j)

/-- Operation of an atom. -/
def atomOp (a : Nat) : Nat := bits a 3 0
/-- Left-hand field code. -/
def atomLhs (a : Nat) : Nat := bits a 6 4
/-- The right-hand side is the constant alone. -/
def atomConst (a : Nat) : Bool := bit a 7
/-- Right-hand field code. -/
def atomRhs (a : Nat) : Nat := bits a 10 8
/-- The constant c. -/
def atomC (a : Nat) : Int := toSigned 12 (bits a 22 11)
/-- The atom begins a clause. -/
def atomNew (a : Nat) : Bool := bit a 23

/-- Validity of a descriptor (07 R154). -/
def relValid (d : BitVec 256) : Bool :=
  bits d.toNat 255 242 == 0 && bits d.toNat 47 45 == 0 &&
  (List.range 4).all (fun j =>
    decide (relWidth d j ≤ 32) && decide (relLow d j + relWidth d j ≤ 32)) &&
  (List.range 8).all (fun j =>
    let a := relAtom d j
    decide (atomOp a ≤ 8) &&
    (if atomOp a = 0 then a == 0
     else relWidth d (atomLhs a % 4) != 0 &&
       (atomConst a || relWidth d (atomRhs a % 4) != 0)))

/-- The present atoms in order. -/
def relAtoms (d : BitVec 256) : List Nat :=
  ((List.range 8).map (fun j => relAtom d j)).filter (fun a => atomOp a != 0)

/-- Splits the atoms into clauses, before every atom whose new bit is 1. -/
def clausesOf : List Nat → List (List Nat)
  | [] => []
  | a :: as =>
    match clausesOf as with
    | [] => [[a]]
    | c :: cs =>
      if (as.head?.map atomNew).getD false then [a] :: c :: cs else (a :: c) :: cs

/-! ### Admission of a pair (07 R150, R153) -/

/-- The value of a field code for a pair of labels. -/
def relVal (d : BitVec 256) (x y : Word) (code : Nat) : Nat :=
  let j := code % 4
  let z := if code < 4 then x else y
  z.toNat / 2 ^ relLow d j % 2 ^ relWidth d j

/-- Whether an atom is true for a pair. -/
def atomTrue (d : BitVec 256) (x y : Word) (a : Nat) : Bool :=
  let lv : Int := relVal d x y (atomLhs a)
  let rv : Int := if atomConst a then atomC a else relVal d x y (atomRhs a) + atomC a
  let b : Bool := decide (0 ≤ rv) && decide (rv < relWidth d (atomLhs a % 4)) &&
    bit lv.toNat rv.toNat
  match atomOp a with
  | 1 => lv == rv
  | 2 => lv != rv
  | 3 => decide (lv < rv)
  | 4 => decide (lv ≤ rv)
  | 5 => decide (rv < lv)
  | 6 => decide (rv ≤ lv)
  | 7 => b
  | 8 => !b
  | _ => true

/-- Whether the relation admits a pair; a pair with an invalid label is excluded (07 R153). -/
def relHolds (d : BitVec 256) (x y : Word) : Bool :=
  if x = badLabel ∨ y = badLabel then false
  else
    let as := relAtoms d
    let r := as.isEmpty || (clausesOf as).any (fun c => c.all (fun a => atomTrue d x y a))
    if relInv d then !r else r

/-! ### Granule summaries (07 R161) -/

/-- One field of a record: min16, max16, or16, and16. -/
def recField (mn mx o a : Nat) : Nat := packFields [(0, 16, mn), (16, 16, mx), (32, 16, o), (48, 16, a)]

/-- The record of a granule's labels. -/
def summaryOf (d : BitVec 256) (labels : List Word) : Nat :=
  let vs := labels.filter (fun x => x != badLabel)
  let field (j : Nat) : Nat :=
    if vs.isEmpty then recField 0xFFFF 0 0 0xFFFF
    else if relWidth d j = 0 ∨ 16 < relWidth d j then recField 0 0xFFFF 0xFFFF 0
    else
      let xs := vs.map (fun x => relVal d x x j)
      recField (xs.foldl min 0xFFFF) (xs.foldl max 0) (xs.foldl Nat.lor 0) (xs.foldl Nat.land 0xFFFF)
  field 0 + 2 ^ 64 * field 1 + 2 ^ 128 * field 2 + 2 ^ 192 * field 3

/-- min16 of a field of a record. -/
def recMin (r j : Nat) : Nat := bits r (64 * j + 15) (64 * j)
/-- max16 of a field of a record. -/
def recMax (r j : Nat) : Nat := bits r (64 * j + 31) (64 * j + 16)
/-- or16 of a field of a record. -/
def recOr (r j : Nat) : Nat := bits r (64 * j + 47) (64 * j + 32)
/-- and16 of a field of a record. -/
def recAnd (r j : Nat) : Nat := bits r (64 * j + 63) (64 * j + 48)
/-- A record that is read as empty. -/
def recEmpty (r : Nat) : Bool := decide (recMax r 0 < recMin r 0)

/-! ### Summary tiles (07 R162) -/

/-- What an atom yields for a summary tile. -/
inductive AtomRes where
  | always | never | maybe
  deriving DecidableEq, Repr

/-- What a clause or a relation yields for a summary tile. -/
inductive TileRes where
  | all | none | mixed
  deriving DecidableEq, Repr

/-- Decides from two conditions. DESIGN CHOICE (log 70): a supplied record whose minimum passes its maximum may meet
both, which 07 R162 does not decide; ALWAYS stands first. -/
def decideAtom (always never : Bool) : AtomRes :=
  if always then .always else if never then .never else .maybe

/-- What an atom yields for a pair of records. -/
def atomTile (d : BitVec 256) (row col a : Nat) : AtomRes :=
  let side (code : Nat) : Nat := if code < 4 then row else col
  let wideField (code : Nat) : Bool := decide (16 < relWidth d (code % 4))
  let lc := atomLhs a
  let rc := atomRhs a
  if wideField lc || (!atomConst a && wideField rc) then .maybe
  else
    let l0 : Int := recMin (side lc) (lc % 4)
    let l1 : Int := recMax (side lc) (lc % 4)
    let r0 : Int := if atomConst a then atomC a else recMin (side rc) (rc % 4) + atomC a
    let r1 : Int := if atomConst a then atomC a else recMax (side rc) (rc % 4) + atomC a
    let same : Bool := decide (l0 = l1 ∧ l0 = r0 ∧ l0 = r1)
    let apart : Bool := decide (l1 < r0 ∨ r1 < l0)
    let w := relWidth d (lc % 4)
    let inR (i : Nat) : Bool := decide (r0 ≤ i) && decide ((i : Int) ≤ r1)
    let bitAll : Bool := decide (r1 < r0) ||
      (decide (0 ≤ r0) && decide (r1 < w) &&
       (List.range w).all (fun i => !inR i || bit (recAnd (side lc) (lc % 4)) i))
    let bitNone : Bool := (List.range w).all (fun i => !(inR i && bit (recOr (side lc) (lc % 4)) i))
    match atomOp a with
    | 1 => decideAtom same apart
    | 2 => decideAtom apart same
    | 3 => decideAtom (decide (l1 < r0)) (decide (r1 ≤ l0))
    | 4 => decideAtom (decide (l1 ≤ r0)) (decide (r1 < l0))
    | 5 => decideAtom (decide (r1 < l0)) (decide (l1 ≤ r0))
    | 6 => decideAtom (decide (r1 ≤ l0)) (decide (l1 < r0))
    | 7 => decideAtom bitAll bitNone
    | 8 => decideAtom bitNone bitAll
    | _ => .always

/-- What a clause yields. -/
def clauseTile (xs : List AtomRes) : TileRes :=
  if xs.contains .never then .none else if xs.all (fun x => x == .always) then .all else .mixed

/-- What a summary tile evaluates to. -/
def tileRes (d : BitVec 256) (row col : Nat) : TileRes :=
  if recEmpty row || recEmpty col then .none
  else
    let as := relAtoms d
    let cs := (clausesOf as).map (fun c => clauseTile (c.map (fun a => atomTile d row col a)))
    let r : TileRes :=
      if as.isEmpty || cs.contains .all then .all
      else if cs.all (fun x => x == .none) then .none
      else .mixed
    if relInv d then
      match r with
      | .all => .none
      | .none => .all
      | .mixed => .mixed
    else r

end Sys2Proof.Machine
end

