-- ==== Sys2Proof/Machine/Planes.lean ====
section
/-!
DEFINITION. Sys2Proof/Machine/Planes.lean: stationary planes, tiles and the arithmetic of the matrix array
as functions of data (06 R128 to R131, R138, R139, R143, R146; 08 R173, R174).
-/

namespace Sys2Proof.Machine

open Sys2Proof

/-! ### Packing (06 R128) -/

/-- Packing depth of an element format of the list of 06 R137; 0 for any other format. -/
def packDepth (efmt : Nat) : Nat :=
  match efmt with
  | 1 => 2 | 2 => 2 | 3 => 4 | 4 => 4 | 5 => 8 | 6 => 4
  | _ => 0

/-- Bits of an element. -/
def elemBits (efmt : Nat) : Nat := 32 / packDepth efmt

/-- Contraction indices that one PE row covers. -/
def Plane.span (p : Plane) : Nat := packDepth p.efmt * (if p.sparse then 2 else 1)

/-- Contraction indices that the plane covers. -/
def Plane.kmax (p : Plane) : Nat := 64 * p.span

/-- Blocks of a column. -/
def Plane.blocks (p : Plane) : Nat := p.kmax / p.bsz

/-- Code g of PE (i, n) in a string of metadata (06 R131). -/
def Plane.code (pl : Plane) (i n g : Nat) : Nat :=
  (sget 0 pl.codes ((64 * i + n) * (packDepth pl.efmt / 2) + g)).toNat

/-- The slots of PE (i, n) that hold an index below kv, as (slot, index) (06 R128, R131, R138). -/
def Plane.slotsAt (pl : Plane) (i n : Nat) : List (Nat × Nat) :=
  let p := packDepth pl.efmt
  let all :=
    if pl.sparse then
      (List.range (p / 2)).flatMap (fun g =>
        let c := pl.code i n g
        if c % 4 < c / 4 then
          [(2 * g, 2 * p * i + 4 * g + c % 4), (2 * g + 1, 2 * p * i + 4 * g + c / 4)]
        else [])
    else (List.range p).map (fun j => (j, p * i + j))
  all.filter (fun x => decide (x.2 < pl.kv))

/-- The PE rows that can hold an index below kv. -/
def Plane.rows (pl : Plane) : List Nat := List.range (ceilDiv pl.kv (max pl.span 1))

/-- The words that the array reads: PE row and column (06 R129). -/
def Plane.used (pl : Plane) : List (Nat × Nat) :=
  pl.rows.flatMap (fun i => (List.range pl.nv).filterMap (fun n =>
    if (pl.slotsAt i n).isEmpty then none else some (i, n)))

/-- The operand that slot j of PE (i, n) holds for index k (06 R129, 04 R93). -/
def Plane.elem (pl : Plane) (i n j k : Nat) : XReal :=
  let e := elemBits pl.efmt
  let code := (sget 0 pl.words (64 * i + n)).toNat / 2 ^ (e * j) % 2 ^ e
  let b := n * pl.blocks + k / max pl.bsz 1
  let scale := if pl.sfmt = 0 then none else some (decodeScale pl.sfmt (sget 0 pl.scales b).toNat)
  blockValue pl.efmt pl.comp scale (sget 0 pl.specials b).toNat code

/-- The place of an index in column n: PE row and slot, if the plane stores it. -/
def Plane.find (pl : Plane) (n k : Nat) : Option (Nat × Nat) :=
  let i := k / max pl.span 1
  ((pl.slotsAt i n).find? (fun x => x.2 == k)).map (fun x => (i, x.1))

/-- A label of the plane; positions past the last are invalid. -/
def Plane.label (pl : Plane) (x : Nat) : Word :=
  if x < (if pl.lblKind = 1 then pl.nv else pl.kv) then sget 0 pl.labels x else badLabel

/-! ### Tiles (06 R143) -/

/-- An element of a tile. -/
def Tile.elem (t : Tile) (row n : Nat) : Word := sget t.fill t.elems (64 * row + n)

/-- Writes an element of a tile. -/
def Tile.put (t : Tile) (row n : Nat) (x : Word) : Tile :=
  { t with elems := sput t.fill t.elems (64 * row + n) x }

/-- Whether a row is empty. -/
def Tile.empty (t : Tile) (row : Nat) : Bool := bit t.mask.toNat row

/-- Clears the mask bit of a row. -/
def Tile.mark (t : Tile) (row : Nat) : Tile :=
  { t with mask := t.mask &&& ~~~(BitVec.ofNat 64 (2 ^ row)) }

/-- Tile t of a context's matrix state. -/
def Matrix.tile (m : Matrix) (t : Nat) : Tile := sget {} m.tiles t

/-- Replaces a tile. -/
def Matrix.setTile (m : Matrix) (t : Nat) (x : Tile) : Matrix :=
  { m with tiles := sput {} m.tiles t x }

/-- EMPTYCNT (06 R143). -/
def Matrix.emptyCnt (m : Matrix) : Nat :=
  ((List.range 16).map (fun t => (List.range 64).countP (fun r => (m.tile t).empty r))).sum

/-- A relation slot. -/
def Matrix.slot (m : Matrix) (k : Nat) : BitVec 256 := sget 0 m.slots k

/-- Byte i of metadata register j. -/
def Matrix.meta (m : Matrix) (j i : Nat) : Byte := sget 0 m.metas (1024 * j + i)

/-- The 4-bit codes that the p registers from j give for a plane of packing depth p (06 R131). -/
def Matrix.codesFrom (m : Matrix) (j p : Nat) : List (Nat × Byte) :=
  (List.range (2048 * p)).filterMap (fun x =>
    let b := (m.meta (j + x / 2048) (x % 2048 / 2)).toNat
    let c := if x % 2 = 0 then b % 16 else b / 16
    if c = 0 then none else some (x, BitVec.ofNat 8 c))

/-- Entry e of attenuation table a (08 R176). -/
def Matrix.atten (m : Matrix) (a e : Nat) : Half := sget 0 m.att (256 * a + e)

/-! ### Accumulation (06 R138, R139) -/

/-- The exact sum of products. -/
def dotExact : List (XReal × XReal) → XReal
  | [] => xzero
  | x :: xs => xs.foldl (fun acc y => (xadd .rne acc (xmul y.1 y.2).1).1) (xmul x.1 x.2).1

/-- An exact integer value. -/
def xrealInt : XReal → Int
  | .fin s n d => if s then -((n / d : Nat) : Int) else ((n / d : Nat) : Int)
  | .inf _ => 0
  | .nan _ => 0

/-- One step of an accumulation: the exact sum x of a PE row joins s. -/
def accStep (int8 : Bool) (s : Word) (x : XReal) : Word :=
  if int8 then i32 (s.toInt + xrealInt x)
  else rne32 (xadd .rne (f32x s) x).1

/-- The steps of an element in order; a PE row without products does nothing. -/
def accumulate (int8 : Bool) (s : Word) (steps : List (List (XReal × XReal))) : Word :=
  steps.foldl (fun s ts => if ts.isEmpty then s else accStep int8 s (dotExact ts)) s

/-! ### Admission at one chunk (07 R160, R163, R164) -/

/-- The binding as the rows of a chunk meet it: mode (0 none, 1 MN, 2 MK), the fill code, whether a
summary tile (row granule, other granule) is NONE, and whether the labels admit a pair. -/
structure Bound where
  mode  : Nat := 0
  fill  : Nat := 0
  none  : Nat → Nat → Bool := fun _ _ => false
  holds : Nat → Nat → Bool := fun _ _ => true

/-- Whether a pair is excluded. -/
def Bound.excluded (b : Bound) (m x : Nat) : Bool :=
  b.mode != 0 && (b.none (m / 8) (x / 8) || !b.holds m x)

/-- The pattern of a fill code (07 R160). -/
def fillPattern (c : Nat) : Option Word :=
  match c with
  | 0 => some 0xFF800000
  | 1 => some 0
  | 2 => none
  | _ => some 0x7FC00000

/-- Row m of an MMA or MMAR on its tile: fills, accumulations and the mask bit. `admits` says whether MK
mode admits some pair of the row (06 R138, R143, 07 R160). -/
def Tile.row (t : Tile) (bd : Bound) (int8 : Bool) (m nv : Nat) (admits : Bool)
    (steps : Nat → List (List (XReal × XReal))) : Tile :=
  let rw := m % 64
  let t1 := (List.range nv).foldl (fun t n =>
    if bd.mode == 1 && bd.excluded m n then
      match fillPattern bd.fill with
      | some x => t.put rw n x
      | none => t
    else t.put rw n (accumulate int8 (t.elem rw n) (steps n))) t
  let clear :=
    match bd.mode with
    | 0 => true
    | 1 => (List.range nv).any (fun n => !bd.excluded m n)
    | _ => admits
  if clear then t1.mark rw else t1

/-! ### TROW (06 R146) -/

/-- TROW.max of a row. -/
def rowMaxOf (t : Tile) (row : Nat) : Word :=
  if t.empty row then 0xFF800000
  else (List.range 63).foldl (fun acc n => fmaxNan acc (t.elem row (n + 1))) (fmaxNan (t.elem row 0)
    (t.elem row 0))
where
  /-- The larger of two elements; a NaN makes the result NaN. -/
  fmaxNan (a b : Word) : Word :=
    if (f32x a).isNan || (f32x b).isNan then 0x7FC00000 else fmax32 a b

/-- TROW.sum of a row. -/
def rowSumOf (t : Tile) (row : Nat) : Word :=
  if t.empty row then 0
  else (List.range 64).foldl (fun s n => rne32 (xadd .rne (f32x s) (f32x (t.elem row n))).1) 0

/-- Changes every element of a row. -/
def Tile.mapRow (t : Tile) (row : Nat) (f : Word → Word) : Tile :=
  (List.range 64).foldl (fun t n => t.put row n (f (t.elem row n))) t

/-- TROW.rescale of a row by two words. -/
def Tile.rescaleRow (t : Tile) (row : Nat) (a b : Word) : Tile :=
  if t.empty row then t
  else
    let d := rne32 (xadd .rne (f32x a) (xneg (f32x b))).1
    let f := w32 (fpExp2 d.toNat).code
    t.mapRow row (fun v => rne32 (xmul (f32x v) (f32x f)).1)

/-- TROW.norm of a row by a word. -/
def Tile.normRow (t : Tile) (row : Nat) (a : Word) : Tile :=
  if t.empty row then t.mapRow row (fun _ => 0)
  else t.mapRow row (fun v => rne32 (xdiv (f32x v) (f32x a)).1)

/-- A TMOV conversion (06 R145): bytes written and the value of an element. -/
def tmovConv (fmt : Nat) (x : Word) : Nat :=
  match fmt with
  | 0 => x.toNat
  | 1 => (cvtFF bf16 .rne false (f32x x)).code
  | 2 => (cvtFF fp16 .rne false (f32x x)).code
  | 3 => (cvtFF e4m3 .rne true (f32x x)).code
  | _ => (cvtFF e5m2 .rne true (f32x x)).code

/-- Bytes of an element that TMOV writes. -/
def tmovBytes (fmt : Nat) : Nat :=
  match fmt with
  | 0 => 4
  | 1 => 2
  | 2 => 2
  | _ => 1

/-! ### Ranks (08 R173, R174) -/

/-- Whether lane j with key x precedes lane k with key y. -/
def precedes (type : Nat) (x : Nat × Word) (y : Nat × Word) : Bool :=
  let gt (a b : Word) : Bool :=
    match type with
    | 0 =>
      if (f32x a).isNan then false
      else if (f32x b).isNan then true
      else xlt (f32x b) (f32x a)
    | 1 => decide (b.toInt < a.toInt)
    | _ => decide (b.toNat < a.toNat)
  gt x.2 y.2 || (!gt y.2 x.2 && decide (x.1 < y.1))

/-- Inserts a lane in rank order. -/
def rankInsert (type : Nat) (x : Nat × Word) : List (Nat × Word) → List (Nat × Word)
  | [] => [x]
  | y :: ys => if precedes type x y then x :: y :: ys else y :: rankInsert type x ys

/-- The lanes in rank order. -/
def rankOrder (type : Nat) (xs : List (Nat × Word)) : List Nat :=
  (xs.foldl (fun acc x => rankInsert type x acc) []).map (fun x => x.1)

/-- L of a packet header. -/
def hdrL (h : DWord) : Nat := bits h.toNat 15 0
/-- T of a packet header. -/
def hdrT (h : DWord) : Nat := bits h.toNat 31 16
/-- Attenuation table of a packet header. -/
def hdrAtt (h : DWord) : Nat := bits h.toNat 35 32
/-- The row scale of a packet header. -/
def hdrScale (h : DWord) : XReal := decodeFp bf16 (bits h.toNat 63 48)
/-- Validity of a header. -/
def hdrOk (h : DWord) : Bool :=
  decide (1 ≤ hdrL h) && decide (hdrL h ≤ 256) && decide (hdrT h ≤ hdrL h) && decide (hdrAtt h ≤ 3) &&
  bits h.toNat 47 36 == 0
/-- Bytes of a packet. -/
def packetBytes (t : Nat) : Nat := 8 + 4 * ceilDiv t 4

end Sys2Proof.Machine
end

