-- ==== Sys2Proof/Machine/Tensor.lean ====
section
/-!
DEFINITION. Sys2Proof/Machine/Tensor.lean: tensor descriptors and compander tables (18 R345 to R348,
04 R95 to R98), and QNT and DQN, which read a compander table (05 R121 to R123).
-/

namespace Sys2Proof.Machine

open Sys2Proof

/-! ### Fields of a TDT entry (18 R346) -/

/-- Field of a TDT entry. -/
def tdtField (t : BitVec 512) (hi lo : Nat) : Nat := bits t.toNat hi lo
/-- Element format. -/
def tdtEfmt (t : BitVec 512) : Nat := tdtField t 3 0
/-- Scale format. -/
def tdtSfmt (t : BitVec 512) : Nat := tdtField t 5 4
/-- Block size. -/
def tdtBlock (t : BitVec 512) : Nat := if bit t.toNat 6 then 16 else 32
/-- Scales lie at scloff. -/
def tdtSep (t : BitVec 512) : Bool := bit t.toNat 7
/-- Compander id. -/
def tdtCmp (t : BitVec 512) : Nat := tdtField t 10 8
/-- A label plane is present. -/
def tdtLbl (t : BitVec 512) : Bool := bit t.toNat 11
/-- A summary plane is present. -/
def tdtSum (t : BitVec 512) : Bool := bit t.toNat 12
/-- Dimensions less one. -/
def tdtNdim (t : BitVec 512) : Nat := tdtField t 14 13
/-- Extent of a dimension. -/
def tdtDim (t : BitVec 512) (d : Nat) : Nat := tdtField t (79 + 16 * d) (64 + 16 * d)
/-- Stride of a dimension from 1 on. -/
def tdtStride (t : BitVec 512) (d : Nat) : Nat :=
  if d = 0 then 0 else tdtField t (159 + 32 * d) (128 + 32 * d)
/-- Tile rows; 0 counts as 1. -/
def tdtTrows (t : BitVec 512) : Nat := max 1 (tdtField t 271 256)
/-- Tile columns; 0 counts as 1. -/
def tdtTcols (t : BitVec 512) : Nat := max 1 (tdtField t 287 272)
/-- Bytes between labels. -/
def tdtLblStride (t : BitVec 512) : Nat := tdtField t 319 288
/-- Scale offset. -/
def tdtScloff (t : BitVec 512) : Nat := tdtField t 383 320
/-- Label plane offset. -/
def tdtLbloff (t : BitVec 512) : Nat := tdtField t 447 384
/-- The offset of the scale of block b of row r of a tensor whose scales lie apart; NB is the number of blocks of a
row (18 R348). No instruction reads scales there: a request copies elements (14 R302), and a command takes the scales
from where its control word says (06 R131, R136). -/
def tdtScaleOff (t : BitVec 512) (nb r b : Nat) : Nat :=
  tdtScloff t + (if tdtEfmt t = 5 then 2 else 1) * (r * nb + b)
/-- Summary plane offset. -/
def tdtSumoff (t : BitVec 512) : Nat := tdtField t 511 448

/-- Validity of a TDT entry (18 R347). -/
def tdtValid (t : BitVec 512) : Bool :=
  let e := tdtEfmt t
  let f := tdtSfmt t
  decide (1 ≤ e) && decide (e ≤ 7) && f != 3 &&
  (f == 0 || e == 3 || e == 4 || e == 5) && !(e == 5 && f == 0) && !(e == 6 && tdtCmp t != 0) &&
  (List.range 4).all (fun d =>
    if d ≤ tdtNdim t then tdtDim t d != 0 else tdtDim t d == 0 && tdtStride t d == 0) &&
  !(tdtSum t && !tdtLbl t) &&
  (!tdtLbl t || (tdtLblStride t % 4 == 0 && decide (4 ≤ tdtLblStride t))) &&
  tdtField t 159 128 == 0 && tdtField t 63 15 == 0

/-! ### Reading entries (18 R345, 04 R98) -/

/-- n bytes at a virtual address of a context, or the first address at which a load would fail: it does not
translate, its home refuses it, or its module-tier unit fails both reads (18 R345, 22 R408). -/
def State.virtBytes (s : State) (ctx va : Nat) : Nat → Except Nat (List Byte)
  | 0 => .ok []
  | n + 1 =>
    match s.translate ctx va .read with
    | .error _ => .error va
    | .ok p =>
      if (s.transferFails p).isSome then .error va
      else
      match s.virtBytes ctx (va + 1) n with
      | .error a => .error a
      | .ok bs => .ok (s.rdByte p :: bs)

/-- The key of an entry in the core's copies. -/
def tdtKey (ctx id : Nat) : Nat := ctx * 4096 + id

/-- The virtual address of an entry. -/
def State.tdtAddr (s : State) (ctx id : Nat) : Nat := (s.ctxD ctx).tdtbase.toNat + 64 * id

/-- An entry as the device reads it: a cached copy until a DFENCE, or memory (04 R98, log 22); for a deterministic
launch memory (24 R421). -/
def State.tdtLook (s : State) (ctx id : Nat) : Except Nat (BitVec 512) :=
  let copy := s.core.tdtCache.find? (fun x => x.1 == tdtKey ctx id)
  match copy with
  | some x =>
    if (s.detOn s.core.num).isNone && Config.keepCopy s.fresh (tdtKey ctx id) then .ok x.2
    else (s.virtBytes ctx (s.tdtAddr ctx id) 64).map (fun bs => BitVec.ofNat 512 (fromBytes bs))
  | none =>
    (s.virtBytes ctx (s.tdtAddr ctx id) 64).map (fun bs => BitVec.ofNat 512 (fromBytes bs))

/-- The core keeps a copy of an entry that it read. -/
def State.tdtNote (s : State) (ctx id : Nat) : State :=
  match s.tdtLook ctx id with
  | .ok t => s.onCore (fun c => { c with tdtCache := sins c.tdtCache (tdtKey ctx id) t })
  | .error _ => s

/-- Why a compander cannot be used (04 R95, R96, 18 R345). -/
inductive CompFail where
  | badId | badTable
  /-- An address of the table does not translate. -/
  | absent (va : Nat)
  deriving DecidableEq, Repr

/-- The code of a compander fault. -/
def CompFail.code : CompFail → Nat
  | .badId => 0x011
  | .badTable => 0x010
  | .absent _ => 0x010

/-- The compander that an id names: none for id 0. -/
def State.compander (s : State) (ctx id : Nat) : Except CompFail (Option (BitVec 512)) :=
  if id = 0 then .ok none
  else if 4 < id then .error .badId
  else if (s.ctxD ctx).tdtcnt.toNat ≤ 4091 + id then .error .badTable
  else
    match s.tdtLook ctx (4091 + id) with
    | .error a => .error (.absent a)
    | .ok t => if compValid t then .ok (some t) else .error .badTable

/-- The core keeps a copy of a compander table that it read. -/
def State.compNote (s : State) (ctx id : Nat) : State :=
  if id = 0 then s else s.tdtNote ctx (4091 + id)

/-- A tensor as a command reads it at issue. -/
structure Tensor where
  tdt  : BitVec 512
  comp : Option (BitVec 512)

/-- A fault of cause group 8 or 9 with a control word and a second word of detail. -/
def engTrap (group code cw d1 : Nat) : Fail :=
  .trap { group := group, code := code, d0 := w32 cw, d1 := w32 d1 }

/-- An address of a descriptor at which a load fails, as a load of the lane meets it (DEDUCED, log 34). -/
def State.descFail (s : State) (l va : Nat) : Fail :=
  (s.transCheck l va .read false <|> s.readRefused l va 64).getD (.trap (transTrap 2 l va .read))

/-- A compander fault at an instruction. -/
def State.compFail (s : State) (l cw d1 : Nat) (f : CompFail) : Fail :=
  match f with
  | .absent a => s.descFail l a
  | .badId => engTrap 8 0x011 cw d1
  | .badTable => engTrap 8 0x010 cw d1

/-- Checks 1 to 3 of 06 R147 for the capability that a control word names. -/
def State.tensor (s : State) (c : CapUse) (l cw : Nat) : Except Fail Tensor :=
  let ctx := s.wave.ctx
  let tid := capTid c.cap
  if !c.tag then .error (.trap (c.trap 1 l 0))
  else if Nat.land (capPerm c.cap) pEngine != pEngine then .error (.trap (c.trap 2 l 0))
  else if min (s.ctxD ctx).tdtcnt.toNat 4092 ≤ tid then .error (engTrap 8 0x003 cw tid)
  else
    match s.tdtLook ctx tid with
    | .error a => .error (s.descFail l a)
    | .ok t =>
      if !tdtValid t then .error (engTrap 8 0x003 cw tid)
      else
        match s.compander ctx (tdtCmp t) with
        | .error f => .error (s.compFail l cw tid f)
        | .ok comp => .ok { tdt := t, comp := comp }

/-- The core keeps copies of what a command read of a tensor. -/
def State.tensorNote (s : State) (ctx tid : Nat) (t : Tensor) : State :=
  (s.tdtNote ctx tid).compNote ctx (tdtCmp t.tdt)

/-! ### QNT and DQN (05 R121 to R123) -/

/-- A control word that R121 does not admit. -/
def qntBad (cw : Nat) : Bool := bits cw 31 24 != 0 || bits cw 7 6 != 0 || bits cw 1 0 == 3

/-- The element format of a control word, as a TDT entry numbers it. -/
def qntEfmt (cw : Nat) : Nat := 3 + bits cw 1 0

/-- The block scale of a control word. -/
def qntScale (cw : Nat) : XReal := decodeScale (1 + bits cw 2 2) (bits cw 15 8)

/-- QNT and DQN: the control word and its compander, read once at issue, then each lane. -/
def State.blockWord (s : State) (st : Stall) (d a b : Reg)
    (op : Nat → Option (BitVec 512) → Word → Rounded) : Out :=
  let u : Uses := { rv := [(a.toNat, 1)], wv := [(d.toNat, 1)], rs := [b.toNat] }
  s.gate u (fun s1 =>
    if !s1.wave.anyActive then s1.retire st
    else
      let cw := (s1.readS b.toNat).toNat
      let l := s1.wave.lowest
      if qntBad cw then
        s1.trapHere { group := 3, code := 0x003, d0 := w32 (l % 256), d1 := s1.readV l a.toNat,
                      d2 := w32 cw } l
      else
        match s1.compander s1.wave.ctx (bits cw 5 3) with
        | .error f => s1.raise l (s1.compFail l cw 0 f)
        | .ok comp =>
          (s1.compNote s1.wave.ctx (bits cw 5 3)).compute st latX (.v d.toNat) (fun i =>
            let x := s1.readV i a.toNat
            ofRounded (op cw comp x) x (w32 cw)))

/-- QNT (05 R122). -/
def execQnt (st : Stall) (d a b : Reg) (s : State) : Out :=
  s.blockWord st d a b (fun cw comp x => quantise (qntEfmt cw) comp (qntScale cw) (f32x x))

/-- DQN (05 R123): the exact value rounded to FP32; only that rounding raises flags. -/
def execDqn (st : Stall) (d a b : Reg) (s : State) : Out :=
  s.blockWord st d a b (fun cw comp x =>
    let r := roundFp fp32 .rne
      (blockValue (qntEfmt cw) comp (some (qntScale cw)) (bits cw 23 16)
        (x.toNat % (if qntEfmt cw = 5 then 16 else 256)))
    { r with flags := if r.flags &&& fNV != 0 then 0 else r.flags })

end Sys2Proof.Machine
end

