-- ==== Sys2Proof/Machine/Engine.lean ====
section
/-!
DEFINITION. Sys2Proof/Machine/Engine.lean: what every engine of a core shares: the waves its commands
belong to, Vat bytes and registers that may still read as before a write (06 R141, R142), mapped granules
it fills (13 R290), and the completion of a command (02 R35).
-/

namespace Sys2Proof.Machine

open Sys2Proof

/-! ### Waves of the core by number -/

/-- A wave of the core by its number. -/
def State.waveBy (s : State) (wid : Nat) : Option Wave :=
  if s.wave.wid == wid then some s.wave else s.core.waves.find? (fun w => w.wid == wid)

/-- Changes a wave of the core. -/
def State.onWid (s : State) (wid : Nat) (f : Wave → Wave) : State :=
  if s.wave.wid == wid then s.onWave f
  else s.onCore (fun c => { c with waves := updateWhere (fun w => w.wid == wid) f c.waves })

/-- Whether a wave runs a deterministic launch. -/
def State.detBy (s : State) (wid : Nat) : Bool := ((s.waveBy wid).map (fun w => w.det)).getD false

/-! ### Reads that may be old (06 R141, R142) -/

/-- Whether a command may still use the bytes before a write. -/
def Unfenced.appliesTo (u : Unfenced) (c : ArrayCmd) : Bool :=
  let who : Option Nat := match u.writer with
    | some w => some w
    | none => if c.follow.isSome then none else some c.wid
  match who with
  | none => false
  | some w =>
    match u.fenced.find? (fun x => x.1 == w) with
    | none => true
    | some x => decide (c.stamp < x.2)

/-- The byte that a command uses: the present one, or the one before a write that applies. -/
def racePick (n off : Nat) (cur : Byte) : List Unfenced → Byte
  | [] => cur
  | u :: us =>
    if u.off ≤ off ∧ off < u.off + u.olds.length then
      if Config.raceNew n off then cur else racePick (n + 1) off (u.olds.getD (off - u.off) 0) us
    else racePick n off cur us

/-- Byte `b` of a register as a command uses it: of the present value, or of one before a write that applies. -/
def racePickReg (n k b : Nat) (cur : Word) : List Word → Byte
  | [] => BitVec.ofNat 8 (cur.toNat / 2 ^ (8 * b))
  | old :: olds =>
    if Config.raceNew n (2 ^ 32 + k) then BitVec.ofNat 8 (cur.toNat / 2 ^ (8 * b))
    else racePickReg (n + 1) k b old olds

/-- A Vat byte as a command of a core engine reads it. -/
def State.engByte (s : State) (gid : Nat) (c : ArrayCmd) (off : Nat) : Byte :=
  let g := s.groupD gid
  if g.unfenced.isEmpty || s.detBy c.wid then g.rdByte off
  else racePick s.fresh off (g.rdByte off) (g.unfenced.filter (fun u => u.appliesTo c))

/-- n Vat bytes as a number. -/
def State.engRd (s : State) (gid : Nat) (c : ArrayCmd) (off n : Nat) : Nat :=
  fromBytes ((List.range n).map (fun i => s.engByte gid c (off + i)))

/-- A register of a lane as a queued command reads it: 0 once the fibre has ended (06 R136). -/
def State.engReg (s : State) (c : ArrayCmd) (l r : Nat) : Word :=
  match s.waveBy c.wid with
  | none => 0
  | some w =>
    let f := w.fib l
    if !f.alive then 0
    else if w.det then f.reg r
    else
      let olds := (f.unfenced.filter (fun x => x.1 == r && (x.2.1 == 0 || decide (c.stamp < x.2.1)))).map
        (fun x => x.2.2)
      w32 (fromBytes ((List.range 4).map (fun b => racePickReg s.fresh (1024 * l + 4 * r + b) b (f.reg r) olds)))

/-- Byte x of the lane byte array at V field v (06 R136). `bases` holds the lanes and their window bases
at issue. -/
def State.laneByte (s : State) (c : ArrayCmd) (g v x : Nat) : Nat :=
  let l := x % (4 * g) / 4
  match c.bases.find? (fun y => y.1 == l) with
  | none => 0
  | some y =>
    let w := s.engReg c l (y.2 + v + x / (4 * g))
    bits w.toNat (8 * (x % 4) + 7) (8 * (x % 4))

/-- The lanes whose fibre has not ended, with their window bases. -/
def Wave.laneBases (w : Wave) : List (Nat × Nat) :=
  (List.range (min w.g w.lanes.length)).filterMap (fun l =>
    if (w.fib l).alive then some (l, (w.fib l).base) else none)

/-- The registers of a lane byte array of n registers, in every lane that has not ended. -/
def Wave.laneRegs (w : Wave) (v n : Nat) : List (Nat × Nat) :=
  w.laneBases.flatMap (fun x => (List.range n).map (fun i => (x.1, x.2 + v + i)))

/-- The same, as what a word uses. -/
def Wave.laneUses (w : Wave) (v n : Nat) : List RegUse :=
  w.laneBases.flatMap (fun x => (List.range n).map (fun i =>
    { file := .v, lane := x.1, reg := x.2 + v + i, name := v + i, who := x.1 }))

/-- How many registers a lane byte array of n bytes takes. -/
def Wave.laneSpan (w : Wave) (n : Nat) : Nat := ceilDiv n (4 * max w.g 1)

/-- How many of them the array reaches in one lane: the last register holds words of the lower lanes only. -/
def Wave.laneCount (w : Wave) (n l : Nat) : Nat := (ceilDiv n 4 + max w.g 1 - 1 - l) / max w.g 1

/-- The registers that a lane byte array of n bytes reaches. -/
def Wave.byteRegs (w : Wave) (v n : Nat) : List (Nat × Nat) :=
  w.laneBases.flatMap (fun x => (List.range (w.laneCount n x.1)).map (fun i => (x.1, x.2 + v + i)))

/-- The same, as what a word uses. -/
def Wave.byteUses (w : Wave) (v n : Nat) : List RegUse :=
  w.laneBases.flatMap (fun x => (List.range (w.laneCount n x.1)).map (fun i =>
    { file := .v, lane := x.1, reg := x.2 + v + i, name := v + i, who := x.1 }))

/-- Checks 11 and 12 of 06 R147; the register that check 12 reports as in log 14. -/
def State.laneCheck (s : State) (v bytes : Nat) : Option Fail :=
  let n := s.wave.laneSpan bytes
  if 64 < v + n then
    some (.trap { group := 12, code := 0x021, d0 := w32 (s.wave.lowest % 256 + (v + n - 1) % 256 * 256),
                  d1 := w32 (v + n - 1) })
  else
    s.wave.laneBases.findSome? (fun x =>
      let k := s.wave.laneCount bytes x.1
      if k ≠ 0 ∧ (s.wave.fib x.1).alloc < x.2 + v + k then
        some (.trap (rangeTrap s.wave x.1 (max v ((s.wave.fib x.1).alloc - x.2))))
      else none)

/-- A Vat write by an engine on behalf of a wave. -/
def State.engWrite (s : State) (gid off : Nat) (bs : List Byte) (wid : Nat) : State :=
  let s1 := if s.detBy wid then s
    else s.onGroup gid (fun g => g.noteWrite off bs.length wid)
  s1.vatWrite gid off bs

/-! ### Completion -/

/-- Writes registers at the completion of a command, where no later instruction has written them. -/
def State.landEng (s : State) (wid stamp ctr : Nat) (xs : List (RegFile × Nat × Nat × Word)) : State :=
  s.onWid wid (fun w =>
    let live := w.engW.filter (fun e => e.1 == stamp)
    let w1 := xs.foldl (fun w x =>
      if live.any (fun e => e.2 == (x.1, x.2.1, x.2.2.1)) && (w.fib x.2.1).alive then w.landLate s.fresh ctr x
      else w) w
    { w1 with engW := w1.engW.filter (fun e => e.1 != stamp) })

/-- A command has completed: its counter falls and its instruction retires (02 R35, 10 R231). -/
def State.doneEng (s : State) (wid : Nat) (ctr : Option Nat) : State :=
  match ctr with
  | none => s
  | some k => s.onWid wid (fun w =>
    { w.decCtr k with retcnt := w.retcnt + 1, stalled := false })

/-- A command's arrival at the barrier of its copy request (14 R306). -/
def State.followDone (s : State) (f : Option (Nat × Nat)) : State :=
  match f with
  | none => s
  | some x => (s.fillGranules x.1 ((s.groupD x.1).unfilled x.2 16)).barEvent x.1 x.2 (fun b => { b with arrivals := b.arrivals + 1 })

/-- Records a register's pending engine write. -/
def Wave.expect (w : Wave) (stamp : Nat) (xs : List (RegFile × Nat × Nat)) : Wave :=
  let w1 := w.supersede xs
  { w1 with engW := w1.engW ++ xs.map (fun x => (stamp, x)) }

/-- The wave's group's Vat, and its size; 0 for a task wave (09 R183). -/
def State.vatSize (s : State) : Nat :=
  match s.wave.group with
  | some gid => (s.groupD gid).size
  | none => 0

/-! ### Engine work that meets a fault -/

/-- The record of a cause against an engine's work for a wave. -/
def State.engRecord (s : State) (i : TrapInfo) (wid : Nat) (fibid : Word) (pc : Nat) : FaultRecord :=
  match s.waveBy wid with
  | some w => { info := i, fibid := fibid, pc := pc, wctx := w.slot, core := s.core.num, ctx := w.ctx }
  | none => { info := i, fibid := fibid, pc := pc, core := s.core.num }

/-- A wave ends failed with a record (20 R383); the first cause stands. -/
def State.failWid (s : State) (wid : Nat) (r : FaultRecord) : State :=
  s.onWid wid (fun w => { w with
    dying := match w.dying with
      | some x => some x
      | none => some r
    turnDone := true })

/-- Reports a fault of an array command's work: the record goes to the launch's error queue and the trap is
pending for the wave, or its group fails when the fibre has ended (20 R385). -/
def State.engReport (s : State) (c : ArrayCmd) (i : TrapInfo) : State :=
  match s.waveBy c.wid with
  | none => s
  | some x =>
    let ended := !(x.fib c.lane).alive
    let r := { s.engRecord i c.wid c.fibid c.pc with retired := ended }
    let s1 := s.postError x.launch { r with unhandled := ended }
    if ended then s1.failWid c.wid r
    else s1.onWid c.wid (fun w =>
      { w with pend19 := w.pend19 ++
        [{ info := i, fibid := c.fibid, pc := c.pc, seq := s.errorSeq x.launch, wctx := r.wctx, core := r.core }] })

/-- A home refuses a read of an array command. -/
def State.engRefuse (s : State) (c : ArrayCmd) (code addr w : Nat) : State :=
  s.engReport c (refusalInfo code { lane := c.lane, virt := addr } w
    (match s.waveBy c.wid with
      | some x => !(x.fib c.lane).alive
      | none => true))

/-! ### Mapped granules that an array command touches (13 R290) -/

/-- Whether a fibre has an access outstanding that it issued before a time. -/
def State.earlierBy (s : State) (wid stamp lane : Nat) : Bool :=
  match s.waveBy wid with
  | none => false
  | some w => w.outst.any (fun o => decide (o.stamp < stamp) && o.reqs.any (fun q => q.lane == lane))

/-- Whether an access that an array command makes for its fibre waits for an earlier one (12 R252, R257, R259);
a follow-on command belongs to no fibre's order. -/
def State.cmdWaits (s : State) (c : ArrayCmd) : Bool :=
  c.follow.isNone && s.earlierBy c.wid c.stamp c.lane

/-- Whether an access that an array command itself makes, a load or a Vat write, waits for an earlier one of its
fibre, those of the tile port and of the Blend unit among them (12 R252, R257, R259). -/
def State.cmdFollows (s : State) (c : ArrayCmd) : Bool :=
  s.cmdWaits c || (c.follow.isNone && s.core.engBefore c.wid c.stamp (fun l => l == c.lane))

/-- The state as an access on behalf of a group's context sees it. -/
def State.asGroup (s : State) (gid : Nat) : State :=
  s.onWave (fun w => { w with ctx := (s.groupD gid).ctx })

/-- Fills the granules of Vat ranges. A fill is a plain load of the command's fibre: with an earlier access of it
outstanding the command waits (`none`), and a fault is reported as the command's own. -/
def State.fillRanges (s : State) (c : ArrayCmd) (gid : Nat) : List (Nat × Nat) → Except (Option Fail) State
  | [] => .ok s
  | x :: xs =>
    let gs := (s.groupD gid).unfilled x.1 x.2
    if gs.isEmpty then s.fillRanges c gid xs
    else if s.cmdWaits c then .error none
    else
      match (s.asGroup gid).engFillCheck gid c.lane x.1 x.2 with
      | some f => .error (some f)
      | none => (s.fillGranules gid gs).fillRanges c gid xs

/-- The front array command cannot fill a granule: it is dropped with nothing further performed. Its fault is
reported against its wave as 20 R385 has it for a refused read, and its counter falls; a follow-on command is
abandoned under 14 R305 (DESIGN CHOICE, log 38: the command has left the issue, so no trap of it is precise). -/
def State.fillFail (s : State) (c : ArrayCmd) (i : TrapInfo) : State :=
  let s1 := s.onCore (fun k => { k with arrayQ := k.arrayQ.drop 1 })
  match c.follow with
  | some x =>
    let launch := ((s1.waveBy c.wid).map (fun w => w.launch)).getD 0
    (s1.postError launch { s1.engRecord i c.wid c.fibid c.pc with abandoned := true }).breakBar x.1 x.2 false
  | none =>
    ((s1.engReport c i).doneEng c.wid c.ctr).onWid c.wid (fun w =>
      { w with engW := w.engW.filter (fun e => e.1 != c.stamp) })

/-- Gives the front array command a token to wait on, with the fault that it met, or takes it away. -/
def State.setToken (s : State) (tok : Option Word) (why : TrapInfo := {}) : State :=
  s.onCore (fun k => { k with arrayQ := updateAt (fun x => { x with token := tok, why := why }) 0 k.arrayQ })

/-- The front array command needs the steward, or the end of a move, for a page: it takes interest in the page's
entry, `post` sends the record, and it waits until the entry is woken (18 R328, 20 R381). -/
def State.fillPark (s : State) (c : ArrayCmd) (ctx page : Nat) (i : TrapInfo) (post : Bool) : State :=
  let d := dieOf s.core.num
  let r := s.interest d ctx page
  match r.2 with
  | none => s
  | some tok =>
    (if post then
        (r.1.walkMet i ctx page).postFor d ctx tok (s.engRecord (i.posted tok) c.wid c.fibid c.pc)
      else r.1).setToken (some tok) i

/-- The front array command looks at the entry that it waits on: woken, it gives its interest back, and it goes on or,
on failure, its fault is its own (18 R328, 20 R381). -/
def State.fillAnswer (s : State) (c : ArrayCmd) (ctx : Nat) (tok : Word) : State :=
  match s.tokenEntry ctx tok with
  | none => s.setToken none
  | some x =>
    match x.2.state with
    | .pending => s
    | .succeeded => (s.giveToken ctx tok 1).setToken none
    | .failed => ((s.giveToken ctx tok 1).setToken none).fillFail c (c.why.handed tok)

/-- What becomes of the front array command when a fill stops it. A page that it has lost is lost under a token of its
own, which the report names (20 R374). -/
def State.fillWait (s : State) (c : ArrayCmd) (ctx : Nat) (f : Option Fail) : State :=
  match f with
  | none => s
  | some (.trap i) => s.homeOpen.fillFail c i
  | some (.steward i page) => s.fillPark c ctx page i true
  | some (.moving i page) => s.fillPark c ctx page i false
  | some (.integrity i page) =>
    let d := dieOf s.core.num
    let r := s.interest d ctx page
    match r.2 with
    | none => s
    | some tok =>
      ((r.1.integrityFail ctx page i (s.engRecord i c.wid c.fibid c.pc) d).giveToken ctx tok 1).fillFail c
        (i.handed tok)

end Sys2Proof.Machine
end

