-- ==== Sys2Proof/Machine/ArrayIssue.lean ====
section
/-!
DEFINITION. Sys2Proof/Machine/ArrayIssue.lean: the words that enter the array's command queue, with the
checks they make at issue: LDSTAT, SWAP, MMA, MMAR (06 R130 to R137, R147, 08 R177), RELSET, LBLSET, LSUM,
LTEST (07 R157 to R167), RANK, UNRANK, ATTLD (08 R175 to R179) and MLD (13 R291).
-/

namespace Sys2Proof.Machine

open Sys2Proof

/-! ### The array's state at a command's place in the order (06 R147) -/

/-- The active plane, the shadow plane (their headers) and the binding. -/
structure ArrayView where
  active  : Plane
  shadow  : Plane
  binding : Quad

/-- The header that an LDSTAT gives the shadow plane. -/
def ldstatPlane (ctl : Word) (tdt : BitVec 512) (comp : Option (BitVec 512)) (sp : Bool) : Plane :=
  let c := ctl.toNat
  { empty := false, kv := bits c 10 0, nv := bits c 22 16, efmt := tdtEfmt tdt, sfmt := tdtSfmt tdt,
    bsz := tdtBlock tdt, lblKind := bits c 15 14, sparse := sp, comp := comp }

/-- The plane that a command loads, with its codes but without its operands: no queued MLD before the command
still writes the metadata that it names (log 37). -/
def Matrix.planeShape (a : Matrix) (ctl : Word) (tdt : BitVec 512) (comp : Option (BitVec 512))
    (sp : Option Num4) : Plane :=
  let hd := ldstatPlane ctl tdt comp sp.isSome
  match sp with
  | some j => { hd with codes := a.codesFrom j.toNat (packDepth hd.efmt) }
  | none => hd

/-- What a queued command fixes of the view; `a` is the core's matrix state. -/
def ArrayView.after (a : Matrix) (v : ArrayView) (c : ArrayCmd) : ArrayView :=
  match c.op with
  | .ldstat _ ctl _ _ tdt comp sp => { v with shadow := a.planeShape ctl tdt comp sp }
  | .swap => { v with active := v.shadow, shadow := v.active }
  | .lblset q => { v with binding := q }
  | .mma .. => v
  | .mmar .. => v
  | .rank .. => v
  | .unrank .. => v
  | .attld .. => v
  | .relset .. => v
  | .lsum .. => v
  | .ltest .. => v
  | .mld .. => v

/-- The view that a command issued now will meet. -/
def Core.arrayView (c : Core) : ArrayView :=
  c.arrayQ.foldl (ArrayView.after c.mat)
    { active := c.mat.active, shadow := c.mat.shadow, binding := c.mat.binding }

/-- Mode of a binding (07 R158). -/
def bindMode (q : Quad) : Nat := bits q.toNat 5 4
/-- Relation slot of a binding. -/
def bindSlot (q : Quad) : Nat := bits q.toNat 3 0
/-- Whether row summaries are read from the Vat. -/
def bindRs (q : Quad) : Bool := bit q.toNat 6
/-- Row-label address of a binding. -/
def bindRows (q : Quad) : Nat := bits q.toNat 63 32
/-- Row-summary address of a binding. -/
def bindSums (q : Quad) : Nat := bits q.toNat 95 64

/-! ### Entering the queue -/

/-- What a command lends and writes besides its operation. -/
structure ArrayUse where
  op    : ArrayOp
  lent  : Option Lent := none
  expect : List (RegFile × Nat × Nat) := []
  lanes : List Nat := []
  note  : Option Nat := none

/-- The command as it enters the queue. -/
def State.arrayCmd (s : State) (x : ArrayUse) (ctr : Option Nat) : ArrayCmd :=
  { op := x.op, word := s.wave.wordHere, wid := s.wave.wid, group := s.wave.group, ctr := ctr, pc := s.wave.pc,
    lane := s.wave.lowest, fibid := (s.wave.fib s.wave.lowest).fibid, active := x.lanes,
    bases := s.wave.laneBases, stamp := s.fresh }

/-- The core keeps copies of what a command read of the tensor that a control word names. -/
def State.noteCap (s : State) (cw : Nat) : State :=
  let tid := capTid (s.capS (bits cw 27 24)).cap
  match s.tdtLook s.wave.ctx tid with
  | .ok t => (s.tdtNote s.wave.ctx tid).compNote s.wave.ctx (tdtCmp t)
  | .error _ => s

/-- A command at issue, for reads that its checks make of the Vat. -/
def State.probe (s : State) : ArrayCmd :=
  { op := .swap, wid := s.wave.wid, lane := s.wave.lowest, stamp := s.fresh }

/-- The queue takes a command: its registers are lent, its counter is signalled. -/
def State.enqueue (s : State) (x : ArrayUse) (ctr : Option Nat) : State :=
  let c := s.arrayCmd x ctr
  (s.onCore (fun k => { k with arrayQ := k.arrayQ ++ [c] })).onWave (fun w =>
    let w1 := w.expect s.fresh x.expect
    let w2 := match ctr with
      | some k => w1.incCtr k
      | none => w1
    { w2 with lent := match x.lent with
        | some l => w2.lent ++ [l]
        | none => w2.lent })

/-- A word that enters the array's queue, which holds eight commands: with no active fibre it completes
at issue, a full queue holds it, a failing check raises its trap (06 R134, R147, 05 R125). `pre` gives the ranges
of the own Vat that the word reads at its issue: their granules are filled first (12 R268). -/
def State.arrayWord (s : State) (st : Stall) (u : Uses) (ctr : Nat)
    (chk : State → Except Fail ArrayUse)
    (pre : State → List (Nat × Nat) := fun _ => []) : Out :=
  s.gate u (fun s1 =>
    if !s1.wave.anyActive then s1.retire st
    else s1.withCtr ctr (fun s2 =>
      if 8 ≤ s2.core.arrayQ.length then s2.hold
      else s2.withEngFills ((pre s2).map (fun x => (s2.wave.group.getD 0, x.1, x.2))) (fun s3 =>
        match chk s3 with
        | .error f => s2.raise s2.wave.lowest f
        | .ok x =>
          let s4 := match x.note with
            | some cw => s3.noteCap cw
            | none => s3
          (s4.enqueue x (some ctr)).issue st)))

/-- Fails when a condition holds. -/
def failIf (b : Bool) (f : Fail) : Except Fail Unit := if b then .error f else .ok ()

/-- Fails with an optional failure. -/
def failOpt (f : Option Fail) : Except Fail Unit :=
  match f with
  | some x => .error x
  | none => .ok ()

/-- The Vat range of n bytes at an offset fails. -/
def State.outside (s : State) (off n : Nat) : Bool := decide (s.vatSize < off + n)

/-! ### LDSTAT, LDSTAT.sp and SWAP -/

/-- Four S registers and the capability quad that the second of them names. -/
def State.quadUses (s : State) (a4 : Num4) : Uses :=
  (quadReads a4.toNat).plus (quadReads (bits (s.readS (4 * a4.toNat + 1)).toNat 27 24))

/-- Whether a queued MLD still writes one of the registers j to j + p - 1. -/
def Core.mldPending (c : Core) (j p : Nat) : Bool :=
  c.arrayQ.any (fun x => match x.op with
    | .mld m _ _ _ => decide (j ≤ m) && decide (m < j + p)
    | .ldstat .. => false | .swap => false | .mma .. => false | .mmar .. => false
    | .rank .. => false | .unrank .. => false | .attld .. => false | .relset .. => false
    | .lblset _ => false | .lsum _ => false | .ltest .. => false)

/-- The checks of an LDSTAT (06 R130, R131, R137, R147). Two reaches are the model's choice, which the spec leaves
open (log 65): with an invalid Mj check 6 covers the plane bytes of every row, and check 9 looks at the codes of the
PE rows and columns that the plane uses. -/
def State.ldstatUse (s : State) (a4 : Num4) (sp : Option Num4) (ctr : Nat) : Except Fail ArrayUse := do
  let r (i : Nat) : Nat := (s.readS (4 * a4.toNat + i)).toNat
  let l := s.wave.lowest
  let cw := r 1
  let t ← s.tensor (s.capS (bits cw 27 24)) l cw
  let p := packDepth (tdtEfmt t.tdt)
  let j := (sp.getD 0).toNat
  let jOk := sp.isNone || p == 0 || (j % p == 0 && decide (j + p ≤ 16))
  let hd := ldstatPlane (w32 cw) t.tdt t.comp sp.isSome
  let pl := { hd with codes := if sp.isSome && jOk then s.core.mat.codesFrom j p else [] }
  failIf (bits cw 31 28 != 0 || bit cw 23 || bits cw 13 11 != 0 || pl.nv == 0 || decide (64 < pl.nv) ||
    pl.lblKind == 3 || pl.kv == 0 || (p != 0 && decide (pl.kmax < pl.kv))) (engTrap 9 1 cw 0)
  failIf (r 0 % 256 != 0) (engTrap 9 2 cw (r 0))
  failIf (pl.lblKind != 0 && r 2 % 4 != 0) (engTrap 9 2 cw (r 2))
  failIf ((if jOk then pl.used.any (fun x => s.outside (r 0) (4 * (64 * x.1 + x.2) + 4))
    else s.outside (r 0) (4 * (64 * (pl.rows.length - 1) + pl.nv)))) (engTrap 9 3 cw (r 0))
  failIf (pl.lblKind != 0 && s.outside (r 2) (4 * (if pl.lblKind = 1 then pl.nv else pl.kv)))
    (engTrap 9 3 cw (r 2))
  failIf (pl.sfmt != 0 && s.outside (r 3) ((pl.nv - 1) * pl.blocks + ceilDiv pl.kv pl.bsz +
    (if pl.efmt = 5 then 64 * pl.blocks else 0))) (engTrap 9 3 cw (r 3))
  failIf (p == 0) (engTrap 9 4 cw (capTid (s.capS (bits cw 27 24)).cap))
  failIf (sp.isSome && (!jOk || pl.rows.any (fun i => (List.range pl.nv).any (fun n =>
    (List.range (p / 2)).any (fun g => decide (pl.code i n g / 4 ≤ pl.code i n g % 4))))))
    (engTrap 9 6 cw j)
  return {
    op := .ldstat (w32 (r 0)) (w32 cw) (w32 (r 2)) (w32 (r 3)) t.tdt t.comp sp
    note := some cw
    lent := sp.map (fun _ => { ctr := ctr, metas := (List.range p).map (fun i => j + i) }) }

/-- LDSTAT (06 R130). -/
def execLdstat (st : Stall) (a4 : Num4) (e : Bool) (s : State) : Out :=
  s.arrayWord st (s.quadUses a4) (eCtr e) (fun s1 => s1.ldstatUse a4 none (eCtr e))

/-- LDSTAT.sp (06 R131). DEDUCED (log 37): it is held while an MLD queued before it still writes a
register that it names, so that its check of the codes reads the bits that it will load. -/
def execLdstatSp (st : Stall) (a4 j : Num4) (e : Bool) (s : State) : Out :=
  s.gate (s.quadUses a4) (fun s1 =>
    if s1.wave.anyActive && s1.core.mldPending j.toNat 8 then s1.hold
    else s1.arrayWord st (s1.quadUses a4) (eCtr e) (fun s2 => s2.ldstatUse a4 (some j) (eCtr e)))

/-- SWAP completes at issue and takes its place in the array's order (06 R132). -/
def execSwap (st : Stall) (s : State) : Out :=
  s.gate {} (fun s1 =>
    if !s1.wave.anyActive then s1.retire st
    else if 8 ≤ s1.core.arrayQ.length then s1.hold
    else (s1.enqueue { op := .swap } none).retire st)

/-! ### MMA and MMAR -/

/-- Two S registers and, with `cap`, the capability quad that the second names. -/
def State.pairUses (s : State) (a2 : BitVec 5) (cap : Bool) : Uses :=
  let u : Uses := { rs := [2 * a2.toNat, 2 * a2.toNat + 1] }
  if cap then u.plus (quadReads (bits (s.readS (2 * a2.toNat + 1)).toNat 27 24)) else u

/-- Blocks of a streamed row of an MMA. -/
def rowBlocks (tdt : BitVec 512) (sparse : Bool) : Nat :=
  64 * packDepth (tdtEfmt tdt) * (if sparse then 2 else 1) / tdtBlock tdt

/-- Bytes of the scale array that an MMA reads (06 R136). DESIGN CHOICE (log 65): for checks 11 and 12 and for
lending every block of a streamed row counts, and in block-major layout every row of a chunk, though the MMA reads
none at or above kv or M. -/
def scaleBytes (tdt : BitVec 512) (sparse : Bool) (cw : Nat) : Nat :=
  let m := bits cw 7 0 + 1
  let nb := rowBlocks tdt sparse
  let cnt := if bit cw 16 then 64 * nb * ceilDiv m 64 else m * nb
  256 * bits cw 21 17 + cnt * (if tdtEfmt tdt = 5 then 2 else 1)

/-- The Vat ranges that the labels and summaries of a bound command take. -/
def State.labelOutside (s : State) (q : Quad) (m : Nat) (sums : Bool) : Bool :=
  bindMode q != 0 &&
  (s.outside (bindRows q) (4 * m) || (sums && bindRs q && s.outside (bindSums q) (32 * ceilDiv m 8)))

/-- The bound mode does not match the plane's label kind (07 R159). -/
def modeMismatch (v : ArrayView) : Bool :=
  bindMode v.binding != 0 && bindMode v.binding != v.active.lblKind

/-- One past the highest index below kv that some valid column stores. -/
def Plane.top (pl : Plane) : Nat :=
  if !pl.sparse then pl.kv
  else (pl.rows.flatMap (fun i => (List.range pl.nv).flatMap (fun n =>
    (pl.slotsAt i n).map (fun x => x.2 + 1)))).foldl max 0

/-- Bytes of a streamed row up to the last element that the plane uses: an index at or above kv and an unstored 2:4
position are never fetched (06 R140). What a relation excludes still counts, as all M rows do (07 R163). For an MMA
that a later check refuses the reach is the model's choice, which the spec leaves open (DESIGN CHOICE, log 65): with
no active plane or a format outside the list a whole row counts, and a format of another p counts the plane's indices
at the width of its own elements. -/
def rowUsed (pl : Plane) (tdt : BitVec 512) : Nat :=
  let row := if !pl.empty && pl.sparse then 512 else 256
  if pl.empty || packDepth (tdtEfmt tdt) == 0 then row
  else min row (ceilDiv (pl.top * elemBits (tdtEfmt tdt)) 8)

/-- Checks 4 to 10 of 06 R147 and that of 07 R159 for an MMA, wherever it comes from. -/
def State.mmaChecks (s : State) (v : ArrayView) (addr cw tile tid : Nat) (tdt : BitVec 512) :
    Except Fail Unit := do
  let m := bits cw 7 0 + 1
  let p := packDepth (tdtEfmt tdt)
  let row := if !v.active.empty && v.active.sparse then 512 else 256
  failIf (bits cw 31 28 != 0 || bits cw 23 22 != 0 || bits cw 15 8 != 0) (engTrap 9 1 cw 0)
  failIf (addr % 256 != 0) (engTrap 9 2 cw addr)
  failIf (rowUsed v.active tdt != 0 && s.outside addr ((m - 1) * row + rowUsed v.active tdt) ||
    s.labelOutside v.binding m true) (engTrap 9 3 cw addr)
  failIf (p == 0 || (!v.active.empty && (tdtEfmt tdt == 6) != (v.active.efmt == 6))) (engTrap 9 4 cw tid)
  failIf (decide (16 < tile + ceilDiv m 64)) (engTrap 9 5 tile 0)
  failIf (v.active.empty || packDepth v.active.efmt != p) (engTrap 9 7 cw 0)
  failIf (modeMismatch v) (engTrap 9 9 cw 0)

/-- The tiles that M rows write. -/
def tilesOf (tile m : Nat) : List Nat := (List.range (ceilDiv m 64)).map (fun i => tile + i)

/-- The checks of an MMA (06 R135 to R137, R147). -/
def State.mmaUse (s : State) (a2 : BitVec 5) (tile : Nat) (v : Reg) (ctr : Nat) :
    Except Fail ArrayUse := do
  let addr := (s.readS (2 * a2.toNat)).toNat
  let cw := (s.readS (2 * a2.toNat + 1)).toNat
  let view := s.core.arrayView
  let cap := s.capS (bits cw 27 24)
  let t ← s.tensor cap s.wave.lowest cw
  s.mmaChecks view addr cw tile (capTid cap.cap) t.tdt
  let nbytes := if tdtSfmt t.tdt = 0 then 0 else scaleBytes t.tdt view.active.sparse cw
  failOpt (s.laneCheck v.toNat nbytes)
  return {
    op := .mma (w32 addr) (w32 cw) tile v.toNat cap.cap t.tdt t.comp (bits cw 21 17) (bits cw 16 16)
    note := some cw
    lent := some { ctr := ctr, tilesW := tilesOf tile (bits cw 7 0 + 1)
                   vread := s.wave.byteRegs v.toNat nbytes } }

/-- The registers that an MMA's scale array reads after its issue. -/
def State.mmaReads (s : State) (a2 : BitVec 5) (v : Reg) : List RegUse :=
  let cw := (s.readS (2 * a2.toNat + 1)).toNat
  match s.tensor (s.capS (bits cw 27 24)) s.wave.lowest cw with
  | .error _ => []
  | .ok t =>
    if tdtSfmt t.tdt = 0 then []
    else s.wave.byteUses v.toNat (scaleBytes t.tdt s.core.arrayView.active.sparse cw)

/-- MMA (06 R135). -/
def execMma (st : Stall) (a2 : BitVec 5) (t : Num4) (v : Reg) (e : Bool) (s : State) : Out :=
  s.arrayWord st { s.pairUses a2 true with er := s.mmaReads a2 v } (eCtr e) (fun s1 => s1.mmaUse a2 t.toNat v (eCtr e))

/-- The fault of the fill of a granule of the own Vat that a lane's command reads at its issue. -/
def State.issueFill (s : State) (l off n : Nat) : Option Fail :=
  match s.wave.group with
  | none => none
  | some gid => s.engFillCheck gid l off n

/-- The checks of an MMAR, wherever it comes from, with the headers it uses (08 R177, R179). DESIGN CHOICE (log 65):
check 3 takes the T of a header as it stands, though check 4 may find the header invalid. The place of a fault of the
fill of a header's granule is the model's choice too (DESIGN CHOICE, log 38): those of all headers in range come after
check 2 and before check 3 of any row. -/
def State.mmarChecks (s : State) (v : ArrayView) (c : ArrayCmd) (addr cw tile : Nat) :
    Except Fail (List DWord) := do
  let m := bits cw 7 0 + 1
  let stride := bits cw 15 8
  let gid := s.wave.group.getD 0
  let at_ (i : Nat) : Nat := addr + 8 * stride * i
  failIf (bits cw 31 16 != 0 || stride == 0) (engTrap 8 0x020 cw 0)
  failIf (addr % 8 != 0) (engTrap 8 0x021 cw addr)
  let hdr (i : Nat) : DWord := BitVec.ofNat 64 (s.engRd gid c (at_ i) 8)
  failOpt ((List.range m).findSome? (fun i =>
    if s.outside (at_ i) 8 then none else s.issueFill c.lane (at_ i) 8))
  failOpt ((List.range m).findSome? (fun i =>
    if s.outside (at_ i) 8 || s.outside (at_ i) (8 + hdrT (hdr i)) then
      some (engTrap 8 0x022 cw (at_ i)) else none))
  failIf (s.labelOutside v.binding m false) (engTrap 8 0x022 cw (bindRows v.binding))
  let hs := (List.range m).map hdr
  failIf (hs.any (fun h => !hdrOk h)) (engTrap 8 0x023 cw addr)
  failIf ((hs.take (m - 1)).any (fun h => decide (8 * stride < packetBytes (hdrT h))))
    (engTrap 8 0x024 cw addr)
  failIf (decide (16 < tile + ceilDiv m 64)) (engTrap 9 5 tile 0)
  failIf (v.active.empty || v.active.efmt == 6) (engTrap 9 7 cw 0)
  failIf (modeMismatch v) (engTrap 9 9 cw 0)
  return hs

/-- Where the headers of an MMAR's rows lie. -/
def headerRanges (addr cw : Nat) : List (Nat × Nat) :=
  if addr % 8 != 0 || bits cw 15 8 == 0 || bits cw 31 16 != 0 then []
  else (List.range (bits cw 7 0 + 1)).map (fun i => (addr + 8 * bits cw 15 8 * i, 8))

/-- MMAR (08 R177). -/
def execMmar (st : Stall) (a2 : BitVec 5) (t : Num4) (e : Bool) (s : State) : Out :=
  s.arrayWord st (s.pairUses a2 false) (eCtr e) (fun s1 => do
    let addr := (s1.readS (2 * a2.toNat)).toNat
    let cw := (s1.readS (2 * a2.toNat + 1)).toNat
    let hs ← s1.mmarChecks s1.core.arrayView s1.probe addr cw t.toNat
    return {
      op := .mmar (w32 addr) (w32 cw) t.toNat hs
      lent := some { ctr := eCtr e, tilesW := tilesOf t.toNat (bits cw 7 0 + 1) } })
    (fun s1 => headerRanges (s1.readS (2 * a2.toNat)).toNat (s1.readS (2 * a2.toNat + 1)).toNat)

/-! ### RELSET, LBLSET, LSUM and LTEST -/

/-- RELSET ignores the quads' tags (07 R157). -/
def execRelset (st : Stall) (a4 b4 slot : Num4) (e : Bool) (s : State) : Out :=
  s.arrayWord st ((quadReads a4.toNat).plus (quadReads b4.toNat)) (eCtr e) (fun s1 => do
    let lo := (s1.readSQuad a4.toNat).toNat
    let hi := (s1.readSQuad b4.toNat).toNat
    let d : BitVec 256 := BitVec.ofNat 256 (lo + hi * 2 ^ 128)
    failIf (!relValid d) (engTrap 9 8 (lo % 2 ^ 32) 0)
    return { op := .relset slot.toNat d })

/-- LBLSET (07 R158). -/
def execLblset (st : Stall) (a4 : Num4) (e : Bool) (s : State) : Out :=
  s.arrayWord st (quadReads a4.toNat) (eCtr e) (fun s1 => do
    let q := s1.readSQuad a4.toNat
    let cw := bits q.toNat 31 0
    failIf (bits cw 31 7 != 0 || bindMode q == 3 || bits q.toNat 127 96 != 0) (engTrap 9 1 cw 0)
    failIf (bindRows q % 4 != 0) (engTrap 9 2 cw (bindRows q))
    failIf (bindRs q && bindSums q % 32 != 0) (engTrap 9 2 cw (bindSums q))
    return { op := .lblset q })

/-- LSUM (07 R165). -/
def execLsum (st : Stall) (a4 : Num4) (e : Bool) (s : State) : Out :=
  s.arrayWord st (quadReads a4.toNat) (eCtr e) (fun s1 => do
    let q := s1.readSQuad a4.toNat
    let cw := bits q.toNat 31 0
    let src := bits q.toNat 63 32
    let dst := bits q.toNat 95 64
    let nl := bits q.toNat 127 96
    let cnt := bits cw 15 8 + 1
    failIf (bits cw 7 4 != 0 || bits cw 31 16 != 0 || nl == 0 || decide (8 * cnt < nl)) (engTrap 9 1 cw 0)
    failIf (src % 4 != 0) (engTrap 9 2 cw src)
    failIf (dst % 32 != 0) (engTrap 9 2 cw dst)
    failIf (s1.outside src (4 * nl)) (engTrap 9 3 cw src)
    failIf (s1.outside dst (32 * cnt)) (engTrap 9 3 cw dst)
    failIf (decide (src < dst + 32 * cnt) && decide (dst < src + 4 * nl)) (engTrap 9 0x00A cw src)
    return { op := .lsum q })

/-- LTEST writes Pd and Pd+1 of every active fibre when it completes; a write to P0 is discarded and leaves nothing
to wait for (07 R166, 03 R58). -/
def execLtest (st : Stall) (a2 : BitVec 5) (p slot : Num4) (e : Bool) (s : State) : Out :=
  let u := Uses.plus { wp := [p.toNat, p.toNat + 1] } (s.pairUses a2 false)
  s.arrayWord st u (eCtr e) (fun s1 => do
    let row := (s1.readS (2 * a2.toNat)).toNat
    let col := (s1.readS (2 * a2.toNat + 1)).toNat
    failIf (row % 32 != 0) (engTrap 9 2 0 row)
    failIf (col % 32 != 0) (engTrap 9 2 0 col)
    failIf (s1.outside row 32) (engTrap 9 3 0 row)
    failIf (s1.outside col 32) (engTrap 9 3 0 col)
    return {
      op := .ltest (w32 row) (w32 col) p.toNat slot.toNat
      lanes := s1.wave.activeLanes
      expect := s1.wave.activeLanes.flatMap (fun l =>
        ([p.toNat, p.toNat + 1].filter (fun n => n != 0)).map (fun n => (RegFile.p, l, n))) })

/-! ### RANK, UNRANK and ATTLD -/

/-- Check 10 of 08 R179: a V field beyond the allocation of a fibre that has not ended. DESIGN CHOICE (log 14): the
lowest lane that has not ended and fails is reported, with the first failing register of the list. -/
def State.namedCheck (s : State) (ns : List Nat) : Option Fail :=
  s.wave.laneBases.findSome? (fun x =>
    ((s.wave.fib x.1).beyond (ns.map (fun n => (n, 1)))).map (fun n =>
      Fail.trap (rangeTrap s.wave x.1 n)))

/-- Check 9 of 08 R179. -/
def State.lengthTrap (s : State) (reg l : Nat) : Fail :=
  .trap { group := 12, code := 0x022, d0 := w32 (s.wave.lowest % 256 + reg % 256 * 256), d1 := w32 l }

/-- A V register of every lane that has not ended, as a write. -/
def Wave.laneWrites (w : Wave) (v n : Nat) : List (RegFile × Nat × Nat) :=
  (w.laneRegs v n).map (fun x => (RegFile.v, x))

/-- RANK (08 R175). A checked RANK traps on a lent Vs; one whose Vs has a write not yet landed, that of an unfinished
FSQRT or FDIV too, is not held and reads by 06 R142 (log 21). DESIGN CHOICE (log 14): check 10 takes Vs before Vd.
DESIGN CHOICE (log 21): all four words of the quad count as read at issue, Sq+1 and Sq+2 also where pk is 0. -/
def execRank (st : Stall) (a4 : Num4) (b v : Reg) (e : Bool) (s : State) : Out :=
  let u := Uses.plus { xw := s.wave.laneUses b.toNat 1, er := s.wave.laneUses v.toNat 1 } (quadReads a4.toNat)
  s.arrayWord st u (eCtr e) (fun s1 => do
    let q := (s1.readSQuad a4.toNat).toNat
    let cw := bits q 31 0
    let addr := bits q 63 32
    let pk := bit cw 19
    let t := bits cw 16 8
    let len := bits cw 7 0 + 1
    failIf (bits cw 31 22 != 0 || bits cw 18 17 == 3 || decide (len < t) ||
      (pk && bits q 95 80 != 0) || bits q 127 96 != 0) (engTrap 8 0x020 cw 0)
    failIf (pk && addr % 8 != 0) (engTrap 8 0x021 cw addr)
    failIf (pk && s1.outside addr (packetBytes t)) (engTrap 8 0x022 cw addr)
    failIf (decide (s1.wave.g < len)) (s1.lengthTrap (4 * a4.toNat) len)
    failOpt (s1.namedCheck [v.toNat, b.toNat])
    return {
      op := .rank (w32 cw) (w32 addr) (w32 (bits q 95 64)) v.toNat b.toNat
      lent := some { ctr := eCtr e, vread := s1.wave.laneRegs v.toNat 1
                     vwrite := s1.wave.laneRegs b.toNat 1 }
      expect := s1.wave.laneWrites b.toNat 1 })

/-- UNRANK reads and checks its header at issue (08 R178). DESIGN CHOICE (log 65): as for MMAR, check 3 takes the T of
a header that may be invalid. DESIGN CHOICE (log 38): a fault of the fill of the header's granule comes after the range
test of the header itself and before the rest of check 3. -/
def execUnrank (st : Stall) (a v : Reg) (e : Bool) (s : State) : Out :=
  s.arrayWord st { rs := [a.toNat], xw := s.wave.laneUses v.toNat 1 } (eCtr e) (fun s1 => do
    let addr := (s1.readS a.toNat).toNat
    let gid := s1.wave.group.getD 0
    failIf (addr % 8 != 0) (engTrap 8 0x021 0 addr)
    failIf (s1.outside addr 8) (engTrap 8 0x022 0 addr)
    failOpt (s1.issueFill s1.wave.lowest addr 8)
    let h : DWord := BitVec.ofNat 64 (s1.engRd gid s1.probe addr 8)
    failIf (s1.outside addr (8 + hdrT h)) (engTrap 8 0x022 0 addr)
    failIf (!hdrOk h) (engTrap 8 0x023 0 addr)
    failIf (decide (s1.wave.g < hdrL h)) (s1.lengthTrap a.toNat (hdrL h))
    failOpt (s1.namedCheck [v.toNat])
    return {
      op := .unrank (w32 addr) v.toNat h
      lent := some { ctr := eCtr e, vwrite := s1.wave.laneRegs v.toNat 1 }
      expect := s1.wave.laneWrites v.toNat 1 })
    (fun s1 => let addr := (s1.readS a.toNat).toNat
      if addr % 8 = 0 then [(addr, 8)] else [])

/-- ATTLD (08 R176). -/
def execAttld (st : Stall) (a : Reg) (t : BitVec 2) (e : Bool) (s : State) : Out :=
  s.arrayWord st { rs := [a.toNat] } (eCtr e) (fun s1 => do
    let addr := (s1.readS a.toNat).toNat
    failIf (addr % 4 != 0) (engTrap 8 0x021 0 addr)
    failIf (s1.outside addr 512) (engTrap 8 0x022 0 addr)
    return { op := .attld (w32 addr) t.toNat })

/-! ### MLD (13 R291) -/

/-- The checks of an MLD: 1,024 bytes, 64-byte aligned, in global memory or the own Vat. -/
def State.mldUse (s : State) (j c : Num4) (pair : BitVec 5) : Except Fail (ArrayUse × List Nat) := do
  let x : Index := { isS := true, pair := pair }
  let l := s.wave.lowest
  let cap := s.capS c.toNat
  let o := x.val s 0
  let a := capBase cap.cap + o
  if capGlobal cap.cap then
    failOpt ((cap.check (pLoad ||| pGlobal) l o 1024).map Fail.trap)
    failIf (a % 64 != 0) (.trap (alignTrap 1 l a 64))
    let lines := (List.range 16).map (fun i => a + 64 * i)
    failOpt (lines.findSome? (fun y => topCheck l y .read))
    failOpt (s.transSeq l .read lines)
    return ({ op := .mld j.toNat .global (lines.map (fun y => s.physOf y .read)) a }, lines)
  else
    failOpt (s.taskCheck a)
    failOpt ((cap.check pLoad l o 1024).map Fail.trap)
    failIf (a % 64 != 0) (.trap (alignTrap 2 l a 64))
    failOpt (s.vatCheck .own l a 1024 64)
    return ({ op := .mld j.toNat (.vat (s.wave.group.getD 0)) [a] a }, [])

/-- MLD is performed once per issue, in the array's command order (13 R291). -/
def execMld (st : Stall) (j : Num4) (c : Num4) (pair : BitVec 5) (k : MCtr) (s : State) : Out :=
  let x : Index := { isS := true, pair := pair }
  let u := Uses.plus { mw := [j.toNat] } (x.reads.plus (quadReads c.toNat))
  s.gateOpen u (fun s1 =>
    if !s1.wave.anyActive then s1.retire st
    else s1.withCtr k.toNat (fun s2 =>
      if 8 ≤ s2.core.arrayQ.length then s2.hold
      else
        match s2.mldUse j c pair with
        | .error f => s2.raise s2.wave.lowest f
        | .ok y => ((s2.readAll y.2).enqueue y.1 (some k.toNat)).issue st))

end Sys2Proof.Machine
end

