-- ==== Sys2Proof/Machine/ArrayRun.lean ====
section
/-!
DEFINITION. Sys2Proof/Machine/ArrayRun.lean: how the array performs its commands in order
(MMA_CHUNK and ENGINE_COMMAND_COMPLETE of the array: 06 R129 to R143, R148, 07 R157 to R166, 08 R175 to
R178, 13 R291).
-/

namespace Sys2Proof.Machine

open Sys2Proof

/-- Changes the core matrix state. -/
def State.onMat (s : State) (f : Matrix → Matrix) : State := s.onCore (fun c => { c with mat := f c.mat })

/-! ### Loading a plane (06 R129, R130) -/

/-- The (column, block) pairs whose scales are read. -/
def Plane.scaled (pl : Plane) : List Nat :=
  if pl.sfmt = 0 then []
  else (List.range pl.nv).flatMap (fun n =>
    (List.range (ceilDiv pl.kv (max pl.bsz 1))).map (fun b => n * pl.blocks + b))

/-- Labels that the plane reads. -/
def Plane.labelCount (pl : Plane) : Nat :=
  match pl.lblKind with
  | 0 => 0
  | 1 => pl.nv
  | _ => pl.kv

/-- The Vat ranges that an LDSTAT reads. -/
def Plane.ranges (pl : Plane) (plane lbl scl : Nat) : List (Nat × Nat) :=
  pl.used.map (fun x => (plane + 4 * (64 * x.1 + x.2), 4)) ++
  (List.range pl.labelCount).map (fun i => (lbl + 4 * i, 4)) ++
  pl.scaled.map (fun b => (scl + b, 1)) ++
  (if pl.efmt = 5 then pl.scaled.map (fun b => (scl + 64 * pl.blocks + b, 1)) else [])

/-- The plane with its words, labels, scales and specials. -/
def State.loadPlane (s : State) (c : ArrayCmd) (gid : Nat) (pl : Plane) (plane lbl scl : Nat) : Plane :=
  let rd (off n : Nat) : Nat := s.engRd gid c off n
  { pl with
    words := pl.used.foldl (fun m x =>
      sput 0 m (64 * x.1 + x.2) (w32 (rd (plane + 4 * (64 * x.1 + x.2)) 4))) []
    labels := (List.range pl.labelCount).foldl (fun m i => sput 0 m i (w32 (rd (lbl + 4 * i) 4))) []
    scales := pl.scaled.foldl (fun m b => sput 0 m b (BitVec.ofNat 8 (rd (scl + b) 1))) []
    specials := if pl.efmt = 5 then
        pl.scaled.foldl (fun m b =>
          sput 0 m b (BitVec.ofNat 8 (rd (scl + 64 * pl.blocks + b) 1))) []
      else [] }

/-! ### One chunk of an MMA or MMAR -/

/-- The rows of chunk k of M rows. -/
def chunkRows (k m : Nat) : List Nat := (List.range (min m (64 * k + 64) - 64 * k)).map (fun i => 64 * k + i)

/-- The Vat ranges of the labels and records that a chunk reads. -/
def boundRanges (q : Quad) (k m : Nat) (sums : Bool) : List (Nat × Nat) :=
  if bindMode q = 0 then []
  else
    let n := min m (64 * k + 64) - 64 * k
    (bindRows q + 256 * k, 4 * n) ::
      (if sums && bindRs q then [(bindSums q + 256 * k, 32 * ceilDiv n 8)] else [])

/-- The NONE tiles of a chunk: for each row granule of the chunk, for each other granule. -/
def State.noneTable (s : State) (c : ArrayCmd) (gid : Nat) (pl : Plane) (k m : Nat) : List (List Bool) :=
  let q := s.core.mat.binding
  let d := s.core.mat.slot (bindSlot q)
  let others := if bindMode q = 1 then pl.nv else pl.kv
  let label (i : Nat) : Word := if i < m then w32 (s.engRd gid c (bindRows q + 4 * i) 4) else badLabel
  let cols := (List.range (ceilDiv others 8)).map (fun h =>
    summaryOf d ((List.range 8).map (fun i => pl.label (8 * h + i))))
  let grans := List.range (ceilDiv (min m (64 * k + 64) - 64 * k) 8)
  grans.map (fun i =>
    let g := 8 * k + i
    let r := if bindRs q then s.engRd gid c (bindSums q + 32 * g) 32
      else summaryOf d ((List.range 8).map (fun j => label (8 * g + j)))
    cols.map (fun y => decide (tileRes d r y = .none)))

/-- The binding as a chunk meets it; `tab` holds its NONE tiles. -/
def State.bound (s : State) (c : ArrayCmd) (gid : Nat) (pl : Plane) (k m : Nat)
    (tab : List (List Bool)) : Bound :=
  let q := s.core.mat.binding
  let d := s.core.mat.slot (bindSlot q)
  if bindMode q = 0 then {}
  else
    let labels := (chunkRows k m).map (fun i => w32 (s.engRd gid c (bindRows q + 4 * i) 4))
    { mode := bindMode q, fill := relFill d
      none := fun g h => (tab.getD (g - 8 * k) []).getD h false
      holds := fun i x => relHolds d (labels.getD (i - 64 * k) badLabel) (pl.label x) }

/-- The operands of the plane by column: for each PE row, its indices with their values. -/
def Plane.columns (pl : Plane) : List (List (List (Nat × XReal))) :=
  (List.range pl.nv).map (fun n => pl.rows.map (fun i =>
    (pl.slotsAt i n).map (fun x => (x.2, pl.elem i n x.1 x.2))))

/-- Element k of a streamed row (06 R128, R136, 04 R93). -/
def State.streamed (s : State) (c : ArrayCmd) (gid row : Nat) (tdt : BitVec 512)
    (comp : Option (BitVec 512)) (scale : Nat → Option XReal × Nat) (k : Nat) : XReal :=
  let e := elemBits (tdtEfmt tdt)
  let code :=
    if e = 16 then s.engRd gid c (row + 2 * k) 2
    else if e = 8 then s.engRd gid c (row + k) 1
    else s.engRd gid c (row + k / 2) 1 / 2 ^ (4 * (k % 2)) % 16
  let x := scale (k / tdtBlock tdt)
  blockValue (tdtEfmt tdt) comp x.1 x.2 code

/-- The scale and special of block b of row m in an MMA's lane byte array (06 R136). -/
def State.rowScale (s : State) (c : ArrayCmd) (g v woff slay nb : Nat) (tdt : BitVec 512) (m b : Nat) :
    Option XReal × Nat :=
  if tdtSfmt tdt = 0 then (none, 0)
  else
    let i := if slay = 0 then m * nb + b else 64 * nb * (m / 64) + 64 * b + m % 64
    if tdtEfmt tdt = 5 then
      (some (decodeScale (tdtSfmt tdt) (s.laneByte c g v (256 * woff + 2 * i))),
        s.laneByte c g v (256 * woff + 2 * i + 1))
    else (some (decodeScale (tdtSfmt tdt) (s.laneByte c g v (256 * woff + i))), 0)

/-- Whether a row granule is NONE against every other granule (07 R163). -/
def rowSkipped (tab : List (List Bool)) (k m : Nat) : Bool :=
  match tab[m / 8 - 8 * k]? with
  | some r => r.all (fun b => b)
  | none => false

/-- NONE tiles of a table. -/
def noneCount (tab : List (List Bool)) : Nat := (tab.map (fun r => r.countP (fun b => b))).sum

/-- The indices of row m that an MMA uses: those that some column stores, in a pair that no relation excludes
(06 R140). -/
def Plane.streamedAt (pl : Plane) (bd : Bound) (m : Nat) : List Nat :=
  let cols := (List.range pl.nv).filter (fun n => !(bd.mode == 1 && bd.excluded m n))
  (List.range pl.kv).filter (fun j =>
    !(bd.mode == 2 && bd.excluded m j) && cols.any (fun n => (pl.find n j).isSome))

/-- The bytes of element j of a streamed row. -/
def elemRange (efmt row j : Nat) : Nat × Nat :=
  let e := elemBits efmt
  if e = 16 then (row + 2 * j, 2) else if e = 8 then (row + j, 1) else (row + j / 2, 1)

/-- Chunk k of an MMA. -/
def State.mmaChunk (s : State) (c : ArrayCmd) (gid k : Nat) (addr ctl : Word) (tile v : Nat)
    (tdt : BitVec 512) (comp : Option (BitVec 512)) (woff slay : Nat) : Except (Option Fail) State :=
  let pl := s.core.mat.active
  let q := s.core.mat.binding
  let m := bits ctl.toNat 7 0 + 1
  match s.fillRanges c gid (boundRanges q k m true) with
  | .error a => .error a
  | .ok s1 =>
    let tab := if bindMode q = 0 then [] else s1.noneTable c gid pl k m
    let rsz := if pl.sparse then 512 else 256
    let rows := (chunkRows k m).filter (fun i => !rowSkipped tab k i)
    let bd := s1.bound c gid pl k m tab
    match s1.fillRanges c gid
        (if (s1.groupD gid).binds.isEmpty then []
        else rows.flatMap (fun i => (pl.streamedAt bd i).map (fun j =>
          elemRange (tdtEfmt tdt) (addr.toNat + rsz * i) j))) with
    | .error a => .error a
    | .ok s2 =>
      let cols := pl.columns
      let g := ((s2.waveBy c.wid).map (fun w => w.g)).getD 1
      let nb := rowBlocks tdt pl.sparse
      let t := tile + k
      let res := (chunkRows k m).foldl (fun x i =>
        let av := ((List.range pl.kv).map (fun j =>
          if rowSkipped tab k i then xzero
          else s2.streamed c gid (addr.toNat + rsz * i) tdt comp
            (s2.rowScale c g v woff slay nb tdt i) j)).toArray
        let ok (j : Nat) : Bool := !(bd.mode == 2 && bd.excluded i j)
        x.row bd (tdtEfmt tdt == 6) i pl.nv ((List.range pl.kv).any ok) (fun n =>
          (cols.getD n []).map (fun ks => ks.filterMap (fun y =>
            if ok y.1 then some (av.getD y.1 xzero, y.2) else none)))) (s2.core.mat.tile t)
      .ok (s2.onMat (fun a =>
        { a.setTile t res with skipcnt := a.skipcnt + w32 (noneCount tab) }))

/-- Chunk k of an MMAR (08 R177). -/
def State.mmarChunk (s : State) (c : ArrayCmd) (gid k : Nat) (addr ctl : Word) (tile : Nat)
    (hdrs : List DWord) : Except (Option Fail) State :=
  let pl := s.core.mat.active
  let q := s.core.mat.binding
  let m := bits ctl.toNat 7 0 + 1
  let at_ (i : Nat) : Nat := addr.toNat + 8 * bits ctl.toNat 15 8 * i
  let hdr (i : Nat) : DWord := hdrs.getD i 0
  match s.fillRanges c gid (boundRanges q k m false ++
      (chunkRows k m).map (fun i => (at_ i + 8, hdrT (hdr i)))) with
  | .error a => .error a
  | .ok s1 =>
    let bd := s1.bound c gid pl k m []
    let t := tile + k
    let idx (i : Nat) : List Nat := (List.range (hdrT (hdr i))).map (fun r => s1.engRd gid c (at_ i + 8 + r) 1)
    let res := (chunkRows k m).foldl (fun x i =>
      let h := hdr i
      let ks := idx i
      let ok (j : Nat) : Bool := decide (j < pl.kv) && !(bd.mode == 2 && bd.excluded i j)
      let terms := (List.range ks.length).map (fun r =>
        (ks.getD r 0, (xmul (hdrScale h) (decodeFp bf16 (s1.core.mat.atten (hdrAtt h) r).toNat)).1))
      x.row bd false i pl.nv (ks.any ok) (fun n =>
        (List.range (ceilDiv (hdrT h) 8)).map (fun y =>
          ((terms.drop (8 * y)).take 8).filterMap (fun z =>
            if ok z.1 then
              (pl.find n z.1).map (fun p => (z.2, pl.elem p.1 n p.2 z.1))
            else none)))) (s1.core.mat.tile t)
    let lost := ((chunkRows k m).map (fun i => (idx i).countP (fun j => decide (pl.kv ≤ j)))).sum
    .ok (s1.onMat (fun a => { a.setTile t res with skipcnt := a.skipcnt + w32 lost }))

/-! ### The other commands -/

/-- RANK: the order, and the packet (08 R175). -/
def State.runRank (s : State) (c : ArrayCmd) (gid : Nat) (ctl addr scale : Word) (src dst : Nat) :
    Except (Option Fail) State :=
  let cw := ctl.toNat
  let len := bits cw 7 0 + 1
  let t := bits cw 16 8
  let keys := (List.range len).map (fun l =>
    (l, match c.bases.find? (fun y => y.1 == l) with
      | some y => s.engReg c l (y.2 + src)
      | none => 0))
  let order := rankOrder (bits cw 18 17) keys
  let packet := bytesOf (packFields [(0, 16, len), (16, 16, t), (32, 4, bits cw 21 20),
      (48, 16, bits scale.toNat 15 0)]) 8 ++
    (order.take t).map (fun i => BitVec.ofNat 8 i) ++ List.replicate (packetBytes t - 8 - t) 0
  match s.fillRanges c gid (if bit cw 19 then [(addr.toNat, packet.length)] else []) with
  | .error a => .error a
  | .ok s1 =>
    let s2 := if bit cw 19 then s1.engWrite gid addr.toNat packet c.wid else s1
    .ok (s2.landEng c.wid c.stamp (c.ctr.getD 0) (c.bases.map (fun y =>
      (RegFile.v, y.1, y.2 + dst, if y.1 < t then w32 (order.getD y.1 0) else 0x0000FFFF))))

/-- UNRANK (08 R178). -/
def State.runUnrank (s : State) (c : ArrayCmd) (gid : Nat) (addr : Word) (dst : Nat) (h : DWord) :
    Except (Option Fail) State :=
  match s.fillRanges c gid [(addr.toNat + 8, hdrT h)] with
  | .error a => .error a
  | .ok s1 =>
    let idx := (List.range (hdrT h)).map (fun r => s1.engRd gid c (addr.toNat + 8 + r) 1)
    let value (l : Nat) : Word :=
      rne32 (dotExact ((List.range idx.length).filterMap (fun r =>
        if idx.getD r 0 = l ∧ l < hdrL h then
          some (hdrScale h, decodeFp bf16 (s1.core.mat.atten (hdrAtt h) r).toNat)
        else none)))
    let s2 := s1.onMat (fun a =>
      { a with skipcnt := a.skipcnt + w32 (idx.countP (fun j => decide (hdrL h ≤ j))) })
    .ok (s2.landEng c.wid c.stamp (c.ctr.getD 0)
      (c.bases.map (fun y => (RegFile.v, y.1, y.2 + dst, value y.1))))

/-- LSUM (07 R165). -/
def State.runLsum (s : State) (c : ArrayCmd) (gid : Nat) (q : Quad) : Except (Option Fail) State :=
  let cw := bits q.toNat 31 0
  let src := bits q.toNat 63 32
  let dst := bits q.toNat 95 64
  let nl := bits q.toNat 127 96
  let cnt := bits cw 15 8 + 1
  match s.fillRanges c gid [(src, 4 * nl), (dst, 32 * cnt)] with
  | .error a => .error a
  | .ok s1 =>
    let d := s1.core.mat.slot (bits cw 3 0)
    let label (i : Nat) : Word := if i < nl then w32 (s1.engRd gid c (src + 4 * i) 4) else badLabel
    .ok ((List.range cnt).foldl (fun t g =>
      t.engWrite gid (dst + 32 * g)
        (bytesOf (summaryOf d ((List.range 8).map (fun j => label (8 * g + j)))) 32) c.wid) s1)

/-- LTEST (07 R166). -/
def State.runLtest (s : State) (c : ArrayCmd) (gid : Nat) (row col : Word) (p slot : Nat) :
    Except (Option Fail) State :=
  match s.fillRanges c gid [(row.toNat, 32), (col.toNat, 32)] with
  | .error a => .error a
  | .ok s1 =>
    let r := tileRes (s1.core.mat.slot slot) (s1.engRd gid c row.toNat 32) (s1.engRd gid c col.toNat 32)
    let b (x : Bool) : Word := if x then 1 else 0
    .ok (s1.landEng c.wid c.stamp (c.ctr.getD 0) (c.active.flatMap (fun l =>
      [(RegFile.p, l, p, b (r != .none)), (RegFile.p, l, p + 1, b (r == .all))])))

/-- ATTLD (08 R176). -/
def State.runAttld (s : State) (c : ArrayCmd) (gid : Nat) (addr : Word) (t : Nat) :
    Except (Option Fail) State :=
  match s.fillRanges c gid [(addr.toNat, 512)] with
  | .error a => .error a
  | .ok s1 =>
    .ok (s1.onMat (fun a =>
      { a with att := (List.range 256).foldl (fun m e =>
          sput 0 m (256 * t + e) (BitVec.ofNat 16 (s1.engRd gid c (addr.toNat + 2 * e) 2))) a.att }))

/-- A refused read of an MLD has its failure behind it; one that met a failed unit marks its page (22 R408, R409). -/
def State.mldLost (s : State) (c : ArrayCmd) (ctx code virt p : Nat) : State :=
  let i := tierTrap 1 virt
  if code = 0x002 ∧ (s.unitOf p).isSome then
    s.homeOpen.unitLost ctx (virt / 65536) p i (s.engRecord i c.wid c.fibid c.pc) (dieOf s.core.num)
  else s.homeOpen

/-- MLD; a refused read writes zero bits (13 R291, 20 R385). -/
def State.runMld (s : State) (c : ArrayCmd) (j : Nat) (sp : Space) (at_ : List Nat) (virt : Nat) :
    Except (Option Fail) State :=
  let put (t : State) (bs : List Byte) : State :=
    t.onMat (fun a => { a with metas := (List.range 1024).foldl (fun m i =>
      sput 0 m (1024 * j + i) (bs.getD i 0)) a.metas })
  match sp with
  | .global =>
    match at_.mapIdx (fun i p => (virt + 64 * i, p)) |>.findSome? (fun y =>
        (s.transferFails y.2).map (fun code => (y.1, code, y.2))) with
    | some x =>
      let ctx := ((s.waveBy c.wid).map (fun w => w.ctx)).getD (s.groupD (c.group.getD 0)).ctx
      .ok (put ((s.engRefuse c x.2.1 x.1 64).mldLost c ctx x.2.1 x.1 x.2.2) [])
    | none => .ok (put s (at_.flatMap (fun p => s.rdBytes p 64)))
  | .vat gid =>
    let off := at_.headD 0
    match s.fillRanges c gid [(off, 1024)] with
    | .error a => .error a
    | .ok s1 => .ok (put s1 ((List.range 1024).map (fun i => s1.engByte gid c (off + i))))

/-! ### The front of the queue -/

/-- The tiles that an array command names. -/
def ArrayCmd.tiles (c : ArrayCmd) : List Nat :=
  match c.op with
  | .mma _ ctl t .. => tilesOf t (bits ctl.toNat 7 0 + 1)
  | .mmar _ ctl t _ => tilesOf t (bits ctl.toNat 7 0 + 1)
  | .ldstat .. => [] | .swap => [] | .rank .. => [] | .unrank .. => [] | .attld .. => []
  | .relset .. => [] | .lblset _ => [] | .lsum _ => [] | .ltest .. => [] | .mld .. => []

/-- The tile that a tile-port command names. -/
def TileOp.tile : TileOp → Nat
  | .movVat t .. => t | .movV t .. => t | .rowMax t _ => t | .rowSum t _ => t
  | .rescale t _ => t | .norm t _ => t

/-- An array command waits for the earlier tile-port instructions that name its tiles (06 R134). -/
def Core.portBlocks (k : Core) (c : ArrayCmd) : Bool :=
  k.tileQ.any (fun t => decide (t.stamp < c.stamp) && c.tiles.contains t.op.tile)

/-- Chunks of 64 rows that a command streams (06 R148). -/
def ArrayCmd.chunkCount (c : ArrayCmd) : Nat := c.tiles.length

/-- Performs the next unit of the front command: a chunk of an MMA or MMAR, or the whole command. A command that
loads memory or writes a Vat first waits for the earlier accesses of its fibre (12 R252, R257, R259). -/
def State.runFront (s : State) (c : ArrayCmd) : Except (Option Fail) State :=
  let gid := c.group.getD 0
  if (c.op.vatWrites || c.op.isLoad) && s.cmdFollows c then .error none
  else
  match c.op with
  | .ldstat plane ctl lbl scl tdt comp sp =>
    let pl := s.core.mat.planeShape ctl tdt comp sp
    match s.fillRanges c gid (pl.ranges plane.toNat lbl.toNat scl.toNat) with
    | .error a => .error a
    | .ok s1 =>
      .ok (s1.onMat (fun a =>
        { a with shadow := s1.loadPlane c gid pl plane.toNat lbl.toNat scl.toNat }))
  | .swap => .ok (s.onMat (fun a => { a with active := a.shadow, shadow := a.active }))
  | .mma addr ctl tile v _ tdt comp woff slay =>
    s.mmaChunk c gid c.chunks addr ctl tile v tdt comp woff slay
  | .mmar addr ctl tile hdrs => s.mmarChunk c gid c.chunks addr ctl tile hdrs
  | .rank ctl addr scale src dst => s.runRank c gid ctl addr scale src dst
  | .unrank addr dst hdr => s.runUnrank c gid addr dst hdr
  | .attld addr t => s.runAttld c gid addr t
  | .relset slot d => .ok (s.onMat (fun a => { a with slots := sput 0 a.slots slot d }))
  | .lblset q => .ok (s.onMat (fun a => { a with binding := q }))
  | .lsum q => s.runLsum c gid q
  | .ltest row col p slot => s.runLtest c gid row col p slot
  | .mld j sp at_ virt => s.runMld c j sp at_ virt

/-- Whether a command streams in chunks. -/
def ArrayCmd.chunked (c : ArrayCmd) : Bool := !c.tiles.isEmpty

/-- The front command leaves the queue, complete. -/
def State.arrayDone (s : State) (c : ArrayCmd) : State :=
  ((s.onCore (fun k => { k with arrayQ := k.arrayQ.drop 1 })).doneEng c.wid c.ctr).followDone c.follow

/-- MMA_CHUNK: the front MMA or MMAR performs its next 64 rows (06 R148). -/
def State.arrayChunk (s : State) : State :=
  match s.core.arrayQ with
  | [] => s
  | c :: _ =>
    if !c.chunked || s.core.portBlocks c || decide (c.chunkCount ≤ c.chunks) then s
    else
      match c.token with
      | some tok => s.fillAnswer c ((s.groupD (c.group.getD 0)).ctx) tok
      | none =>
      match s.runFront c with
      | .error a => s.fillWait c ((s.groupD (c.group.getD 0)).ctx) a
      | .ok t =>
        { t.onCore (fun k => { k with
            arrayQ := updateAt (fun x => { x with chunks := x.chunks + 1 }) 0 k.arrayQ }) with
          fresh := t.fresh + freshStride }

/-- The front command completes: a command without chunks is performed whole (06 R134). -/
def State.arrayComplete (s : State) : State :=
  match s.core.arrayQ with
  | [] => s
  | c :: _ =>
    if c.chunked then
      if c.chunkCount ≤ c.chunks then s.arrayDone c else s
    else
      match c.token with
      | some tok => s.fillAnswer c ((s.groupD (c.group.getD 0)).ctx) tok
      | none =>
      match s.runFront c with
      | .error a => s.fillWait c ((s.groupD (c.group.getD 0)).ctx) a
      | .ok t => { t.arrayDone c with fresh := t.fresh + freshStride }

/-- MMA_CHUNK (06 R148). -/
def execMmaChunk (s : State) : Out := .next s.arrayChunk

end Sys2Proof.Machine
end

