-- ==== Sys2Proof/Machine/TilePort.lean ====
section
/-!
DEFINITION. Sys2Proof/Machine/TilePort.lean: the tile-port words: TCLR, TMOV and TROW (06 R141, R144 to
R147), and how they complete.
-/

namespace Sys2Proof.Machine

open Sys2Proof

/-! ### TCLR (06 R144) -/

/-- Whether a tile is lent on the core: by a queued command or by a wave that has not waited yet. -/
def State.tileLent (s : State) (t : Nat) : Bool :=
  s.core.arrayQ.any (fun c => c.tiles.contains t) ||
  (s.wave :: s.core.waves).any (fun w => w.lent.any (fun x => x.tilesW.contains t))

/-- A cleared tile. -/
def clearTile (fill : Word) : Tile := { fill := fill, elems := [], mask := BitVec.allOnes 64 }

/-- The tile after a TCLR of a lent tile: each row is cleared, or keeps its elements and its mask bit
(06 R141). -/
def raceClear (fresh : Nat) (fill : Word) (t : Tile) : Tile :=
  (List.range 64).foldl (fun x r =>
    if Config.raceNew fresh r then x
    else
      let y := (List.range 64).foldl (fun z n => z.put r n (t.elem r n)) x
      if t.empty r then y else y.mark r) (clearTile fill)

/-- TCLR of a tile with a fill: every element and every mask bit. Tile-port instructions are ordered among
themselves, so it is held while one is unfinished (06 R134). -/
def State.tclr (s : State) (st : Stall) (u : Uses) (t : Nat) (fill : State → Word) : Out :=
  s.gate (u.plus { tw := [t] }) (fun s1 =>
    if !s1.wave.anyActive then s1.retire st
    else if !s1.core.tileQ.isEmpty then s1.hold
    else
      let old := s1.core.mat.tile t
      let x := if s1.tileLent t && !s1.wave.det then raceClear s1.fresh (fill s1) old
        else clearTile (fill s1)
      (s1.onMat (fun m => m.setTile t x)).retire st)

/-- TCLR with a zero fill. -/
def execTclr (st : Stall) (t : Num4) (s : State) : Out := s.tclr st {} t.toNat (fun _ => 0)

/-- TCLR with a fill from an S register. -/
def execTclrFill (st : Stall) (a : Reg) (t : Num4) (s : State) : Out :=
  s.tclr st { rs := [a.toNat] } t.toNat (fun s1 => s1.readS a.toNat)

/-! ### Entering the tile port -/

/-- A lane that reads or writes a lane byte array still waits for an interlocked result. -/
def Wave.laneInterlocked (w : Wave) (v n : Nat) : Bool :=
  !w.interlocks.isEmpty && (w.laneRegs v n).any (fun x => w.interlocked .v x.1 x.2)

/-- The registers that n words of a lane byte array from V field v lie in: word x in register v + x/G of
lane x mod G (06 R136). -/
def Wave.wordRegs (w : Wave) (v n : Nat) : List (Nat × Nat × Nat) :=
  (List.range n).filterMap (fun x =>
    (w.laneBases.find? (fun y => y.1 == x % max w.g 1)).map (fun y => (x, y.1, y.2 + v + x / max w.g 1)))

/-- The V registers that an operation writes: their words, lanes and registers. -/
def TileOp.dests (o : TileOp) (w : Wave) : List (Nat × Nat × Nat) :=
  match o with
  | .movVat .. => []
  | .movV _ ctl v => w.wordRegs v (64 * (bits ctl.toNat 13 8 + 1))
  | .rowMax _ v => w.wordRegs v 64
  | .rowSum _ v => w.wordRegs v 64
  | .rescale .. => []
  | .norm .. => []

/-- A tile-port word that completes later; `pre` gives its operation and the words it reads. -/
def State.portWord (s : State) (st : Stall) (u : Uses) (t : Nat) (e : Bool) (lanes : List (Nat × Nat))
    (pre : State → Except Fail (TileOp × List Word))
    (fills : State → List (Nat × Nat × Nat) := fun _ => []) : Out :=
  s.gate (u.plus { tr := [t] }) (fun s1 =>
    if !s1.wave.anyActive then s1.retire st
    else if lanes.any (fun x => s1.wave.laneInterlocked x.1 x.2) then s1.hold
    else s1.withCtr (eCtr e) (fun s2 =>
      match pre s2 with
      | .error f => s2.raise s2.wave.lowest f
      | .ok x => s2.withEngFills (fills s2) (fun s2 =>
        let c : TileCmd :=
          { op := x.1, wid := s2.wave.wid, group := s2.wave.group, ctr := eCtr e, pc := s2.wave.pc,
            lane := s2.wave.lowest, fibid := (s2.wave.fib s2.wave.lowest).fibid, bases := s2.wave.laneBases, words := x.2,
            stamp := s2.fresh }
        ((s2.onCore (fun k => { k with tileQ := k.tileQ ++ [c] })).onWave (fun w =>
          (w.expect s2.fresh ((x.1.dests w).map (fun y => (RegFile.v, y.2.1, y.2.2)))).incCtr
            (eCtr e))).issue st)))

/-! ### TMOV (06 R145) -/

/-- A TMOV control word that check 4 refuses. -/
def tmovBad (cw : Nat) : Bool :=
  bits cw 31 19 != 0 || decide (4 < bits cw 18 16) || bits cw 15 14 != 0 || bits cw 7 6 != 0 ||
  decide (64 < bits cw 5 0 + bits cw 13 8 + 1)

/-- Bytes that TMOV.vat writes. -/
def tmovSize (cw : Nat) : Nat := 64 * (bits cw 13 8 + 1) * tmovBytes (bits cw 18 16)

/-- TMOV.vat. -/
def execTmovVat (st : Stall) (a2 : BitVec 5) (t : Num4) (e : Bool) (s : State) : Out :=
  s.portWord st { rs := [2 * a2.toNat, 2 * a2.toNat + 1] } t.toNat e [] (fun s1 => do
    let ctl := s1.readS (2 * a2.toNat)
    let addr := s1.readS (2 * a2.toNat + 1)
    let gid := s1.wave.group.getD 0
    failIf (tmovBad ctl.toNat) (engTrap 9 1 ctl.toNat 0)
    failIf (addr.toNat % 4 != 0) (engTrap 9 2 ctl.toNat addr.toNat)
    failIf (s1.outside addr.toNat (tmovSize ctl.toNat)) (engTrap 9 3 ctl.toNat addr.toNat)
    failOpt (s1.engFillCheck gid s1.wave.lowest addr.toNat (tmovSize ctl.toNat))
    return (.movVat t.toNat ctl addr, []))
    (fun s1 => [(s1.wave.group.getD 0, (s1.readS (2 * a2.toNat + 1)).toNat,
      tmovSize (s1.readS (2 * a2.toNat)).toNat)])

/-- TMOV.v. -/
def execTmovV (st : Stall) (a : Reg) (t : Num4) (v : Reg) (e : Bool) (s : State) : Out :=
  let n := bits (s.readS a.toNat).toNat 13 8 + 1
  let u : Uses := { rs := [a.toNat], xw := s.wave.byteUses v.toNat (256 * n) }
  s.portWord st u t.toNat e [] (fun s1 => do
    let ctl := s1.readS a.toNat
    failIf (tmovBad ctl.toNat) (engTrap 9 1 ctl.toNat 0)
    failOpt (s1.laneCheck v.toNat (256 * (bits ctl.toNat 13 8 + 1)))
    return (.movV t.toNat ctl v.toNat, []))

/-! ### TROW (06 R146) -/

/-- A TROW that writes 64 words. -/
def State.trowWrite (s : State) (st : Stall) (t : Num4) (v : Reg) (e : Bool) (op : TileOp) : Out :=
  let u : Uses := { xw := s.wave.byteUses v.toNat 256 }
  s.portWord st u t.toNat e [] (fun s1 => do
    failOpt (s1.laneCheck v.toNat 256)
    return (op, []))

/-- The words of a lane byte array as an instruction reads them at issue (06 R136). -/
def State.laneWords (s : State) (v n : Nat) : List Word :=
  let regs := s.wave.wordRegs v n
  (List.range n).map (fun x =>
    match regs.find? (fun y => y.1 == x) with
    | some y => s.readA y.2.1 y.2.2
    | none => 0)

/-- A TROW that reads n words. -/
def State.trowRead (s : State) (st : Stall) (t : Num4) (v : Reg) (e : Bool) (n : Nat) (op : TileOp) :
    Out :=
  let k := s.wave.laneSpan (4 * n)
  let xr := (s.wave.byteUses v.toNat (4 * n)).filter (fun x => (s.wave.fib x.lane).active)
  s.portWord st { xr := xr } t.toNat e [(v.toNat, k)] (fun s1 => do
    failOpt (s1.laneCheck v.toNat (4 * n))
    return (op, s1.laneWords v.toNat n))

/-- TROW.max. -/
def execTrowMax (st : Stall) (t : Num4) (v : Reg) (e : Bool) (s : State) : Out :=
  s.trowWrite st t v e (.rowMax t.toNat v.toNat)

/-- TROW.sum. -/
def execTrowSum (st : Stall) (t : Num4) (v : Reg) (e : Bool) (s : State) : Out :=
  s.trowWrite st t v e (.rowSum t.toNat v.toNat)

/-- TROW.rescale. -/
def execTrowRescale (st : Stall) (t : Num4) (v : Reg) (e : Bool) (s : State) : Out :=
  s.trowRead st t v e 128 (.rescale t.toNat v.toNat)

/-- TROW.norm. -/
def execTrowNorm (st : Stall) (t : Num4) (v : Reg) (e : Bool) (s : State) : Out :=
  s.trowRead st t v e 64 (.norm t.toNat v.toNat)

/-! ### Completion of the front tile-port command -/

/-- The elements that a TMOV converts, in order. -/
def tmovElems (t : Tile) (ctl : Word) : List Nat :=
  let row0 := bits ctl.toNat 5 0
  (List.range (64 * (bits ctl.toNat 13 8 + 1))).map (fun x =>
    tmovConv (bits ctl.toNat 18 16) (t.elem (row0 + x / 64) (x % 64)))

/-- The word of V field v + x/G that a completed command writes to lane x mod G. -/
def TileCmd.lands (c : TileCmd) (g v : Nat) (xs : List Word) : List (RegFile × Nat × Nat × Word) :=
  (List.range xs.length).filterMap (fun x =>
    (c.bases.find? (fun y => y.1 == x % max g 1)).map (fun y =>
      (RegFile.v, y.1, y.2 + v + x / max g 1, xs.getD x 0)))

/-- Performs a tile-port command. DEDUCED (log 21): it takes a lent tile whole at one point, so that all elements that
it receives are from before the command that lends the tile or all are final, although 06 R141 leaves each to itself. -/
def State.runPort (s : State) (c : TileCmd) : State :=
  let g := ((s.waveBy c.wid).map (fun w => w.g)).getD 1
  let m := s.core.mat
  match c.op with
  | .movVat t ctl addr =>
    let gid := c.group.getD 0
    let s1 := s.fillGranules gid ((s.groupD gid).unfilled addr.toNat (tmovSize ctl.toNat))
    s1.engWrite gid addr.toNat
      ((tmovElems (m.tile t) ctl).flatMap (fun x => bytesOf x (tmovBytes (bits ctl.toNat 18 16)))) c.wid
  | .movV t ctl v => s.landEng c.wid c.stamp c.ctr (c.lands g v ((tmovElems (m.tile t) ctl).map w32))
  | .rowMax t v => s.landEng c.wid c.stamp c.ctr (c.lands g v ((List.range 64).map (rowMaxOf (m.tile t))))
  | .rowSum t v => s.landEng c.wid c.stamp c.ctr (c.lands g v ((List.range 64).map (rowSumOf (m.tile t))))
  | .rescale t _ =>
    s.onMat (fun m => m.setTile t ((List.range 64).foldl (fun x r =>
      x.rescaleRow r (c.words.getD r 0) (c.words.getD (64 + r) 0)) (m.tile t)))
  | .norm t _ =>
    s.onMat (fun m => m.setTile t ((List.range 64).foldl (fun x r =>
      x.normRow r (c.words.getD r 0)) (m.tile t)))

/-- The front tile-port command completes; one that writes a Vat first waits for the earlier accesses of its fibre,
those of the array and of the Blend unit among them (12 R252, R257, R259). -/
def State.portComplete (s : State) : State :=
  match s.core.tileQ with
  | [] => s
  | c :: _ =>
    if c.op.vatWrites &&
        (s.earlierBy c.wid c.stamp c.lane || s.core.engBefore c.wid c.stamp (fun l => l == c.lane)) then s
    else
    let s1 := (s.runPort c).onCore (fun k => { k with tileQ := k.tileQ.drop 1 })
    { s1.doneEng c.wid (some c.ctr) with fresh := s1.fresh + freshStride }

end Sys2Proof.Machine
end

