-- ==== Sys2Proof/Machine/Units.lean ====
section
/-!
DEFINITION. Sys2Proof/Machine/Units.lean: KICK, OFENCE and the Blend unit (14 R308 to R313), and
ENGINE_COMMAND_COMPLETE, the completion of the front command of a unit (02 R35).
-/

namespace Sys2Proof.Machine

open Sys2Proof

/-! ### KICK (14 R308) -/

/-- The checks of KICK, the later ones only where Vv is uniform (14 R308). -/
def State.kickCheck (s : State) (a v : Reg) (l : Nat) : Option Fail :=
  let off := (s.readV l v.toNat).toNat
  let c := (s.readS a.toNat).toNat
  let differs (i : Nat) : Bool := s.readV s.wave.lowest v.toNat != s.readV i v.toNat
  s.wave.rangeCheck { rv := [(v.toNat, 1)] } l
  <|> s.taskCheck off
  <|> (if differs l then some (.trap (uniformTrap l v.toNat off)) else none)
  <|> (if s.wave.activeLanes.any differs then none
        else if c = 0 ∨ 64 < c then some (engTrap 8 0x038 c off)
        else if off % 64 ≠ 0 then some (engTrap 9 2 c off)
        else if s.vatSize < off + 64 * c then some (engTrap 9 3 c off)
        else none)

/-- A request of a KICK as it enters the decanter's queue. -/
def State.kickReq (s : State) (off : Nat) : CopyReq :=
  { group := s.wave.group.getD 0, wid := s.wave.wid,
    fibid := (s.wave.fib s.wave.lowest).fibid, pc := s.wave.pc, off := off,
    earlier := s.wave.outst.length, stamp := s.fresh }

/-- KICK: a release at device scope; the decanter queue holds 64 requests (14 R308). -/
def execKick (st : Stall) (a v : Reg) (e : Bool) (s : State) : Out :=
  s.gateOpen { rs := [a.toNat], rv := [(v.toNat, 1)] } (fun s1 =>
    if !s1.wave.anyActive then s1.retire st
    else s1.withCtr (eCtr e) (fun s2 =>
      s2.guardAll (fun l => s2.kickCheck a v l) (fun s3 =>
        let c := (s3.readS a.toNat).toNat
        let off := (s3.readV s3.wave.lowest v.toNat).toNat
        if 64 < s3.core.reqQ.length + c then s3.hold
        else
          ((s3.onCore (fun k =>
            { k with
              reqQ := k.reqQ ++ (List.range c).map (fun j => s3.kickReq (off + 64 * j))
              kickQ := k.kickQ ++ [{ wid := s3.wave.wid, ctr := eCtr e, left := c }] })).onWave
            (fun w => w.incCtr (eCtr e))).issue st)))

/-! ### OFENCE (14 R309) -/

/-- A Vat write of a wave by an engine that is not complete: TMOV.vat, LSUM, a RANK packet, a BLEND. -/
def Core.vatWrites (k : Core) (wid : Nat) : Bool :=
  k.tileQ.any (fun c => c.wid == wid && c.op.vatWrites) ||
  k.arrayQ.any (fun c => c.wid == wid && c.op.vatWrites) ||
  k.blendQ.any (fun c => c.wid == wid)

/-- An access of the wave that still writes a register or a Vat. -/
def MemOp.unlanded (o : MemOp) : Bool :=
  !o.dests.isEmpty ||
  (match o.space with
    | .global => false
    | .vat _ => match o.kind with
      | .store => true | .storeCap => true | .atom .. => true | .binit => true | .barr => true
      | .bexp => true
      | .load _ => false | .loadNr _ => false | .loadS => false | .loadCap => false | .vmap => false
      | .vsync .. => false | .preq => false | .pcancel => false | .promo => false | .cflush => false
      | .kvalloc => false | .kvset => false | .btest => false)

/-- Every earlier register write of the wave has landed and every earlier Vat write has been performed. -/
def State.fencedAll (s : State) : Bool :=
  s.wave.interlocks.isEmpty && s.wave.engW.isEmpty && s.wave.outst.all (fun o => !o.unlanded) &&
  !s.core.vatWrites s.wave.wid

/-- The wave's writes so far are ordered before every later command (06 R142). A command already queued may
still read as before them. -/
def State.markFenced (s : State) : State :=
  let idle := s.core.arrayQ.isEmpty
  let wid := s.wave.wid
  let s1 := s.onWave (fun w => w.mapLanes (fun _ f =>
    { f with unfenced := if idle then []
        else f.unfenced.map (fun x => (x.1, if x.2.1 = 0 then s.fresh else x.2.1, x.2.2)) }))
  let mark (u : Unfenced) : Unfenced :=
    if (u.writer == some wid || (u.writer.isNone && u.waited.contains wid)) &&
        !u.fenced.any (fun x => x.1 == wid) then
      { u with fenced := (wid, s.fresh) :: u.fenced }
    else u
  match s.wave.group with
  | none => s1
  | some _ =>
    { s1 with groups := s1.groups.map (fun g =>
        if g.unfenced.isEmpty then g
        else { g with unfenced := (g.unfenced.map mark).filter (fun u =>
          !(idle && u.writer == some wid)) }) }

/-- OFENCE: every earlier register write has landed, the fixed-latency ones too, when it retires (14 R309). -/
def execOfence (st : Stall) (s : State) : Out :=
  s.gate {} (fun s1 =>
    if !s1.wave.anyActive then s1.retire st
    else if !s1.fencedAll then s1.hold
    else (s1.markFenced.onWave (fun w => { w with board := [], sysBoard := [] })).retire st)

/-! ### The Blend unit (14 R311 to R313) -/

/-- Participant positions of a control word. -/
def blendMask (cw : Nat) : List Nat := (List.range 4).filter (fun i => bit cw i)

/-- Rows of a merge. -/
def blendRows (cw : Nat) : Nat := bits cw 13 8 + 1

/-- Columns of a merge of partials. -/
def blendCols (cw : Nat) : Nat := bits cw 21 16 + 1

/-- The group at a position, from a group on its core. -/
def State.participant (s : State) (gid i : Nat) : Option Nat :=
  s.groupAt (some gid) (s.groupD gid).core (.pos (BitVec.ofNat 2 i))

/-- Must-be-zero bits of a merge control word. -/
def blendBad (acc : Bool) (cw : Nat) : Bool :=
  blendMask cw == [] || bits cw 7 4 != 0 ||
  (if acc then bits cw 15 14 != 0 || bits cw 31 22 != 0 else bits cw 31 14 != 0)

/-- Bytes of the participants' arrays, of the weights and of the result. -/
def blendSizes (acc : Bool) (cw : Nat) : Nat × Nat × Nat :=
  let rows := blendRows cw
  let top := (blendMask cw).foldl max 0
  let wts := 4 * (64 * top + rows)
  if acc then
    let n := 4 * (64 * (rows - 1) + blendCols cw)
    (n, wts, n)
  else (8 * rows, wts, 8 * rows)

/-- The own-Vat ranges of a merge: weights and result. -/
def blendOwn (acc : Bool) (q : Quad) : List (Nat × Nat) :=
  let z := blendSizes acc (bits q.toNat 31 0)
  if acc then [(bits q.toNat 95 64, z.2.1), (bits q.toNat 127 96, z.2.2)]
  else [(bits q.toNat 95 64, z.2.2), (bits q.toNat 127 96, z.2.1)]

/-- The checks of a BLEND (14 R313), and the fill of the granules it touches. -/
def State.blendCheck (s : State) (acc : Bool) (q : Quad) : Except Fail Unit := do
  let cw := bits q.toNat 31 0
  let parts := bits q.toNat 63 32
  let l := s.wave.lowest
  let gid := s.wave.group.getD 0
  let z := blendSizes acc cw
  failOpt (s.taskCheck parts)
  failIf (blendBad acc cw) (engTrap 8 0x040 cw 0)
  failOpt ([parts, bits q.toNat 95 64, bits q.toNat 127 96].findSome? (fun o =>
    if o % 4 ≠ 0 then some (engTrap 8 0x041 cw o) else none))
  failOpt ((blendMask cw).findSome? (fun i =>
    if (s.participant gid i).isNone then some (.trap (positionTrap i parts)) else none))
  failOpt ((blendMask cw).findSome? (fun i =>
    if (s.groupD ((s.participant gid i).getD 0)).size < parts + z.1 then
      some (engTrap 8 0x042 cw parts) else none))
  failOpt ((blendOwn acc q).findSome? (fun x =>
    if s.vatSize < x.1 + x.2 then some (engTrap 8 0x042 cw x.1) else none))
  failOpt ((blendMask cw).findSome? (fun i =>
    s.engFillCheck ((s.participant gid i).getD 0) l parts z.1))
  failOpt ((blendOwn acc q).findSome? (fun x => s.engFillCheck gid l x.1 x.2))

/-- The Vat ranges that a merge touches: group, offset and length. -/
def State.blendRanges (s : State) (acc : Bool) (q : Quad) : List (Nat × Nat × Nat) :=
  let cw := bits q.toNat 31 0
  let gid := s.wave.group.getD 0
  (blendMask cw).map (fun i => ((s.participant gid i).getD gid, bits q.toNat 63 32, (blendSizes acc cw).1)) ++
  (blendOwn acc q).map (fun x => (gid, x.1, x.2))

/-- A BLEND enters the Blend unit's queue. -/
def State.blend (s : State) (st : Stall) (acc : Bool) (a4 : Num4) (e : Bool) : Out :=
  s.gate (quadReads a4.toNat) (fun s1 =>
    if !s1.wave.anyActive then s1.retire st
    else s1.withCtr (eCtr e) (fun s2 =>
      let q := s2.readSQuad a4.toNat
      match s2.blendCheck acc q with
      | .error f => s2.raise s2.wave.lowest f
      | .ok _ =>
        s2.withEngFills (s2.blendRanges acc q) (fun s2 =>
        let c : BlendCmd :=
          { acc := acc, q := q, wid := s2.wave.wid, group := s2.wave.group.getD 0, ctr := eCtr e,
            pc := s2.wave.pc, lane := s2.wave.lowest, earlier := s2.wave.outst.length, stamp := s2.fresh }
        ((s2.onCore (fun k => { k with blendQ := k.blendQ ++ [c] })).onWave (fun w =>
          w.incCtr (eCtr e))).issue st)))

/-- BLEND.stat (14 R311). -/
def execBlendStat (st : Stall) (a4 : Num4) (e : Bool) (s : State) : Out := s.blend st false a4 e

/-- BLEND.acc (14 R312). -/
def execBlendAcc (st : Stall) (a4 : Num4) (e : Bool) (s : State) : Out := s.blend st true a4 e

/-- An FP32 word of a Vat. -/
def State.vatF32 (s : State) (gid off : Nat) : Word := w32 ((s.groupD gid).rd off 4)

/-- The merge of one row's statistics: m, l and the weights by participant (14 R311). -/
def mergeStats (xs : List (Word × Word)) : Word × Word × List Word :=
  let m := xs.foldl (fun acc x => rowMaxOf.fmaxNan acc x.1) 0xFF800000
  let ws := xs.map (fun x =>
    if x.1 = 0xFF800000 then 0
    else w32 (fpExp2 (rne32 (xadd .rne (f32x x.1) (xneg (f32x m))).1).toNat).code)
  let l := (xs.zip ws).foldl (fun acc x =>
    rne32 (xadd .rne (f32x acc) (xmul (f32x x.1.2) (f32x x.2)).1).1) 0
  (m, l, ws)

/-- Performs a merge: every read, then every write (14 R313). -/
def State.runBlend (s : State) (c : BlendCmd) : State :=
  let cw := bits c.q.toNat 31 0
  let parts := bits c.q.toNat 63 32
  let o2 := bits c.q.toNat 95 64
  let o3 := bits c.q.toNat 127 96
  let z := blendSizes c.acc cw
  let fill (s : State) (gid : Nat) (x : Nat × Nat) : State :=
    s.fillGranules gid ((s.groupD gid).unfilled x.1 x.2)
  let gids := (blendMask cw).map (fun i => (s.participant c.group i).getD c.group)
  let s1 := (blendOwn c.acc c.q).foldl (fun s x => fill s c.group x)
    (gids.foldl (fun s g => fill s g (parts, z.1)) s)
  let writes :=
    if c.acc then
      (List.range (blendRows cw)).flatMap (fun r => (List.range (blendCols cw)).map (fun n =>
        let v := ((blendMask cw).zip gids).foldl (fun acc x =>
          let w := s1.vatF32 c.group (o2 + 4 * (64 * x.1 + r))
          let o := s1.vatF32 x.2 (parts + 4 * (64 * r + n))
          rne32 (xadd .rne (f32x acc) (xmul (f32x w) (f32x o)).1).1) 0
        (o3 + 4 * (64 * r + n), v)))
    else
      (List.range (blendRows cw)).flatMap (fun r =>
        let x := mergeStats (gids.map (fun g =>
          (s1.vatF32 g (parts + 8 * r), s1.vatF32 g (parts + 8 * r + 4))))
        (o2 + 8 * r, x.1) :: (o2 + 8 * r + 4, x.2.1) ::
          ((blendMask cw).zip x.2.2).map (fun y => (o3 + 4 * (64 * y.1 + r), y.2)))
  writes.foldl (fun s x => s.engWrite c.group x.1 (bytesOf x.2.toNat 4) c.wid) s1

/-- The front merge completes once every earlier access of its wave is complete, those of the engines for its
fibres among them (14 R313, 12 R252). -/
def State.blendComplete (s : State) : State :=
  match s.core.blendQ with
  | [] => s
  | c :: _ =>
    if c.earlier ≠ 0 || s.core.engBefore c.wid c.stamp (fun _ => true) then s
    else
      let s1 := (s.runBlend c).onCore (fun k => { k with blendQ := k.blendQ.drop 1 })
      { s1.doneEng c.wid (some c.ctr) with fresh := s1.fresh + freshStride }

/-! ### ENGINE_COMMAND_COMPLETE -/

/-- The front KICK completes when the decanter has read its every request (14 R308). -/
def State.kickComplete (s : State) : State :=
  match s.core.kickQ with
  | [] => s
  | c :: _ =>
    if c.left ≠ 0 then s
    else (s.onCore (fun k => { k with kickQ := k.kickQ.drop 1 })).doneEng c.wid (some c.ctr)

/-- ENGINE_COMMAND_COMPLETE: the front command of a unit of the core completes (02 R35). -/
def execEngineCommandComplete (u : EngineUnit) (s : State) : Out :=
  match u with
  | .array => .next s.arrayComplete
  | .tilePort => .next s.portComplete
  | .blend => .next s.blendComplete
  | .kick => .next s.kickComplete

end Sys2Proof.Machine
end

