-- ==== Sys2Proof/Machine/Decanter.lean ====
section
/-!
DEFINITION. Sys2Proof/Machine/Decanter.lean: the decanter's copy requests: how a request begins and is
validated, its 4 KiB segments, its abandonment, and its follow-on command (14 R301 to R307, R310, 07 R168
to R171, 22 R413).
-/

namespace Sys2Proof.Machine

open Sys2Proof

/-! ### Fields of a request (14 R301) -/

/-- Field of a request. -/
def rqField (r : BitVec 512) (hi lo : Nat) : Nat := bits r.toNat hi lo
/-- 0 range, 1 tensor tile, 2 key-value range. -/
def rqKind (r : BitVec 512) : Nat := rqField r 1 0
/-- A follow-on command is present. -/
def rqFol (r : BitVec 512) : Bool := bit r.toNat 2
/-- Quantise on store. -/
def rqQnt (r : BitVec 512) : Bool := bit r.toNat 3
/-- Label transport. -/
def rqLbl (r : BitVec 512) : Bool := bit r.toNat 4
/-- Compute summaries. -/
def rqSum (r : BitVec 512) : Bool := bit r.toNat 5
/-- Summary skip. -/
def rqSkip (r : BitVec 512) : Bool := bit r.toNat 6
/-- The source plays the column side. -/
def rqSide (r : BitVec 512) : Bool := bit r.toNat 7
/-- Relation slot. -/
def rqSlot (r : BitVec 512) : Nat := rqField r 11 8
/-- Cluster positions that receive the copy. -/
def rqMcast (r : BitVec 512) : Nat := rqField r 15 12
/-- Barrier offset. -/
def rqBar (r : BitVec 512) : Nat := rqField r 50 32
/-- Kind 0: the byte offset. -/
def rqSrc (r : BitVec 512) : Nat := rqField r 127 64
/-- Kind 1: row; kind 2: sequence number. -/
def rqRow (r : BitVec 512) : Nat := rqField r 95 64
/-- Kind 1: column; kind 2: first token. -/
def rqCol (r : BitVec 512) : Nat := rqField r 127 96
/-- Offset of the source capability. -/
def rqCap (r : BitVec 512) : Nat := rqField r 146 128
/-- Element format of quantise-on-store, as a TDT entry numbers it. -/
def rqEfmt (r : BitVec 512) : Nat := 3 + rqField r 152 151
/-- Scale format of quantise-on-store, as a TDT entry numbers it. -/
def rqSfmt (r : BitVec 512) : Nat := 1 + rqField r 153 153
/-- Block size of quantise-on-store. -/
def rqBlock (r : BitVec 512) : Nat := if bit r.toNat 154 then 16 else 32
/-- Compander id of quantise-on-store. -/
def rqCmp (r : BitVec 512) : Nat := rqField r 157 155
/-- Destination offset. -/
def rqDst (r : BitVec 512) : Nat := rqField r 178 160
/-- Bytes or elements per row. -/
def rqN0 (r : BitVec 512) : Nat := rqField r 207 192
/-- Rows or tokens. -/
def rqN1 (r : BitVec 512) : Nat := rqField r 223 208
/-- Planes. -/
def rqN2 (r : BitVec 512) : Nat := rqField r 239 224
/-- Source row stride. -/
def rqS1 (r : BitVec 512) : Nat := rqField r 287 256
/-- Source plane stride. -/
def rqS2 (r : BitVec 512) : Nat := rqField r 319 288
/-- Destination row stride. -/
def rqDstride (r : BitVec 512) : Nat := rqField r 335 320
/-- Label area. -/
def rqLblOff (r : BitVec 512) : Nat := rqField r 354 336
/-- Partner records. -/
def rqPartner (r : BitVec 512) : Nat := rqField r 373 355
/-- How many partner records. -/
def rqPcnt (r : BitVec 512) : Nat := rqField r 381 374 + 1
/-- Word i of the follow-on command. -/
def rqCmd (r : BitVec 512) (i : Nat) : Nat := rqField r (415 + 32 * i) (384 + 32 * i)

/-- Must-be-zero fields. -/
def rqZeros (r : BitVec 512) : Bool :=
  rqField r 383 382 == 0 && rqField r 255 240 == 0 && rqField r 191 179 == 0 && rqField r 159 158 == 0 &&
  rqField r 150 147 == 0 && rqField r 63 51 == 0 && rqField r 31 16 == 0

/-- Bytes of a block in the interleaved layout (04 R92). -/
def blockBytes (efmt bsz : Nat) : Nat := if efmt = 5 then 2 + bsz / 2 else 1 + bsz

/-! ### Rows -/

/-- Rows of a request. -/
def rqRows (r : BitVec 512) : Nat := rqN1 r * rqN2 r

/-- Bytes of an unpacked element. -/
def elemBytes (efmt : Nat) : Nat :=
  match efmt with
  | 1 => 2
  | 2 => 2
  | 7 => 4
  | _ => 1

/-- The element format by which a kind-1 request addresses its source: with qnt set the source is read as
FP32 (14 R303). -/
def rqSrcFmt (r : BitVec 512) (t : BitVec 512) : Nat := if rqQnt r then 7 else tdtEfmt t

/-- Whether a kind-1 request copies blocks of the interleaved layout. -/
def rqBlocks (r : BitVec 512) (t : BitVec 512) : Bool := !rqQnt r && tdtSfmt t != 0 && !tdtSep t

/-- The blocks of an interleaved row that hold any of the elements asked for: the first, and how many
(DESIGN CHOICE, log 43). -/
def rqBlockSpan (r : BitVec 512) (t : BitVec 512) : Nat × Nat :=
  let b := tdtBlock t
  (rqCol r / b, (rqCol r + rqN0 r - 1) / b + 1 - rqCol r / b)

/-- Bytes of a source row before quantisation. -/
def rqSrcRow (r : BitVec 512) (t : BitVec 512) : Nat :=
  if rqKind r = 1 then
    if rqBlocks r t then (rqBlockSpan r t).2 * blockBytes (tdtEfmt t) (tdtBlock t)
    else if rqSrcFmt r t = 5 then ceilDiv (rqN0 r) 2
    else rqN0 r * elemBytes (rqSrcFmt r t)
  else rqN0 r

/-- Bytes of a destination row (14 R302, R303). -/
def rqDstRow (r : BitVec 512) (t : BitVec 512) : Nat :=
  if rqQnt r then rqSrcRow r t / (4 * rqBlock r) * blockBytes (rqEfmt r) (rqBlock r)
  else rqSrcRow r t

/-- Distance between destination rows. -/
def rqPitch (r : BitVec 512) (t : BitVec 512) : Nat :=
  if rqDstride r = 0 then rqDstRow r t else rqDstride r

/-- Granules of eight labels. -/
def rqGrans (r : BitVec 512) : Nat := ceilDiv (rqN1 r) 8

/-- The record area of a request with summaries (14 R304). -/
def rqRecOff (r : BitVec 512) : Nat := rqLblOff r + 32 * rqGrans r

/-- Tensor rows (18 R348). -/
def tdtRows (t : BitVec 512) : Nat :=
  let d (i : Nat) : Nat := if i ≤ tdtNdim t then tdtDim t i else 1
  d 1 * d 2 * d 3

/-- The offset of tensor row r from the capability's base (18 R348). -/
def tdtRowOff (t : BitVec 512) (r : Nat) : Nat :=
  let d (i : Nat) : Nat := max 1 (if i ≤ tdtNdim t then tdtDim t i else 1)
  r % d 1 * tdtStride t 1 + r / d 1 % d 2 * tdtStride t 2 + r / (d 1 * d 2) * tdtStride t 3

/-! ### Where a byte comes from -/

/-- The source of a byte: zero, a byte at an address, or two nibbles. -/
inductive Src where
  | zero
  | byte (a : Nat)
  | nibs (lo hi : Option (Nat × Bool))
  deriving DecidableEq, Repr

/-- The addresses that a source reads. -/
def Src.addrs : Src → List Nat
  | .zero => []
  | .byte a => [a]
  | .nibs lo hi => (lo.toList ++ hi.toList).map (fun x => x.1)

/-- The value of a nibble, through a read of bytes. -/
def nibble (rd : Nat → Byte) (x : Option (Nat × Bool)) : Nat :=
  match x with
  | none => 0
  | some y => if y.2 then (rd y.1).toNat / 16 else (rd y.1).toNat % 16

/-- The value of a source, through a read of bytes. -/
def Src.value (rd : Nat → Byte) : Src → Byte
  | .zero => 0
  | .byte a => rd a
  | .nibs lo hi => BitVec.ofNat 8 (nibble rd lo + 16 * nibble rd hi)

/-- The nibble of an E2M1 element of a row, if it lies in the extent; `o` is the address of element 0. -/
def nibAt (t : BitVec 512) (o e : Nat) : Option (Nat × Bool) :=
  if e < tdtDim t 0 then some (o + e / 2, decide (e % 2 = 1)) else none

/-- Byte x of the copied part of a tensor row whose first byte lies at `o` (14 R302, 18 R348, 04 R92). -/
def tensorByte (r t : BitVec 512) (o x : Nat) : Src :=
  let f := rqSrcFmt r t
  if rqBlocks r t then
    let bb := blockBytes f (tdtBlock t)
    let blk := (rqBlockSpan r t).1 + x / bb
    let p := x % bb
    let hd := if f = 5 then 2 else 1
    let e0 := blk * tdtBlock t
    if tdtDim t 0 ≤ e0 then .zero
    else if p < hd then .byte (o + blk * bb + p)
    else if f = 5 then
      let nib (i : Nat) : Option (Nat × Bool) :=
        if e0 + i < tdtDim t 0 then some (o + blk * bb + p, decide (i % 2 = 1)) else none
      .nibs (nib (2 * (p - 2))) (nib (2 * (p - 2) + 1))
    else if e0 + (p - 1) < tdtDim t 0 then .byte (o + blk * bb + p)
    else .zero
  else if f = 5 then
    let e := rqCol r + 2 * x
    .nibs (nibAt t o e) (if 2 * x + 1 < rqN0 r then nibAt t o (e + 1) else none)
  else
    let w := elemBytes f
    if rqCol r + x / w < tdtDim t 0 then .byte (o + rqCol r * w + x) else .zero

/-- Byte x of source row k, as an address: for kinds 0 and 1 from the capability's base, for kind 2 in the
resolved block. -/
def CopyReq.src (q : CopyReq) (btok bpt k x : Nat) : Src :=
  let r := q.raw
  match rqKind r with
  | 0 => .byte (capBase q.cap + rqSrc r + k / rqN1 r * rqS2 r + k % rqN1 r * rqS1 r + x)
  | 1 =>
    let row := rqRow r + k
    if tdtRows q.tdt ≤ row then .zero
    else tensorByte r q.tdt (capBase q.cap + tdtRowOff q.tdt row) x
  | _ =>
    let t := rqCol r + k
    match q.blocks.find? (fun b => b.1 == t / btok) with
    | some (_, some a) => .byte (a + t % btok * bpt + x)
    | some (_, none) => .zero
    | none => .zero

/-! ### Waiting and abandoning (14 R305) -/

/-- The Vats that a request writes: those that mcast names, or its own. -/
def State.rqVats (s : State) (q : CopyReq) : List Nat :=
  if rqMcast q.raw = 0 then [q.group]
  else
    ((List.range 4).filter (fun i => bit (rqMcast q.raw) i)).filterMap (fun i =>
      s.groupAt (some q.group) s.core.num (.pos (BitVec.ofNat 2 i)))

/-- The context of a request. -/
def State.rqCtx (s : State) (q : CopyReq) : Nat := (s.groupD q.group).ctx

/-- A request of the queue, by its place. -/
def Core.onReq (k : Core) (i : Nat) (f : CopyReq → CopyReq) : Core := { k with reqQ := updateAt f i k.reqQ }

/-- Changes a request of the core's decanter. -/
def State.onReq (s : State) (i : Nat) (f : CopyReq → CopyReq) : State := s.onCore (fun k => k.onReq i f)

/-- The request at a place leaves the queue. -/
def State.dropReq (s : State) (i : Nat) : State :=
  s.onCore (fun k => { k with reqQ := removeAt i k.reqQ })

/-- Breaks the barrier of a request in its own Vat and in every Vat it names; a request that was never read names
none. -/
def State.breakAll (s : State) (q : CopyReq) : State :=
  let off := rqBar q.raw
  let gs := sortNats (q.group :: s.rqVats q)
  if !(q.begun || q.valid || q.done) then s
  else gs.foldl (fun s gid =>
    if off % 16 = 0 ∧ off + 16 ≤ (s.groupD gid).size then
      (s.fillGranules gid ((s.groupD gid).unfilled off 16)).breakBar gid off false (gid == q.group)
    else s) s

/-- The record of an abandoned request or follow-on command (20 R374, R382). -/
def State.rqRecord (s : State) (q : CopyReq) (group code addr : Nat) : FaultRecord :=
  { s.engRecord { group := group, code := code, d0 := w32 q.off, d1 := w32 addr, d2 := w32 q.landed }
      q.wid q.fibid q.pc with
    ctx := s.rqCtx q, abandoned := true }

/-- The front KICK that still has requests to read has one less. -/
def lessOne : List KickCmd → List KickCmd
  | [] => []
  | k :: ks => if k.left = 0 then k :: lessOne ks else { k with left := k.left - 1 } :: ks

/-- A request that leaves before it is read counts as read by its KICK, which completes without it (14 R308). -/
def State.lessUnread (s : State) (q : CopyReq) : State :=
  if q.begun then s else s.onCore (fun k => { k with kickQ := lessOne k.kickQ })

/-- Abandons a request: nothing more of it is written, its barriers break, its record is posted. -/
def State.abandon (s : State) (i : Nat) (q : CopyReq) (group code addr : Nat) : State :=
  let s1 := ((s.lessUnread q).dropReq i).breakAll q
  s1.postError (s.groupD q.group).launch (s.rqRecord q group code addr)

/-- How the beginning or a segment of a request stops. -/
inductive ReqStop where
  /-- It is abandoned with a code of group 8. -/
  | code (c : Nat) (addr : Nat)
  /-- An address does not translate: the steward is asked and the request waits. -/
  | wait (va : Nat)
  /-- A module-tier unit fails its check on both reads (22 R409). -/
  | integrity (va : Nat)
  deriving DecidableEq, Repr

/-- Whether a byte of a context can be read: the first thing that stops it. -/
def State.srcStop (s : State) (ctx va : Nat) : Option ReqStop :=
  match s.translate ctx va .read with
  | .error 1 => some (.code 0x032 va)
  | .error _ => some (.wait va)
  | .ok p =>
    if s.unitFails p then some (.integrity va)
    else if (s.transferFails p).isSome then some (.code 0x036 va)
    else none

/-- The first address of each 4 KiB block among some addresses, in order. -/
def blockFirsts (as : List Nat) : List Nat :=
  as.foldl (fun acc a => if acc.any (fun b => b / 4096 == a / 4096) then acc else acc ++ [a]) []

/-- The first of some addresses that stops a read; each page takes its cellar reservation before the next walk
(01 R13, 18 R323). -/
def State.srcStops (s : State) (ctx : Nat) : List Nat → Option ReqStop
  | [] => none
  | a :: as => s.srcStop ctx a <|> (s.reserve ctx a).srcStops ctx as

/-- n bytes of a context's memory. -/
def State.srcBytes (s : State) (ctx va n : Nat) : Except ReqStop (List Byte) :=
  match s.srcStops ctx (blockFirsts ((List.range n).map (fun i => va + i))) with
  | some x => .error x
  | none =>
    .ok ((List.range n).map (fun i =>
      match s.translate ctx (va + i) .read with
      | .ok p => s.rdByte p
      | .error _ => 0))

/-- n bytes of a context's memory as a number. -/
def State.srcNum (s : State) (ctx va n : Nat) : Except ReqStop Nat := (s.srcBytes ctx va n).map fromBytes

/-- n bytes of a request's source: global memory, or the own Vat (13 R270). -/
def State.rqBytes (s : State) (q : CopyReq) (a n : Nat) : Except ReqStop (List Byte) :=
  if capGlobal q.cap then s.srcBytes (s.rqCtx q) a n else .ok ((s.groupD q.group).rdBytes a n)

/-- A request waits for an address: its record goes to the steward once, a page that is moving has its
entry already (22 R402), and the request goes on or is abandoned when the entry is woken (14 R305). -/
def State.rqWait (s : State) (i : Nat) (q : CopyReq) (va : Nat) : State :=
  let ctx := s.rqCtx q
  let page := va / 65536
  let d := dieOf s.core.num
  let r := s.interest d ctx page
  match r.2 with
  | none => s
  | some tok =>
    let s1 := r.1.onReq i (fun x => { x with token := some tok, stopAt := va })
    let info := match s.translate ctx va .read with
      | .error code => transTrap code 0 va .read
      | .ok _ => transTrap 2 0 va .read
    let rec0 := s.engRecord { info with d2 := tok } q.wid q.fibid q.pc
    let s2 := s1.walkMet info ctx page
    match s.pageState ctx page with
    | .moving => s1
    | .failed => s1.postFor d ctx tok { rec0 with info := { tierTrap 2 va with d2 := tok } }
    | .absent => s2.postFor d ctx tok rec0
    | .resident => s2.postFor d ctx tok rec0

/-- A request looks at the entry that it waits on: woken, it gives its interest back, and it goes on or, on failure, is
abandoned (14 R305). -/
def State.rqAnswer (s : State) (i : Nat) (q : CopyReq) (tok : Word) : State :=
  let ctx := s.rqCtx q
  let on := s.onReq i (fun x => { x with token := none })
  match s.tokenEntry ctx tok with
  | none => on
  | some x =>
    match x.2.state with
    | .pending => s
    | .succeeded => on.giveToken ctx tok 1
    | .failed => (on.giveToken ctx tok 1).abandon i { q with token := none } 8 0x032 q.stopAt

/-- Takes a stop of the request at a place. -/
def State.rqStop (s : State) (i : Nat) (q : CopyReq) (x : ReqStop) : State :=
  match x with
  | .code c a => s.homeOpen.abandon i q 8 c a
  | .wait va => s.rqWait i q va
  | .integrity va =>
    (s.integrityFail (s.rqCtx q) (va / 65536) (tierTrap 1 va)
      (s.engRecord (tierTrap 1 va) q.wid q.fibid q.pc) (dieOf s.core.num)).abandon i q 8 0x035 va

/-! ### Validation (14 R305, R306) -/

/-- Fails with a code of group 8. -/
def rqFail (b : Bool) (c : Nat) (addr : Nat := 0) : Except ReqStop Unit :=
  if b then .error (.code c addr) else .ok ()

/-- The follow-on instruction of a request, of a form that 14 R306 admits. -/
def rqCmdOf (r : BitVec 512) : Option Instr :=
  match decodeWord (rqCmd r 0) with
  | .error _ => none
  | .ok i => some i

/-- The follow-on command of a request breaks the form of 14 R306. `scaled` says that the tensor of a kind-1
request is block-scaled. -/
def rqCmdBad (r : BitVec 512) (scaled : Bool) : Bool :=
  rqFol r &&
  (rqCmd r 3 != 0 ||
    match rqCmdOf r with
    | some (.swap _) => false
    | some (.mma _ a2 _ _ e) => a2 != 0 || e || rqKind r != 1 || scaled || bits (rqCmd r 2) 27 24 != 0
    | some (.mmar _ a2 _ e) => a2 != 0 || e
    | _ => true)

/-- A row of a kind-1 source lies in a granule that the request skips. -/
def CopyReq.skipped (q : CopyReq) (k : Nat) : Bool := q.skips.contains (k / 8)

/-- Stage 1: the request's own fields (0x030). -/
def State.rqStage1 (s : State) (q : CopyReq) : Bool :=
  let r := q.raw
  let kind := rqKind r
  !rqZeros r || kind == 3 || rqField r 152 151 == 3 || rqN0 r == 0 || rqN1 r == 0 || rqN2 r == 0 ||
  (kind != 0 && rqN2 r != 1) || (rqLbl r && kind != 1) || (rqSum r && !rqLbl r) ||
  (rqSkip r && (kind != 1 || rqRow r % 8 != 0)) ||
  ((List.range 4).any (fun i => bit (rqMcast r) i &&
    (s.groupAt (some q.group) s.core.num (.pos (BitVec.ofNat 2 i))).isNone)) ||
  rqCap r % 16 != 0 || rqBar r % 16 != 0 || (rqLbl r && rqLblOff r % 32 != 0) ||
  (rqSkip r && rqPartner r % 32 != 0) ||
  -- DESIGN CHOICE (log 43): rows that do not cover whole blocks break a rule that has no code of its own
  (rqQnt r && rqN0 r % ((if kind = 1 then 1 else 4) * rqBlock r) != 0)

/-- The destination rows of a request lie outside an allocation. -/
def State.rqDstOut (s : State) (q : CopyReq) : Bool :=
  let r := q.raw
  (s.rqVats q).any (fun gid =>
    decide ((s.groupD gid).size < rqDst r + (rqRows r - 1) * rqPitch r q.tdt + rqDstRow r q.tdt))

/-- Stage 2: Vat ranges (0x033). The destination row of a kind-1 request that does not quantise is known once
its TDT entry is read (DEDUCED, log 43). -/
def State.rqStage2 (s : State) (q : CopyReq) : Bool :=
  let r := q.raw
  let own := (s.groupD q.group).size
  decide (own < rqCap r + 16) ||
  ((rqKind r != 1 || rqQnt r) && s.rqDstOut q) ||
  (s.rqVats q).any (fun gid =>
    let n := (s.groupD gid).size
    (rqLbl r && decide (n < rqLblOff r + 4 * rqN1 r)) ||
    (rqSum r && decide (n < rqRecOff r + 32 * rqGrans r)) ||
    decide (n < rqBar r + 16)) ||
  decide (own < rqBar r + 16) ||
  (rqSkip r && decide (own < rqPartner r + 32 * rqPcnt r))

/-- Stage 3: the source capability gives no load (0x031). -/
def rqNoLoad (q : CopyReq) : Bool := !q.capTag || Nat.land (capPerm q.cap) pLoad != pLoad

/-- Stage 3: the range of kind 0, or the pool descriptor of kind 2, passes the capability's length (0x031). -/
def rqTooLong (q : CopyReq) : Bool :=
  let r := q.raw
  (rqKind r == 0 &&
    decide (capLen q.cap < rqSrc r + (rqN2 r - 1) * rqS2 r + (rqN1 r - 1) * rqS1 r + rqN0 r)) ||
  (rqKind r == 2 && decide (capLen q.cap < 128))

/-- An address of a descriptor at which a load fails stops the request as an address of its source does. -/
def State.descStop (s : State) (ctx va : Nat) : ReqStop := (s.srcStop ctx va).getD (.wait va)

/-- What a descriptor read gives a request. -/
def State.readFor {α : Type} (s : State) (ctx : Nat) (x : Except Nat α) : Except ReqStop α :=
  match x with
  | .ok a => .ok a
  | .error va => .error (s.descStop ctx va)

/-- The TDT entry of a kind-1 request (0x003), with its label plane, its tile grid and its row size. -/
def State.rqTensor (s : State) (q : CopyReq) : Except ReqStop CopyReq := do
  let r := q.raw
  let ctx := s.rqCtx q
  let tid := capTid q.cap
  rqFail (decide (min (s.ctxD ctx).tdtcnt.toNat 4092 ≤ tid)) 0x003 tid
  let t ← s.readFor ctx (s.tdtLook ctx tid)
  rqFail (!tdtValid t) 0x003 tid
  let q1 := { q with tdt := t }
  rqFail (!rqQnt r && s.rqDstOut q1) 0x033
  rqFail (rqLbl r && !tdtLbl t) 0x030
  rqFail (rqRow r % tdtTrows t != 0 || rqCol r % tdtTcols t != 0) 0x030
  return q1

/-- The rows of a request that its tensor holds. -/
def CopyReq.inside (q : CopyReq) : List Nat :=
  (List.range (rqRows q.raw)).filter (fun k => decide (rqRow q.raw + k < tdtRows q.tdt))

/-- The bytes past the last one that a kind-1 row reads, from the capability's base. -/
def CopyReq.rowEnd (q : CopyReq) (k : Nat) : Nat :=
  let base := capBase q.cap
  (((List.range (rqSrcRow q.raw q.tdt)).flatMap (fun x => (q.src 1 1 k x).addrs)).foldl
    (fun m a => max m (a + 1)) base) - base

/-- A request as the engine work that fills granules for it; no access of its wave holds it back. -/
def CopyReq.cmd (q : CopyReq) : ArrayCmd :=
  { op := .swap, wid := q.wid, group := some q.group, pc := q.pc, fibid := q.fibid, follow := some (q.group, 0) }

/-- The granules of Vat ranges filled for a request (12 R268, 13 R290). -/
def State.reqFill (s : State) (q : CopyReq) (gid : Nat) (xs : List (Nat × Nat)) : Except ReqStop State :=
  match s.fillRanges q.cmd gid xs with
  | .ok s1 => .ok s1
  | .error none => .error (.wait 0)
  | .error (some (.trap i)) =>
    .error (.code (if i.group = 19 then 0x036 else 0x032) (i.d0.toNat + i.d1.toNat * 2 ^ 32))
  | .error (some (.steward _ page)) => .error (.wait (page * 65536))
  | .error (some (.moving _ page)) => .error (.wait (page * 65536))
  | .error (some (.integrity i _)) => .error (.integrity (i.d0.toNat + i.d1.toNat * 2 ^ 32))

/-- The Vat ranges of the records that a skip reads: the partners', and the source's own where the source is a
Vat. -/
def CopyReq.recordRanges (q : CopyReq) : List (Nat × Nat) :=
  let r := q.raw
  if !(rqSkip r && tdtSum q.tdt) then []
  else
    (rqPartner r, 32 * rqPcnt r) ::
      (if capGlobal q.cap then []
      else [(capBase q.cap + tdtSumoff q.tdt + 32 * (rqRow r / 8), 32 * rqGrans r)])

/-- The granules that a request skips, by the source's records and the partner records (07 R170). DESIGN CHOICE
(log 43): the records are read once, while the request is validated. -/
def State.rqSkips (s : State) (q : CopyReq) : Except ReqStop (List Nat) := do
  let r := q.raw
  let s ← s.reqFill q q.group q.recordRanges
  if !(rqSkip r && tdtSum q.tdt) then .ok []
  else
    let partners := (List.range (rqPcnt r)).map (fun i =>
      (s.groupD q.group).rd (rqPartner r + 32 * i) 32)
    (List.range (rqGrans r)).foldlM (fun acc g => do
      let bs ← s.rqBytes q (capBase q.cap + tdtSumoff q.tdt + 32 * (rqRow r / 8 + g)) 32
      let x := fromBytes bs
      let skip := partners.all (fun p =>
        (if rqSide r then tileRes q.desc p x else tileRes q.desc x p) == .none)
      return if skip then acc ++ [g] else acc) []

/-- The range that a TDT entry yields (0x031): labels and records, then the rows not skipped. -/
def State.rqRange (s : State) (q : CopyReq) : Except ReqStop CopyReq := do
  let r := q.raw
  let len := capLen q.cap
  let t := q.tdt
  rqFail (rqLbl r && q.inside.any (fun k =>
    decide (len < tdtLbloff t + (rqRow r + k) * tdtLblStride t + 4))) 0x031
  rqFail (rqSkip r && tdtSum t &&
    decide (len < tdtSumoff t + 32 * (rqRow r / 8 + rqGrans r))) 0x031
  let sk ← s.rqSkips q
  let q1 := { q with skips := sk }
  rqFail (q1.inside.any (fun k => !q1.skipped k && decide (len < q1.rowEnd k))) 0x031
  return q1

/-- A Vat source: its rows overlap a destination row (0x030), or pass the allocation (DESIGN CHOICE, log 43:
0x033). -/
def State.rqVatSource (s : State) (q : CopyReq) : Except ReqStop Unit := do
  let r := q.raw
  let rows := (List.range (rqRows r)).filter (fun k => !q.skipped k)
  let reads := rows.flatMap (fun k =>
    (List.range (rqSrcRow r q.tdt)).flatMap (fun x => (q.src 1 1 k x).addrs))
  let n := rqDstRow r q.tdt
  let hits (a : Nat) : Bool := (List.range (rqRows r)).any (fun k =>
    decide (rqDst r + k * rqPitch r q.tdt ≤ a) && decide (a < rqDst r + k * rqPitch r q.tdt + n))
  rqFail (!capGlobal q.cap && (s.rqVats q).contains q.group && reads.any hits) 0x030
  rqFail (!capGlobal q.cap && reads.any (fun a => decide ((s.groupD q.group).size ≤ a))) 0x033

/-- The compander of a request that quantises. -/
def State.rqComp (s : State) (q : CopyReq) : Except ReqStop CopyReq :=
  if !rqQnt q.raw then .ok q
  else
    match s.compander (s.rqCtx q) (rqCmp q.raw) with
    | .ok c => .ok { q with comp := c }
    | .error .badId => .error (.code 0x011 0)
    | .error .badTable => .error (.code 0x010 0)
    | .error (.absent va) => .error (s.descStop (s.rqCtx q) va)

/-- Field of the pool descriptor of a kind-2 request. -/
def State.rqPool (s : State) (q : CopyReq) (off n : Nat) : Except ReqStop Nat :=
  s.srcNum (s.rqCtx q) (capBase q.cap + off) n

/-- The conditions on a pool and a sequence (0x034): a registered descriptor, s below nroot, n0 up to bpt
(22 R413). -/
def State.rqSequence (s : State) (q : CopyReq) : Except ReqStop Unit := do
  rqFail (!capGlobal q.cap || (s.poolAt (s.rqCtx q) (capBase q.cap)).isNone) 0x034
  let nroot ← s.rqPool q 92 2
  let bpt ← s.rqPool q 96 4
  let btok ← s.rqPool q 100 1
  rqFail (decide (nroot ≤ rqRow q.raw) || decide (bpt < rqN0 q.raw) || decide (3 ≤ btok)) 0x034

/-- The four stages (14 R305): the request as validated, or what stops it. -/
def State.rqValidate (s : State) (q : CopyReq) : Except ReqStop CopyReq := do
  let r := q.raw
  rqFail (s.rqStage1 q) 0x030
  rqFail (s.rqStage2 q) 0x033
  rqFail (rqNoLoad q) 0x031
  rqFail (rqTooLong q) 0x031 (capBase q.cap + (if rqKind r = 0 then rqSrc r else 0))
  let q1 ← if rqKind r = 1 then s.rqTensor q else .ok q
  rqFail (rqCmdBad r (rqKind r == 1 && tdtSfmt q1.tdt != 0)) 0x030
  let q2 ← if rqKind r = 1 then s.rqRange q1 else .ok q1
  if rqKind r ≠ 2 then s.rqVatSource q2
  let q3 ← s.rqComp q2
  if rqKind r = 2 then s.rqSequence q3
  return { q3 with valid := true }

/-! ### Beginning a request (14 R302, R305, R308) -/

/-- The decanter reads the request, its capability with its tag, and the relation slot (07 R171). -/
def State.rqRead (s : State) (q : CopyReq) : CopyReq :=
  let g := s.groupD q.group
  let raw := BitVec.ofNat 512 (g.rd q.off 64)
  let c := rqCap raw
  { q with
    begun := true
    raw := raw
    cap := BitVec.ofNat 128 (g.rd (c / 16 * 16) 16)
    capTag := g.vtag c
    desc := s.core.mat.slot (rqSlot raw) }

/-- The bytes of a request and of its capability, filled where a mapped region holds them. -/
def State.rqFetch (s : State) (q : CopyReq) : Except ReqStop State := do
  let s1 ← s.reqFill q q.group [(q.off, 64)]
  let c := rqCap (BitVec.ofNat 512 ((s1.groupD q.group).rd q.off 64))
  s1.reqFill q q.group [(c / 16 * 16, 16)]

/-- The granules that the validation of a request filled. -/
def State.rqFilled (s : State) (q : CopyReq) : State :=
  match s.reqFill q q.group q.recordRanges with
  | .ok t => t
  | .error _ => s

/-- The first request of the queue that still copies, with its place. -/
def Core.curReq (k : Core) : Option (Nat × CopyReq) :=
  match k.reqQ.findIdx? (fun q => !q.done) with
  | none => none
  | some i => some (i, k.reqQ.getD i {})

/-- Whether accesses that a wave issued before the KICK of a request are not yet complete, its own or those of the
engines for its fibres: the request follows them (14 R308, R310, 12 R252). -/
def State.rqEarly (s : State) (q : CopyReq) : Bool :=
  q.earlier != 0 || s.core.engBefore q.wid q.stamp (fun _ => true)

/-- DECANTER_REQUEST_BEGIN: the next request is read and validated. Its accesses issued before the KICK are
complete first (14 R308, R310). -/
def State.rqBegin (s : State) : State :=
  match s.core.curReq with
  | none => s
  | some (i, q) =>
    if q.valid || s.rqEarly q then s
    else
      match q.token with
      | some tok => s.rqAnswer i q tok
      | none =>
      match (if q.begun then .ok s else s.rqFetch q) with
      | .error x => s.rqStop i q x
      | .ok s0 =>
      let q1 := if q.begun then q else s0.rqRead q
      let s1 := if q.begun then s0
        else (s0.onReq i (fun _ => q1)).onCore (fun k => { k with kickQ := lessOne k.kickQ })
      match s1.rqValidate q1 with
      | .error x => s1.rqStop i q1 x
      | .ok q2 =>
        let s2 := (s1.rqFilled q2).onReq i (fun _ => { q2 with token := none })
        let s3 := if rqKind q2.raw = 1 then s2.tdtNote (s2.rqCtx q2) (capTid q2.cap) else s2
        if rqQnt q2.raw then s3.compNote (s3.rqCtx q2) (rqCmp q2.raw) else s3

/-- DECANTER_REQUEST_BEGIN (14 R305). -/
def execDecanterRequestBegin (s : State) : Out :=
  .next { s.rqBegin with fresh := s.fresh + freshStride }

/-! ### Key-value blocks (22 R413) -/

/-- The block that holds tokens btok · i on: its address, or none where no entry names one. -/
def State.rqKvBlock (s : State) (q : CopyReq) (i : Nat) : Except ReqStop (Option Nat) := do
  let ctx := s.rqCtx q
  let root ← s.rqPool q 16 8
  let slot := root + 16 * rqRow q.raw
  let table ← s.srcNum ctx slot 8
  let count ← s.srcNum ctx (slot + 8) 4
  if count ≤ i then return none
  let e ← s.srcNum ctx (table + 8 * i) 8
  if !bit e 0 then return none
  let tier := bits e 51 50
  let blk := bits e 49 10
  let num ← s.rqPool q 101 1
  rqFail (decide (1 < tier) || bits e 9 4 != num) 0x034
  let tab ← s.rqPool q (8 * tier) 8
  let nblk ← s.rqPool q (32 + 8 * tier) 8
  rqFail (decide (nblk ≤ blk) || tab == 0) 0x034
  let ent ← s.srcNum ctx (tab + 16 * blk) 16
  rqFail (bits ent 127 126 != 1) 0x034
  return some (bits ent 55 0)

/-- Resolves the blocks of a list that are not resolved yet. -/
def State.rqResolve (s : State) (q : CopyReq) : List Nat → Except ReqStop CopyReq
  | [] => .ok q
  | i :: is =>
    if q.blocks.any (fun b => b.1 == i) then s.rqResolve q is
    else
      match s.rqKvBlock q i with
      | .error x => .error x
      | .ok a => s.rqResolve { q with blocks := q.blocks ++ [(i, a)] } is

/-! ### Segments (14 R302 to R304) -/

/-- Data bytes of a request. -/
def CopyReq.dataLen (q : CopyReq) : Nat := rqRows q.raw * rqDstRow q.raw q.tdt

/-- Label bytes of a request. -/
def CopyReq.lblLen (q : CopyReq) : Nat := if rqLbl q.raw then 4 * rqN1 q.raw else 0

/-- Record bytes of a request. -/
def CopyReq.recLen (q : CopyReq) : Nat := if rqSum q.raw then 32 * rqGrans q.raw else 0

/-- Destination bytes of a request in each Vat. -/
def CopyReq.total (q : CopyReq) : Nat := q.dataLen + q.lblLen + q.recLen

/-- The pieces of a segment from `pos` to `stop` in units of n bytes: the unit, the first byte in it and how
many. -/
def pieces (n : Nat) : Nat → Nat → Nat → List (Nat × Nat × Nat)
  | 0, _, _ => []
  | fuel + 1, pos, stop =>
    if stop ≤ pos then []
    else
      let c := min (stop - pos) (n - pos % n)
      (pos / n, pos % n, c) :: pieces n fuel (pos + c) stop

/-- Reads the bytes of sources. -/
def State.rqSources (s : State) (q : CopyReq) (xs : List Src) : Except ReqStop (List Byte) :=
  if !capGlobal q.cap then .ok (xs.map (fun x => x.value (s.groupD q.group).rdByte))
  else
    let ctx := s.rqCtx q
    match s.srcStops ctx (blockFirsts (xs.flatMap Src.addrs)) with
    | some x => .error x
    | none =>
      .ok (xs.map (fun x => x.value (fun a =>
        match s.translate ctx a .read with
        | .ok p => s.rdByte p
        | .error _ => 0)))

/-- The source of byte x of row k of a resolved request. -/
def State.rqSrcs (s : State) (q : CopyReq) (k : Nat) (xs : List Nat) : Except ReqStop (List Byte) := do
  if rqKind q.raw = 2 then
    let btok ← s.rqPool q 100 1
    let bpt ← s.rqPool q 96 4
    s.rqSources q (xs.map (q.src (16 * 2 ^ btok) bpt k))
  else s.rqSources q (xs.map (q.src 1 1 k))

/-- The scale code of a block being quantised: the lowest whose y(amax / scale) does not pass the largest
finite value (14 R303). -/
def blockScale (efmt sfmt : Nat) (comp : Option (BitVec 512)) (vs : List XReal) : Nat :=
  let fin := vs.filter (fun v => !v.isNan && !v.isInf)
  let amax := fin.foldl (fun m v => if xlt m (xabs v) then xabs v else m) xzero
  if amax.isZero then (if sfmt = 1 then 0x7F else 0x78)
  else
    let top := match elemFmt efmt with
      | some F => decodeFp F F.maxCode
      | none => xzero
    let bound := match comp with
      | some t => compInverse t top
      | none => top
    let fits (c : Nat) : Bool :=
      let σ := decodeScale sfmt c
      !σ.isNan && !σ.isZero && !xlt (xmul bound σ).1 amax
    ((List.range 255).find? fits).getD 0xFE

/-- A block of FP32 values in the interleaved layout (14 R303, 04 R92, R94). -/
def quantBlock (efmt sfmt : Nat) (comp : Option (BitVec 512)) (ws : List Word) : List Byte :=
  let vs := ws.map f32x
  let c := blockScale efmt sfmt comp vs
  let codes := vs.map (fun v => (quantise efmt comp (decodeScale sfmt c) v).code)
  let b (x : Nat) : Byte := BitVec.ofNat 8 x
  if efmt = 5 then
    b c :: 0 :: (List.range (codes.length / 2)).map (fun i =>
      b (codes.getD (2 * i) 0 % 16 + 16 * (codes.getD (2 * i + 1) 0 % 16)))
  else b c :: codes.map b

/-- FP32 words of bytes. -/
def wordsOf (bs : List Byte) : List Word :=
  (List.range (bs.length / 4)).map (fun i => w32 (fromBytes ((bs.drop (4 * i)).take 4)))

/-- Bytes x to x + n - 1 of destination row k. -/
def State.rqRowBytes (s : State) (q : CopyReq) (k x n : Nat) : Except ReqStop (List Byte) :=
  let r := q.raw
  let idx (a m : Nat) : List Nat := (List.range m).map (fun i => a + i)
  if !rqQnt r then s.rqSrcs q k (idx x n)
  else do
    let bb := blockBytes (rqEfmt r) (rqBlock r)
    let b0 := x / bb
    let nb := (x + n - 1) / bb + 1 - b0
    let src ← s.rqSrcs q k (idx (4 * rqBlock r * b0) (4 * rqBlock r * nb))
    let ws := wordsOf src
    let out := (List.range nb).flatMap (fun i =>
      quantBlock (rqEfmt r) (rqSfmt r) q.comp ((ws.drop (rqBlock r * i)).take (rqBlock r)))
    return (out.drop (x - bb * b0)).take n

/-- The label of row k as it is transported (07 R169). -/
def State.rqLabel (s : State) (q : CopyReq) (k : Nat) : Except ReqStop (List Byte) :=
  let row := rqRow q.raw + k
  if tdtRows q.tdt ≤ row then .ok (List.replicate 4 0xFF)
  else s.rqBytes q (capBase q.cap + tdtLbloff q.tdt + row * tdtLblStride q.tdt) 4

/-- The labels transported in a segment: each is read once, when its first byte lands. -/
def State.rqLabels (s : State) (q : CopyReq) (pos stop : Nat) : Except ReqStop CopyReq :=
  if stop ≤ q.dataLen then .ok q
  else
    (pieces 4 4097 (pos - q.dataLen) (min (stop - q.dataLen) q.lblLen)).foldlM (fun q x => do
      if q.labels.any (fun y => y.1 == x.1) then return q
      let bs ← s.rqLabel q x.1
      return { q with labels := q.labels ++ [(x.1, w32 (fromBytes bs))] }) q

/-- The label of row k as transported. -/
def CopyReq.label (q : CopyReq) (k : Nat) : Word :=
  match q.labels.find? (fun y => y.1 == k) with
  | some y => y.2
  | none => badLabel

/-- The record of transported labels 8 g on (07 R169). -/
def CopyReq.record (q : CopyReq) (g : Nat) : List Byte :=
  let n := min 8 (rqN1 q.raw - 8 * g)
  bytesOf (summaryOf q.desc ((List.range n).map (fun i => q.label (8 * g + i)))) 32

/-- The writes of the data and label bytes of a segment, as Vat offsets with their bytes. DESIGN CHOICE (log 43): a
request's data lands first, then its labels, then its records. -/
def State.rqWrites (s : State) (q : CopyReq) (pos stop : Nat) : Except ReqStop (List (Nat × List Byte)) := do
  let r := q.raw
  let data := pieces (rqDstRow r q.tdt) 4097 pos (min stop q.dataLen)
  let xs ← data.mapM (fun x => do
    if q.skipped x.1 then return (0, [])
    let bs ← s.rqRowBytes q x.1 x.2.1 x.2.2
    return (rqDst r + x.1 * rqPitch r q.tdt + x.2.1, bs))
  let lb := pieces 4 4097 (pos - q.dataLen) (min (stop - q.dataLen) q.lblLen)
  let ys := (if q.dataLen < stop then lb else []).map (fun x =>
    (rqLblOff r + 4 * x.1 + x.2.1, ((bytesOf (q.label x.1).toNat 4).drop x.2.1).take x.2.2))
  return (xs ++ ys).filter (fun x => !x.2.isEmpty)

/-- The record bytes of a segment. -/
def CopyReq.records (q : CopyReq) (pos stop : Nat) : List (Nat × List Byte) :=
  let b := q.dataLen + q.lblLen
  if stop ≤ b then []
  else
    (pieces 32 4097 (pos - b) (min (stop - b) q.recLen)).map (fun x =>
      (rqRecOff q.raw + 32 * x.1 + x.2.1, ((q.record x.1).drop x.2.1).take x.2.2))

/-- Notes that bytes landed, which an array command need not see until a wave has waited and fenced
(06 R142). -/
def Group.noteLanded (g : Group) (bar : Nat) (off : Nat) (n : Nat) : Group :=
  { g with unfenced :=
      { off := off, olds := g.rdBytes off n, bar := bar, phase := (g.bar bar).phase } :: g.unfenced }

/-- A write of the decanter into a Vat: in a mapped region, its own group's or a multicast sibling's, the bytes
become dirty (13 R290). -/
def State.landReq (s : State) (q : CopyReq) (gid : Nat) (x : Nat × List Byte) : State :=
  let s1 := if ((s.launches.find? (fun c => c.id == (s.groupD gid).launch)).getD {}).det then s
    else s.onGroup gid (fun g => g.noteLanded (rqBar q.raw) x.1 x.2.length)
  s1.vatWrite gid x.1 x.2

/-- One Vat receives a segment: data and labels, records, and its credit. -/
def State.landVat (s : State) (q : CopyReq) (pos stop gid : Nat) (ws : List (Nat × List Byte)) : State :=
  let s1 := ws.foldl (fun s x => s.landReq q gid x) s
  let s2 := (q.records pos stop).foldl (fun s x => s.landReq q gid x) s1
  s2.barEvent gid (rqBar q.raw) (fun b => { b with landed := b.landed + (stop - pos) }) (gid == q.group)

/-- The Vat ranges that a segment touches in a group, its credit among them: mapped granules are filled first
(13 R290). -/
def CopyReq.touches (q : CopyReq) (pos stop : Nat) (ws : List (Nat × List Byte)) : List (Nat × Nat) :=
  (ws ++ q.records pos stop).map (fun x => (x.1, x.2.length)) ++ [(rqBar q.raw, 16)]

/-- Fills what a segment touches in each Vat. -/
def State.rqFill (s : State) (q : CopyReq) (pos stop : Nat) (ws : List (Nat × List Byte)) :
    List Nat → Except ReqStop State
  | [] => .ok s
  | gid :: gs =>
    match s.reqFill q gid (q.touches pos stop ws) with
    | .error x => .error x
    | .ok s1 => s1.rqFill q pos stop ws gs

/-- Fills the granules of the own Vat that a Vat source reads. -/
def State.rqSrcFill (s : State) (q : CopyReq) (pos stop : Nat) : Except ReqStop State :=
  if capGlobal q.cap || rqKind q.raw == 2 then .ok s
  else
    let rows := (pieces (rqDstRow q.raw q.tdt) 4097 pos (min stop q.dataLen)).filter
      (fun x => !q.skipped x.1)
    let addrs := rows.flatMap (fun x =>
      (List.range (rqSrcRow q.raw q.tdt)).flatMap (fun i => (q.src 1 1 x.1 i).addrs))
    let lb := if stop ≤ q.dataLen then []
      else (pieces 4 4097 (pos - q.dataLen) (min (stop - q.dataLen) q.lblLen)).filter
        (fun x => decide (rqRow q.raw + x.1 < tdtRows q.tdt))
    s.reqFill q q.group (addrs.map (fun a => (a, 1)) ++ lb.map (fun x =>
      (capBase q.cap + tdtLbloff q.tdt + (rqRow q.raw + x.1) * tdtLblStride q.tdt, 4)))

/-- The blocks of the tokens that a segment reaches. -/
def CopyReq.blocksOf (q : CopyReq) (btok pos stop : Nat) : List Nat :=
  (pieces (rqDstRow q.raw q.tdt) 4097 pos (min stop q.dataLen)).map (fun x => (rqCol q.raw + x.1) / btok)

/-- What a segment does before it writes: blocks resolved, granules filled, bytes read. -/
def State.rqPrepare (s : State) (q : CopyReq) (pos stop : Nat) :
    Except ReqStop (State × CopyReq × List (Nat × List Byte)) := do
  let q1 ← if rqKind q.raw = 2 then (do
      let btok ← s.rqPool q 100 1
      s.rqResolve q (q.blocksOf (16 * 2 ^ btok) pos stop))
    else .ok q
  let s1 ← s.rqSrcFill q1 pos stop
  let q2 ← s1.rqLabels q1 pos stop
  let ws ← s1.rqWrites q2 pos stop
  let s2 ← s1.rqFill q2 pos stop ws (s1.rqVats q2)
  return (s2, q2, ws)

/-- The Vat address at which byte p of a request's destination bytes lands. -/
def CopyReq.destAt (q : CopyReq) (p : Nat) : Nat :=
  let row := max 1 (rqDstRow q.raw q.tdt)
  if p < q.dataLen then rqDst q.raw + p / row * rqPitch q.raw q.tdt + p % row
  else if p < q.dataLen + q.lblLen then rqLblOff q.raw + (p - q.dataLen)
  else rqRecOff q.raw + (p - q.dataLen - q.lblLen)

/-- Where the segment that begins at `pos` stops: after up to 4 KiB, at the last point that splits no aligned 8-byte
unit of the destination (14 R302, 12 R250). -/
def CopyReq.segStop (q : CopyReq) : Nat :=
  let e := q.pos + 4096
  if q.total ≤ e then q.total
  else
    match (List.range 4095).find? (fun i => q.destAt (e - i) / 8 != q.destAt (e - i - 1) / 8) with
    | some i => e - i
    | none => e

/-- The global addresses that a segment reads of its source: the first of each piece and of each unit in it, then
the labels' first. -/
def State.rqReads (s : State) (q : CopyReq) (pos stop : Nat) : List Nat :=
  let r := q.raw
  if !capGlobal q.cap then []
  else
    let pool (off n : Nat) : Nat := match s.rqPool q off n with
      | .ok x => x
      | .error _ => 0
    let k2 := rqKind r == 2
    let btok := if k2 then 16 * 2 ^ pool 100 1 else 1
    let bpt := if k2 then pool 96 4 else 1
    let data := (pieces (rqDstRow r q.tdt) 4097 pos (min stop q.dataLen)).filter (fun x => !q.skipped x.1)
    let at_ (x : Nat × Nat × Nat) : List Nat :=
      let b0 := if rqQnt r then 4 * rqBlock r * (x.2.1 / blockBytes (rqEfmt r) (rqBlock r)) else x.2.1
      let n := if rqQnt r then 4 * rqBlock r else x.2.2
      match (List.range n).flatMap (fun i => (q.src btok bpt x.1 (b0 + i)).addrs) with
      | [] => []
      | a :: as => a :: as.filter (fun y => y % 4096 == 0)
    let k := rqRow r + (pos - q.dataLen) / 4
    data.flatMap at_ ++
      (if stop ≤ q.dataLen || q.lblLen == 0 || tdtRows q.tdt ≤ k then []
      else [capBase q.cap + tdtLbloff q.tdt + k * tdtLblStride q.tdt])

/-- The first global address that a segment reads of its source. -/
def State.rqFirst (s : State) (q : CopyReq) (pos stop : Nat) : Option Nat := (s.rqReads q pos stop).head?

/-- DECANTER_SEGMENT: up to 4 KiB of the request's destination bytes land and are credited, or the request
waits at this segment, or is abandoned. `refused` says that the home of the first source byte refuses the read after
every retry, for an uncorrectable error or a link failure (14 R305, 19 R357; HOME_REFUSAL raises it). -/
def State.rqSegment (s : State) (refused : Bool := false) : State :=
  match s.core.curReq with
  | none => s
  | some (i, q) =>
    if !q.valid then s
    else
      match q.token with
      | some tok => s.rqAnswer i q tok
      | none =>
      let stop := q.segStop
      match s.rqPrepare q q.pos stop with
      | .error x => s.rqStop i q x
      | .ok (s1, q1, ws) =>
        match (if refused then s1.rqFirst q1 q.pos stop else none) with
        | some a => s.rqStop i q (.code 0x036 a)
        | none =>
        let q2 := { q1 with pos := stop, landed := q1.landed + (stop - q1.pos), token := none,
                            done := decide (q.total ≤ stop) }
        let s2 := ((s1.rqReads q1 q.pos stop).foldl (fun s a => s.noteRetry (s1.rqCtx q1) a) s1).onReq i (fun _ => q2)
        let s3 := (s2.rqVats q2).foldl (fun s gid => s.landVat q2 q.pos stop gid ws) s2
        if q2.done && !rqFol q2.raw then s3.dropReq i else s3

/-- DECANTER_SEGMENT (14 R302). -/
def execDecanterSegment (s : State) : Out := .next { s.rqSegment with fresh := s.fresh + freshStride }

/-- HOME_REFUSAL: the home of the k-th access's first request refuses the requests to that frame: zero is
written, a record posted, and the trap is pending or the group fails (20 R385). After the outstanding accesses of the
issuing wave and of the saved waves, k names the read of the decanter's current segment (14 R305, 19 R357); beyond that
the next transfer that is no outstanding access is the one that fails (log 59). -/
def execHomeRefusal (k : Nat) (why : RefusalKind) (s : State) : Out :=
  if k < s.wave.outst.length + s.savedOps.length then .next (s.atAccess k (fun t i => t.refuseHome why i))
  else if s.wave.outst.length + s.savedOps.length < k then .next { s with refuseNext := some why }
  else .next { s.rqSegment true with fresh := s.fresh + freshStride }

/-! ### Follow-on commands (14 R306) -/

/-- The state as a check of a follow-on command sees it: a wave of the request's group. -/
def State.folView (s : State) (q : CopyReq) : State :=
  s.onWave (fun _ => { wid := q.wid, group := some q.group, ctx := s.rqCtx q, launch := (s.groupD q.group).launch })

/-- A follow-on command as the array takes it, or the failure of a check (06 R147, 08 R179). -/
def State.folOp (s : State) (q : CopyReq) (c : ArrayCmd) : Except Fail ArrayOp := do
  let r := q.raw
  let addr := rqCmd r 1
  let cw := rqCmd r 2
  let v := s.folView q
  match rqCmdOf r with
  | some (.mma _ _ t _ _) =>
    let x ← v.tensor { cap := q.cap, tag := q.capTag, num := 0 } 0 cw
    v.mmaChecks v.core.arrayView addr cw t.toNat (capTid q.cap) x.tdt
    return .mma (w32 addr) (w32 cw) t.toNat 0 q.cap x.tdt x.comp (bits cw 21 17) (bits cw 16 16)
  | some (.mmar _ _ t _) =>
    let hs ← v.mmarChecks v.core.arrayView c addr cw t.toNat
    return .mmar (w32 addr) (w32 cw) t.toNat hs
  | _ => return .swap

/-- The command of a request, as it enters the queue: no wave lends its registers. -/
def State.folCmd (s : State) (q : CopyReq) (op : ArrayOp) : ArrayCmd :=
  { op := op, word := w32 (rqCmd q.raw 0), wid := q.wid, group := some q.group, pc := q.pc, fibid := q.fibid,
    stamp := s.fresh, follow := some (q.group, rqBar q.raw) }

/-- Fills the granules of the headers that a follow-on MMAR reads when it enters; one that does not fill is met by its
checks. -/
def State.folFill (s : State) (q : CopyReq) : State :=
  match rqCmdOf q.raw with
  | some (.mmar ..) => (headerRanges (rqCmd q.raw 1) (rqCmd q.raw 2)).foldl (fun s x =>
      match s.reqFill q q.group [x] with
      | .ok t => t
      | .error _ => s) s
  | _ => s

/-- FOLLOW_ON_ENTRY: the first request whose every byte has landed enters its command, when the queue has
room. -/
def State.folEnter (s : State) : State :=
  match s.core.reqQ.findIdx? (fun q => q.done) with
  | none => s
  | some i =>
    let q := s.core.reqQ.getD i {}
    if 8 ≤ s.core.arrayQ.length then s
    else
      match q.token with
      | some tok => s.rqAnswer i q tok
      | none =>
      let s := s.folFill q
      match s.folOp q (s.folCmd q .swap) with
      | .ok op =>
        (s.dropReq i).onCore (fun k => { k with arrayQ := k.arrayQ ++ [s.folCmd q op] })
      | .error (.trap x) => s.homeOpen.abandon i q x.group x.code x.d1.toNat
      | .error (.steward _ page) => s.rqWait i q (page * 65536)
      | .error (.moving _ page) => s.rqWait i q (page * 65536)
      | .error (.integrity x page) =>
        (s.integrityFail (s.rqCtx q) page x (s.engRecord x q.wid q.fibid q.pc) (dieOf s.core.num)).abandon
          i q x.group x.code (page * 65536)

/-- FOLLOW_ON_ENTRY (14 R306). -/
def execFollowOnEntry (s : State) : Out := .next { s.folEnter with fresh := s.fresh + freshStride }

end Sys2Proof.Machine
end

