-- ==== Sys2Proof/Machine/Fetch.lean ====
section
/-!
DEFINITION. Sys2Proof/Machine/Fetch.lean: instruction blocks and their copies (02 R28, 13 R282), the
choice of the issue set (09 R200), the decoding of a clause (02 R26, R27), and the traps taken at a clause
boundary (20 R380).
-/

namespace Sys2Proof.Machine

open Sys2Proof

/-! ### Code bytes (02 R28) -/

/-- The key of the 64-byte block of an address of the issuing wave's context. -/
def State.blockKey (s : State) (va : Nat) : Nat := s.wave.ctx * 2 ^ 50 + va / 64 % 2 ^ 50

/-- One byte of code as the core sees it: of a copy of the block that it kept, or of memory; a wave of a deterministic
launch sees memory (24 R421). -/
def State.codeByte (s : State) (va : Nat) : Byte :=
  let p := s.physOf va .fetch
  match s.core.icache.find? (fun x => x.1 == s.blockKey va) with
  | some x =>
    if !s.wave.det && Config.keepCopy s.fresh (2 ^ 62 + s.blockKey va) then sget 0 x.2 (va % 64) else s.rdByte p
  | none => s.rdByte p

/-- The instruction word at an aligned virtual address. -/
def State.codeWord (s : State) (va : Nat) : Word :=
  w32 (fromBytes ((List.range 4).map (fun i => s.codeByte (va + i))))

/-- Keeps a copy of the block of an address as it is seen now. -/
def State.keepBlock (s : State) (va : Nat) : State :=
  let bytes := (List.range 64).map (fun i => s.codeByte (va / 64 * 64 + i))
  s.onCore (fun c => { c with icache := sins c.icache (s.blockKey va) (putBytes [] 0 bytes) })

/-! ### Target checks (10 R214) -/

/-- The detail of cause group 14 (20 R374). -/
def flowTrap (code l t jid : Nat) : TrapInfo :=
  { group := 14, code := code, d0 := w32 t, d1 := w32 (t / 2 ^ 32), d2 := w32 (l % 256 + jid % 256 * 256) }

/-- The checks of a transfer target for one lane, in the order of 10 R214. -/
def State.targetCheck (s : State) (l t : Nat) : Option Fail :=
  if 2 ^ 48 ≤ t then some (.trap (flowTrap 2 l t 0))
  else if t % 4 ≠ 0 then some (.trap (flowTrap 3 l t 0))
  else
    match s.transCheck l t .fetch false with
    | some f => some f
    | none =>
      if isHeader (s.codeWord t) then none else some (.trap (flowTrap 1 l t 0))

/-! ### Issue sets (09 R200) -/

/-- A fibre that may issue: running, and of the handler's set in handler mode (20 R376). -/
def Wave.mayIssue (w : Wave) (f : Fibre) : Bool :=
  f.present && decide (f.run = .running) && (!w.handler || f.inHandler)

/-- The PCs of the wave's issue sets, in increasing order. -/
def Wave.setPcs (w : Wave) : List Nat :=
  sortNats ((w.lanes.filter (fun f => w.mayIssue f)).map (fun f => f.pc))

/-- The waiting age of the set at a PC: the greatest of its fibres' ages. -/
def Wave.setAge (w : Wave) (pc : Nat) : Nat :=
  ((w.lanes.filter (fun f => f.present && decide (f.run = .running) && f.pc == pc)).map
    (fun f => f.age)).foldl max 0

/-- The oldest of some sets, the one of lowest PC among equals. -/
def Wave.oldest (w : Wave) : List Nat → Option Nat
  | [] => none
  | p :: ps =>
    match w.oldest ps with
    | none => some p
    | some q => if w.setAge p < w.setAge q then some q else some p

/-- The PC of the set that issues next. -/
def Wave.choosePc (w : Wave) : Option Nat :=
  let pcs := w.setPcs
  match w.oldest (pcs.filter (fun p => decide (pcs.length ≤ w.setAge p))) with
  | some p => some p
  | none =>
    match pcs.find? (fun p => decide (w.lasthdr < p)) with
    | some p => some p
    | none => pcs.head?

/-- The lanes of the set at a PC. -/
def Wave.lanesAt (w : Wave) (pc : Nat) : List Nat :=
  (List.range w.lanes.length).filter (fun l => w.mayIssue (w.fib l) && (w.fib l).pc == pc)

/-- The set at a PC is about to issue. -/
def Wave.select (w : Wave) (pc : Nat) : Wave :=
  w.mapLanes (fun _ f =>
    if w.mayIssue f && f.pc == pc then { f with inSet := true } else { f with inSet := false })

/-- The set has issued a clause: its age is 0, and every other running set is one issue older. -/
def Wave.aged (w : Wave) : Wave :=
  w.mapLanes (fun _ f =>
    if f.inSet then { f with age := 0 }
    else if f.present && decide (f.run = .running) then { f with age := w.setAge f.pc + 1 }
    else { f with age := 0 })

/-! ### Failures before an instruction issues -/

/-- The selected set parks on a page before its instruction has issued, with or without a record to the steward;
none where the wait table has no room. -/
def State.parkIdle (s : State) (l pc : Nat) (i : TrapInfo) (page : Nat) (record : Bool) : Option State :=
  let r := s.interest (dieOf s.core.num) s.wave.ctx page
  r.2.map (fun tok =>
    let s1 := if record then
        (r.1.walkMet i s.wave.ctx page).postFor (dieOf s.core.num) s.wave.ctx tok (s.recordOf (i.posted tok) (s.wave.fib l).fibid pc)
      else r.1
    { s1 with wave := s1.wave.parkFault tok i l pc, fresh := s1.fresh + freshStride })

/-- A failure of the selected set that no instruction raises: it takes no slot. `pc` is TPC. -/
def State.raiseIdle (s : State) (l pc : Nat) (f : Fail) : Out :=
  let held := s.onWave (fun w => { w with cur := none, stalled := true })
  match f with
  | .trap i => .next { s.takeTrap i l pc with fresh := s.fresh + freshStride }
  | .steward i page => .next ((s.parkIdle l pc i page true).getD held)
  | .moving i page => .next ((s.parkIdle l pc i page false).getD held)
  | .integrity i page =>
    .next (match s.parkIdle l pc i page false with
      | none => held
      | some t =>
        t.integrityFail s.wave.ctx page i (s.recordOf i (s.wave.fib l).fibid pc) (dieOf s.core.num))

/-! ### Decoding a clause (02 R22 to R28) -/

/-- What the core finds at a clause address. -/
inductive Found where
  | fail (f : Fail)
  | notHeader (w : Word)
  | badHeader (code : Nat) (w : Word)
  | badWord (code i : Nat) (w : Word) (c : ClauseBuf)
  | clause (c : ClauseBuf) (h : Header)

/-- The words of a clause of `n` words whose header stands at virtual address `h`. -/
def State.bodyWords (s : State) (h n : Nat) : List Word :=
  (List.range n).map (fun i => s.codeWord (h + 4 * (i + 1)))

/-- Reads and decodes the clause at a virtual address: execute permission of every page it touches,
then the header, then the words in order (02 R27, R28). -/
def State.findClause (s : State) (l h : Nat) : Found :=
  match s.transCheck l h .fetch false with
  | some f => .fail f
  | none =>
    let w := s.codeWord h
    if !isHeader w then .notHeader w
    else
      let last := h + 4 * (w.toNat / 2 ^ 24 % 16)
      let second := if last / 65536 = h / 65536 then none
        else (s.reserve s.wave.ctx h).transCheck l (last / 65536 * 65536) .fetch false
      match second with
      | some f => .fail f
      | none =>
        match decodeHeader w with
        | .error c => .badHeader c w
        | .ok hd =>
          let c : ClauseBuf := { addr := h, hdr := w, words := s.bodyWords h hd.count }
          match decodeBody s.wave.steward hd.cls hd.count 0 c.words with
          | .error e => .badWord e.2.1 e.1 e.2.2 c
          | .ok _ => .clause c hd

/-- The translations and the 64-byte blocks that a fetched clause used. -/
def State.noteFetch (s : State) (c : ClauseBuf) : State :=
  let last := c.addr + 4 * c.words.length
  let s1 := s.readAll (if last / 65536 = c.addr / 65536 then [c.addr]
    else [c.addr, last / 65536 * 65536])
  if last / 64 = c.addr / 64 then s1.keepBlock c.addr else (s1.keepBlock c.addr).keepBlock last

/-- The lowest lane of the selected set that fell through a clause, with that clause's header. -/
def Wave.fellFrom (w : Wave) : Option (Nat × Nat × Word) :=
  w.setLanes.findSome? (fun l => (w.fib l).prev.map (fun x => (l, x.1, x.2)))

/-- The fibre of the selected set whose woken fault failed, with its trap and the address that it reports: the
one that met the fault, or else the lowest (18 R328, 14 R300, 20 R381). -/
def Wave.wokenTrap (w : Wave) : Option (Nat × TrapInfo × Nat) :=
  let xs := w.setLanes.filterMap (fun l => (w.fib l).wakeTrap.map (fun x => (l, x.1, x.2)))
  match xs.find? (fun x => x.2.2.isSome) with
  | some x => some (x.1, x.2.1, x.2.2.getD 0)
  | none => xs.head?.map (fun x => (x.1, x.2.1, w.pc))

/-- The fibres of the selected set no longer hold a woken trap. -/
def Wave.dropWoken (w : Wave) : Wave :=
  w.mapLanes (fun _ f => if f.inSet then { f with wakeTrap := none } else f)

/-- The clause that the selected set stands in, if it is inside one. -/
def Wave.standing (w : Wave) : Option ClauseBuf := (w.fib (w.setLanes.headD 0)).clause

/-- The set stands inside the clause from now on; the header's wait mask holds a set that begins the
clause, not one that resumes in it (02 R36, 20 R378). -/
def Wave.beginClause (w : Wave) (c : ClauseBuf) (h : Header) (fresh : Bool) : Wave :=
  { (w.aged).mapLanes (fun _ f =>
      if f.inSet then { f with pc := if fresh then pc48 (c.addr + 4) else f.pc, prev := none, clause := none } else f) with
    cur := some c
    waitMask := if fresh then w.waitMask ||| h.wait else w.waitMask
    turnDone := false }

/-- The decode trap of a set about to issue (20 R374 group 1). -/
def decodeInfo (code : Nat) (w hdr : Word) (i : Nat) : TrapInfo :=
  { group := 1, code := code, d0 := w, d1 := hdr, d2 := w32 (i % 16) }

/-- The selected set, whose lowest lane is `l`, decodes the clause with header address `h`; an execute fault
reports that address, for a set inside the clause too (02 R28, 18 R335). -/
def State.decodeSet (s : State) (l h : Nat) (inside : Option ClauseBuf) : Out :=
  let s0 := s.onWave (fun w => { w with cur := inside })
  match s.findClause l h with
  | .fail f => s0.raiseIdle l h f
  | .notHeader w =>
    match s.wave.fellFrom with
    | some x => s0.raiseIdle x.1 x.2.1 (.trap (decodeInfo 0x006 w x.2.2 0))
    | none => s0.raiseIdle l h (.trap (flowTrap 1 l h 0))
  | .badHeader c w => s0.raiseIdle l h (.trap (decodeInfo c w w 0))
  | .badWord c i w b =>
    (s.onWave (fun x => { x with cur := some b })).raiseIdle l (h + 4 * (i + 1))
      (.trap (decodeInfo c w b.hdr (i + 1)))
  | .clause c hd =>
    .next
      { (s.noteFetch c).onWave (fun w => w.beginClause c hd inside.isNone) with
        fresh := s.fresh + freshStride }

/-! ### Traps at clause boundaries (20 R379, R380) -/

/-- Whether a trap of group 19 or 17 is pending and may be taken. -/
def Wave.boundaryDue (w : Wave) : Bool :=
  !w.handler && (!w.pend19.isEmpty || w.pend17) && w.cur.isNone

/-- The selected set takes the pending trap, group 19 first. -/
def State.boundaryTrap (s : State) (l : Nat) : Out :=
  let pc := s.wave.pc
  let s0 : State := { s with fresh := s.fresh + freshStride }
  match s.wave.pend19 with
  | p :: ps =>
    let s1 : State := s0.onWave (fun w => { w with pend19 := ps })
    .next (if s1.wave.tvec = 0 then s1.unhandled p.info p.fibid p.pc false
      else s1.takeTrap p.info l pc)
  | [] =>
    .next ((s0.onWave (fun w => { w with pend17 := false })).takeTrap
      { group := 17, code := 0x001, d0 := s.wave.tctl } l pc)

/-- The instruction at which the wave at the issue port stands, or the clause that its next set decodes, meets a
hardware error: the record goes to the steward and the set parks (20 R381). The entry is that of the instruction's
page; with no free entry the instruction is held and meets the error later (DESIGN CHOICE, log 49). -/
def State.meetError (s : State) (i : TrapInfo) : State :=
  if s.wave.cur.isSome then (s.parkIdle s.wave.lowest s.wave.pc i (s.wave.pc / 65536) true).getD s
  else
    match s.wave.choosePc with
    | none => s
    | some pc =>
      let s1 := s.onWave (fun w => { w.select pc with cur := (w.select pc).standing })
      (s1.parkIdle (s1.wave.setLanes.headD 0) pc i (pc / 65536) true).getD s

/-- Whether the word at the start of the selected set's next clause lets it fall in (02 R26). -/
def State.fallsWrong (s : State) (l h : Nat) : Bool :=
  s.wave.fellFrom.isSome &&
  (match s.findClause l h with
    | .notHeader _ => true
    | .fail _ => false
    | .badHeader .. => false
    | .badWord .. => false
    | .clause .. => false)

/-- The wave chooses its next issue set: a woken fault that failed is taken, then a trap pending at the
boundary, and otherwise the set's clause is decoded (09 R200, 02 R27). -/
def State.nextSet (s : State) : Out :=
  match s.wave.choosePc with
  | none => .next s
  | some pc =>
    let s1 := s.onWave (fun w => w.select pc)
    let l := s1.wave.setLanes.headD 0
    match s1.wave.wokenTrap with
    | some x =>
      (s1.onWave (fun w => { w.dropWoken with cur := w.standing })).raiseIdle x.1 x.2.2 (.trap x.2.1)
    | none =>
      match s1.wave.standing with
      | some c => s1.decodeSet l c.addr (some c)
      | none =>
        if s1.wave.boundaryDue && !s1.fallsWrong l pc then s1.boundaryTrap l
        else s1.decodeSet l pc none

/-- CLAUSE_DECODE: the wave chooses its next issue set and decodes the set's clause (02 R27, 09 R200). -/
def execClauseDecode (s : State) : Out :=
  if s.wave.cur.isSome then .next s else s.nextSet

/-- BOUNDARY_TRAP: a pending trap of group 19 or 17 is taken by the set about to issue (20 R380). -/
def execBoundaryTrap (s : State) : Out :=
  if s.wave.cur.isSome || !s.wave.boundaryDue then .next s else s.nextSet

/-! ### The timer (20 R379) -/

/-- TIMER stands at zero now: TZ is set, and with TIE the trap is pending. -/
def Wave.timerZero (w : Wave) : Wave :=
  { w with timer := 0, tctl := w.tctl ||| 4, pend17 := w.pend17 || bit w.tctl.toNat 1 }

/-- Resident cycles pass: CTXCYC counts them and so does an enabled TIMER, but not under det (09 R210). -/
def Wave.elapse (w : Wave) (n : Nat) : Wave :=
  let w1 := { w with ctxcyc := w.ctxcyc + BitVec.ofNat 64 n }
  if w.det || !bit w.tctl.toNat 0 || w.timer = 0 then w1
  else if w.timer.toNat ≤ n then w1.timerZero
  else { w1 with timer := w.timer - w32 n }

/-- Cycles pass on the core before a counter is sampled. -/
def State.sample (s : State) : State :=
  let n := Config.clocks s.fresh
  (s.onWave (fun w => w.elapse n)).onCore (fun c => { c with cyc := c.cyc + BitVec.ofNat 64 n })

/-- TIMER_EXPIRE: an enabled TIMER reaches zero (20 R379). -/
def execTimerExpire (s : State) : Out :=
  if s.wave.det || !bit s.wave.tctl.toNat 0 || s.wave.timer = 0 then .next s
  else .next (s.onWave (fun w => w.elapse w.timer.toNat))

end Sys2Proof.Machine
end

