-- ==== Sys2Proof/Machine/Control.lean ====
section
/-!
DEFINITION. Sys2Proof/Machine/Control.lean: control transfers, majors 0x2B to 0x2D: branches, calls and the
return stack, and JOIN (10 R213 to R222).
-/

namespace Sys2Proof.Machine

open Sys2Proof

/-! ### Leaving the clause (10 R213) -/

/-- The address of the word that directly follows the issuing clause. -/
def Wave.afterClause (w : Wave) : Nat :=
  match w.cur with
  | some c => c.endAddr
  | none => pc48 (w.pc + 4)

/-- A fibre that takes a transfer. -/
def Fibre.goTo (f : Fibre) (t : Nat) : Fibre :=
  { f with pc := t, spans := [], clause := none, prev := none, inSet := false }

/-- A fibre that continues at the word after the clause. -/
def Fibre.fallOut (f : Fibre) (c : Option ClauseBuf) (t : Nat) : Fibre :=
  { f with
    pc := t
    spans := []
    clause := none
    prev := match c with
      | some c => some (c.addr, c.hdr)
      | none => none
    inSet := false }

/-- Every fibre of the set leaves the clause: to its target, or to the word after it. -/
def Wave.leave (w : Wave) (tg : Nat → Option Nat) : Wave :=
  let e := w.afterClause
  (w.mapLanes (fun l f =>
    if f.inSet then
      match tg l with
      | some t => f.goTo t
      | none => f.fallOut w.cur e
    else f)).closeClause

/-- The state after a control transfer: every fibre that takes it goes to its own target. -/
def State.left (s : State) (st : Stall) (tg : Nat → Option Nat) : State :=
  { s with
    wave := { (s.wave.tick st).leave tg with retcnt := s.wave.retcnt + 1 }
    fresh := s.fresh + freshStride }

/-- A control transfer retires. -/
def State.transfer (s : State) (st : Stall) (tg : Nat → Option Nat) : Out := .next (s.left st tg)

/-- The addresses that the lanes below use take their cellar reservations first (01 R13, 18 R323). -/
def State.roomBelow (s : State) (uses : Nat → List Nat) (l : Nat) : State :=
  s.reserveAll s.wave.ctx ((s.wave.activeLanes.filter (fun i => decide (i < l))).flatMap uses)

/-- A transfer with the targets that the active lanes would take: every target is checked before any
fibre transfers, lane by lane with `pre` first, whose own addresses are `reads`; then `act` changes the active lanes
(10 R214), and `note` keeps what the word read. -/
def State.branch (s : State) (st : Stall) (u : Uses) (pre : State → Nat → Option Fail)
    (tg : State → Nat → Option Nat) (act : State → Nat → Fibre → Fibre) (note : State → State := id)
    (reads : State → Nat → List Nat := fun _ _ => []) : Out :=
  s.gate u (fun s1 =>
    let room := s1.roomBelow (fun i => reads s1 i ++ (tg s1 i).toList)
    s1.guardAll (fun l => pre (room l) l <|> (tg s1 l).bind (fun t =>
        ((room l).reserveAll s1.wave.ctx (reads s1 l)).targetCheck l t)) (fun s2 =>
      let go (l : Nat) : Option Nat := if (s2.wave.fib l).active then tg s2 l else none
      ((note s2).onWave (fun w => w.onActive (act s2))).transfer st go))

/-- The target of a B-format word, as 64 bits (02 R20). -/
def Wave.near (w : Wave) (o : BitVec 19) : Nat := wrapI 64 ((w.pc : Int) + 4 * o.toInt)

/-- No check of its own before the targets. -/
def noFail (_ : State) (_ : Nat) : Option Fail := none

/-- No change to a fibre but its PC. -/
def sameFibre (_ : State) (_ : Nat) (f : Fibre) : Fibre := f

/-! ### Branches (10 R215 to R217) -/

/-- BRP: taken where Pn is 1 with sense 0, where Pn is 0 with sense 1 (10 R215). -/
def execBrp (st : Stall) (p : Pred) (sense : Bool) (o : BitVec 19) (s : State) : Out :=
  s.branch st { rp := [p.toNat] } noFail
    (fun s1 l => if s1.readP l p.toNat != sense then some (s1.wave.near o) else none) sameFibre

/-- BRA: taken by every active fibre (10 R215). -/
def execBra (st : Stall) (o : BitVec 19) (s : State) : Out :=
  s.branch st {} noFail (fun s1 _ => some (s1.wave.near o)) sameFibre

/-- The pair that a field of even registers names, as a target of a lane. -/
def State.pairTarget (s : State) (a2 : BitVec 5) (l : Nat) : Nat := (s.readV64 l (2 * a2.toNat)).toNat

/-- BRX: each active fibre goes to its own Va:Va+1 (10 R216). -/
def execBrx (st : Stall) (a2 : BitVec 5) (s : State) : Out :=
  s.branch st { rv := [(2 * a2.toNat, 2)] } noFail (fun s1 l => some (s1.pairTarget a2 l)) sameFibre

/-- The index of a lane's entry in the table of a BRT, in bytes. -/
def State.tableOff (s : State) (b : Reg) (l : Nat) : Nat := 8 * (s.readV l b.toNat).toNat

/-- The address of a lane's table entry. -/
def State.tableEntry (s : State) (c : Num4) (b : Reg) (l : Nat) : Nat :=
  capBase (s.capSFor l c.toNat).cap + s.tableOff b l

/-- The load of a lane's table entry, as the race check sees it (12 R265). -/
def entryTouch (l a : Nat) : Touch :=
  { lane := l, space := .global, lo := a, n := 8, write := false, atomic := false }

/-- The addresses by which a table entry is translated, one for each page that its 8 bytes touch. -/
def entryPages (a : Nat) : List Nat := if (a + 7) / 65536 = a / 65536 then [a] else [a, a + 7]

/-- The checks of the load of a table entry: the address, the race check, and the translation of every page that its 8
bytes touch, then the refusal of the load at its home (10 R214 order 3, 13 R271 checks 10 to 12, log 34). No check of
its alignment is stated, and an entry at any address is read whole (DESIGN CHOICE, log 58). -/
def State.entryCheck (s : State) (l a : Nat) : Option Fail :=
  topCheck l a .read
  <|> s.stampCheck [] (entryTouch l a)
  <|> s.transSeq l .read (entryPages a)
  <|> (entryPages a).findSome? (fun p => s.readRefused l p 8)

/-- n bytes at a virtual address, each where its own page puts it. -/
def State.virtRd (s : State) (a n : Nat) : Nat :=
  fromBytes ((List.range n).map (fun i => s.rdByte (s.physOf (a + i) .read)))

/-- The loads of a BRT leave their stamps and their translations. -/
def State.entryNote (s : State) (c : Num4) (b : Reg) : State :=
  let es := s.wave.activeLanes.map (fun l => (l, s.tableEntry c b l))
  (s.recordStamps (es.map (fun x => entryTouch x.1 x.2))).readAll (es.map (fun x => x.2))

/-- BRT: the capability's checks come before any table read; the entry is a target (10 R217). The loads are made at
issue, so the word waits for the earlier accesses of its active fibres (12 R257, 13 R280). -/
def execBrt (st : Stall) (c : Num4) (b : Reg) (s : State) : Out :=
  let u := Uses.plus { rv := [(b.toNat, 1)] } (quadReads c.toNat)
  s.gate u (fun s1 =>
    if s1.accessBusy then s1.hold
    else s1.guardAll (fun l =>
      ((s1.capSFor l c.toNat).check (pTable + pGlobal) l (s1.tableOff b l) 8).map (fun i => .trap i))
      (fun s2 =>
        s2.branch st u (fun s3 l => s3.entryCheck l (s3.tableEntry c b l))
          (fun s3 l => some (s3.virtRd (s3.tableEntry c b l) 8)) sameFibre (fun s3 => s3.entryNote c b)
          (fun s3 l => entryPages (s3.tableEntry c b l))))

/-! ### Calls and the return stack (10 R218 to R221) -/

/-- SP counts the bytes in use: 16 for each frame. -/
def Fibre.sp (f : Fibre) : Nat := 16 * f.frames.length

/-- A trap of cause group 13 (20 R374). -/
def stackTrap (code l sp slim : Nat) : TrapInfo :=
  { group := 13, code := code, d0 := w32 (l % 256), d1 := w32 sp, d2 := w32 slim }

/-- SLIM of a lane as an instruction reads it. -/
def State.slimNow (s : State) (l : Nat) : Nat :=
  if (s.wave.sysOlds .slim l).isEmpty then (s.wave.fib l).slim
  else (s.sysEarly .slim l l (BitVec.ofNat 64 (s.wave.fib l).slim)).toNat

/-- The SLIM check of a call. -/
def callCheck (s : State) (l : Nat) : Option Fail :=
  let f := s.wave.fib l
  if s.slimNow l < f.sp + 16 then some (.trap (stackTrap 0x001 l f.sp (s.slimNow l))) else none

/-- Pushes the frame of a call: the return address and the window base. -/
def pushFrame (s : State) (_ : Nat) (f : Fibre) : Fibre :=
  { f with frames := (BitVec.ofNat 48 s.wave.afterClause, BitVec.ofNat 8 f.base) :: f.frames }

/-- CALL (10 R220). -/
def execCall (st : Stall) (o : BitVec 19) (s : State) : Out :=
  s.branch st {} callCheck (fun s1 _ => some (s1.wave.near o)) pushFrame

/-- CALLX (10 R220). -/
def execCallx (st : Stall) (a2 : BitVec 5) (s : State) : Out :=
  s.branch st { rv := [(2 * a2.toNat, 2)] } callCheck (fun s1 l => some (s1.pairTarget a2 l)) pushFrame

/-- The top frame of a fibre's stack. -/
def Fibre.top (f : Fibre) : Pc × Byte := f.frames.headD (0, 0)

/-- RET pops the frame and restores the window base that stood at the call (10 R221). -/
def execRet (st : Stall) (s : State) : Out :=
  s.branch st {}
    (fun s1 l =>
      let f := s1.wave.fib l
      if f.sp = 0 then some (.trap (stackTrap 0x002 l f.sp (s1.slimNow l))) else none)
    (fun s1 l => some (s1.wave.fib l).top.1.toNat)
    (fun _ _ f => { f with frames := f.frames.tail, base := f.top.2.toNat })

/-! ### JOIN (10 R222) -/

/-- A record whose expected lanes have all arrived or ended. -/
def Wave.joinFull (w : Wave) (r : JoinRec) : Bool :=
  r.expected.all (fun l => r.arrived.contains l || !(w.fib l).alive)

/-- Closes every full record: the fibres that wait in it run again. -/
def Wave.closeJoins (w : Wave) : Wave :=
  let full := (w.joins.filter (fun r => w.joinFull r)).map (fun r => r.id)
  { w.mapLanes (fun _ f =>
      if f.run = .joining ∧ full.contains f.jid then { f with run := .running } else f) with
    joins := w.joins.filter (fun r => !w.joinFull r) }

/-- Fibres that end leave every open record (10 R222). -/
def Wave.leaveJoins (w : Wave) (ls : List Nat) : Wave :=
  let drop (r : JoinRec) : JoinRec :=
    { r with expected := r.expected.filter (fun l => !ls.contains l) }
  Wave.closeJoins { w with joins := w.joins.map drop }

/-- Whether a write to a predicate of some lane has not landed. -/
def Wave.predPending (w : Wave) : Bool :=
  w.interlocks.any (fun i => i.writes.any (fun x => decide (x.1 = .p))) ||
  w.outst.any (fun o => o.dests.any (fun x => decide (x.1 = .p))) ||
  w.engW.any (fun x => decide (x.2.1 = .p))

/-- The lanes that a record of JOIN on Pn would expect. -/
def Wave.joinLanes (w : Wave) (p : Nat) : List Nat :=
  (List.range w.lanes.length).filter (fun l => (w.fib l).alive && (w.fib l).pred p)

/-- The open record of an identifier. -/
def Wave.joinRec (w : Wave) (i : Byte) : Option JoinRec := w.joins.find? (fun r => r.id == i)

/-- The active lanes that arrive: their own Pn is 1. -/
def Wave.arriving (w : Wave) (p : Nat) : List Nat :=
  w.activeLanes.filter (fun l => (w.fib l).pred p)

/-- JOIN arrives: the record opens if need be, the arriving fibres wait, and a full record closes. -/
def Wave.arrive (w : Wave) (p : Nat) (i : Byte) : Wave :=
  let ls := w.arriving p
  let old := (w.joinRec i).getD { id := i, expected := w.joinLanes p, arrived := [] }
  let new : JoinRec := { old with arrived := old.arrived ++ ls }
  { w.mapLanes (fun l f => if ls.contains l then { f with run := .joining, jid := i } else f) with
    joins := w.joins.filter (fun r => r.id != i) ++ [new] }

/-- JOIN (10 R222): it is held until every earlier predicate write of the wave has landed. -/
def execJoin (st : Stall) (p : Pred) (i : Byte) (s : State) : Out :=
  s.gate {} (fun s1 =>
    if s1.wave.predPending then s1.hold
    else if !s1.wave.anyActive then s1.transfer st (fun _ => none)
    else
      let w := s1.wave
      match w.joinRec i with
      | some r =>
        match (w.arriving p.toNat).find? (fun l => !r.expected.contains l) with
        | some l => s1.trapHere (flowTrap 0x004 l 0 i.toNat) l
        | none =>
          .next (((s1.onWave (fun w => w.arrive p.toNat i)).left st (fun _ => none)).onWave
            Wave.closeJoins)
      | none =>
        if 8 ≤ w.joins.length then s1.trapHere (flowTrap 0x005 w.lowest 0 i.toNat) w.lowest
        else
          .next (((s1.onWave (fun w => w.arrive p.toNat i)).left st (fun _ => none)).onWave
            Wave.closeJoins))

end Sys2Proof.Machine
end

