-- ==== Sys2Proof/Machine/Xlane.lean ====
section
/-!
DEFINITION. Sys2Proof/Machine/Xlane.lean: WIDTH, the cross-lane words and indirect register access:
majors 0x17, 0x18 and 0x1A (11 R237 to R246).
-/

namespace Sys2Proof.Machine

open Sys2Proof

/-! ### Completion of earlier work (10 R231) -/

/-- Every earlier instruction of the wave has completed. -/
def Wave.quiet (w : Wave) : Bool :=
  (List.range 6).all (fun i => w.ctr i == 0) && w.interlocks.isEmpty && w.outst.isEmpty

/-- The launch of a wave. -/
def State.launchOf (s : State) (id : Nat) : Launch :=
  (s.launches.find? (fun x => x.id == id)).getD {}

/-- Registers per good lane that a wave of grant g and allocation size A takes (03 R53). -/
def Core.regsFor (c : Core) (g a : Nat) : Nat := c.passes g * a

/-- A wave whose fibres have all ended and whose stores are acknowledged holds no context (10 R225). -/
def Wave.over (w : Wave) : Bool :=
  !w.lanes.any (fun f => f.alive) && w.outst.all (fun o => !o.kind.stores) && w.dying.isNone

/-- A core on which the steward's wave runs (18 R351). -/
def Core.hasSteward (c : Core) : Bool := c.num % 48 == 0

/-- Registers per lane that a core offers to user waves: the steward's wave holds 64 (03 R53, 18 R351). -/
def Core.regCap (c : Core) : Nat := if c.hasSteward then 3008 else 3072

/-- The user waves among some waves that still hold a context. -/
def userWaves (ws : List Wave) : List Wave := ws.filter (fun w => !w.steward && !w.over)

/-- Registers per good lane that the steward's wave among some waves takes beyond the 64 of one pass. -/
def Core.stewardExtra (c : Core) (ws : List Wave) : Nat :=
  ((ws.filter (fun w => w.steward)).map (fun w => c.regsFor w.g 64 - 64)).sum

/-- Registers per good lane taken by the other waves of the issuing wave's core. -/
def State.regsOthers (s : State) : Nat :=
  ((userWaves s.core.waves).map (fun w => s.core.regsFor w.g (s.launchOf w.launch).win)).sum +
    s.core.stewardExtra s.core.waves

/-- Registers per good lane that the rotation of a deterministic launch takes beside the issuing wave,
with p = ⌈g/64⌉ on every core (11 R237). -/
def State.rotationOthers (s : State) : Nat :=
  (((userWaves s.core.waves).filter (fun w => w.launch == s.wave.launch)).map (fun w =>
    ceilDiv w.g 64 * (s.launchOf w.launch).win)).sum

/-! ### WIDTH (11 R237) -/

/-- One more than the highest lane whose fibre has not ended. -/
def Wave.highLane (w : Wave) : Nat :=
  (List.range w.lanes.length).foldl (fun h l => if (w.fib l).alive then l + 1 else h) 0

/-- Whether a grant's registers fit: the steward's fibres hold 64 each and share the whole file (03 R53, 18 R351). -/
def State.grantFits (s : State) (g : Nat) : Bool :=
  let a := (s.launchOf s.wave.launch).win
  if s.wave.steward then decide (s.regsOthers + s.core.regsFor g 64 ≤ 3072)
  else if s.wave.det then decide (s.rotationOthers + ceilDiv g 64 * a ≤ 3072)
  else decide (s.regsOthers + s.core.regsFor g a ≤ s.core.regCap)

/-- Lowers a grant until its registers fit or it stands at the present grant; `n` bounds the descent. -/
def State.lowerGrant (s : State) : Nat → Nat → Nat
  | 0, g => g
  | n + 1, g => if s.wave.g < g && !s.grantFits g then s.lowerGrant n (g - 1) else g

/-- The grant that WIDTH gives for a request. -/
def State.widthGrant (s : State) (r : Nat) : Nat :=
  if (s.launchOf s.wave.launch).legacy ≠ 0 then s.wave.g
  else
    let lim := if s.wave.det then 128 else s.core.gmax
    s.lowerGrant 256 (max (max (min r lim) s.wave.highLane) 1)

/-- A new grant: lanes added hold no fibre, lanes removed hold none that has not ended. -/
def Wave.setGrant (w : Wave) (g : Nat) : Wave :=
  { w with g := g, lanes := (w.lanes ++ List.replicate (g - w.lanes.length) ({} : Fibre)).take g }

/-- The wave as a word sees it that is held until every earlier instruction has completed: the results of
variable-latency operations are there. -/
def Wave.allLanded (w : Wave) : Wave := { w with board := w.board.filter (fun e => e.ctr.isNone) }

/-- WIDTH, held at issue until every earlier instruction of the wave has completed and no register is lent; only then
are its operand and its schedule looked at (11 R237). -/
def execWidth (st : Stall) (d a : Reg) (s : State) : Out :=
  let u : Uses := { rs := [a.toNat], ws := [d.toNat] }
  let w := s.wave.meetMask
  if s.held u || !(w.quiet && w.lent.isEmpty) then s.hold
  else s.gate u (fun s1 =>
    if !s1.wave.anyActive then s1.retire st
    else
      let r := ((s1.onWave Wave.allLanded).readS a.toNat).toNat
      if r = 0 ∨ 256 < r then
        s1.trapHere
          { group := 12, code := 0x025, d0 := w32 (s1.wave.lowest % 256 + a.toNat * 256),
            d1 := w32 r } s1.wave.lowest
      else
        let g := s1.widthGrant r
        (s1.onWave (fun w => (w.writeS latX d.toNat (w32 g)).setGrant g)).retire st)

/-! ### Lanes read across (11 R238) -/

/-- The register that a source lane supplies, if its fibre has not ended and its allocation holds it. -/
def Wave.crossReg (w : Wave) (l n : Nat) : Option (Nat × Nat) :=
  let f := w.fib l
  if decide (l < w.g) && f.alive && decide (f.base + n < f.alloc) then some (l, f.base + n) else none

/-- The value that a source lane below G supplies to lane `who`: 0 if its fibre has ended or its allocation is too
small. -/
def State.crossRead (s : State) (who l n : Nat) : Word :=
  match s.wave.crossReg l n with
  | some x => s.readAFor who x.1 x.2
  | none => 0

/-- The register that a lane's source supplies, as a read on the lane's own account; without a source it is the
lane's own where `own` says so (11 R238, R239). -/
def State.sourceUse (s : State) (a : Nat) (own : Bool) (l : Nat) : Option Nat → List RegUse
  | some j =>
    match s.wave.crossReg j a with
    | some x => [{ file := .v, lane := x.1, reg := x.2, name := a, who := l }]
    | none => []
  | none => if own then s.wave.vUses l [(a, 1)] else []

/-- A cross-lane word that reads Va of a source lane per active lane. `src` gives the source lane, as it stands
once the clause's wait is met. -/
def State.shuffle (s : State) (st : Stall) (d a : Reg) (u : Uses) (own : Bool)
    (src : State → Nat → Option Nat) (dflt : State → Nat → Word) : Out :=
  let t := s.onWave Wave.meetMask
  let xr := t.wave.activeLanes.flatMap (fun l => t.sourceUse a.toNat own l (src t l))
  s.alu st latX (.v d.toNat) (Uses.plus { nv := [(a.toNat, 1)], xr := xr } u) (fun s1 l =>
    { val := wide (match src s1 l with
        | some j => s1.crossRead l j a.toNat
        | none => dflt s1 l) })

/-- The source lane, if it is below G. -/
def State.belowG (s : State) (j : Nat) : Option Nat := if j < s.wave.g then some j else none

/-- SHFL.idx (11 R239). -/
def execShflIdx (st : Stall) (d a b : Reg) (s : State) : Out :=
  s.shuffle st d a { rv := [(b.toNat, 1)] } true
    (fun s1 l => s1.belowG (s1.readV l b.toNat).toNat) (fun s1 l => s1.readV l a.toNat)

/-- SHFL.up (11 R239). -/
def execShflUp (st : Stall) (d a b : Reg) (s : State) : Out :=
  s.shuffle st d a { rs := [b.toNat] } true
    (fun s1 l => if (s1.readSFor l b.toNat).toNat ≤ l then some (l - (s1.readSFor l b.toNat).toNat) else none)
    (fun s1 l => s1.readV l a.toNat)

/-- SHFL.down (11 R239). -/
def execShflDown (st : Stall) (d a b : Reg) (s : State) : Out :=
  s.shuffle st d a { rs := [b.toNat] } true
    (fun s1 l => s1.belowG (l + (s1.readSFor l b.toNat).toNat)) (fun s1 l => s1.readV l a.toNat)

/-- SHFL.xor (11 R239). -/
def execShflXor (st : Stall) (d a b : Reg) (s : State) : Out :=
  s.shuffle st d a { rs := [b.toNat] } true
    (fun s1 l => s1.belowG (Nat.xor l (s1.readSFor l b.toNat).toNat)) (fun s1 l => s1.readV l a.toNat)

/-- BCAST; a source at or beyond G gives 0 (11 R239). -/
def execBcast (st : Stall) (d a b : Reg) (s : State) : Out :=
  s.shuffle st d a { rs := [b.toNat] } false
    (fun s1 l => s1.belowG (s1.readSFor l b.toNat).toNat) (fun _ _ => 0)

/-- The lowest active lane that sends to lane `l`, as lane `l` reads the senders' registers (11 R240). -/
def State.sender (s : State) (b : Nat) (l : Nat) : Option Nat :=
  s.wave.activeLanes.find? (fun j => (s.readVFor l j b).toNat == l)

/-- A register of every active lane, as the reads of each of them: the lowest is the first on whose account each is
read (11 R238). -/
def Wave.votersUses (w : Wave) (file : RegFile) (n : Nat) : List RegUse :=
  w.activeLanes.map (fun l =>
    { file := file, lane := l, reg := (if file = .v then (w.fib l).base else 0) + n, name := n, who := w.lowest })

/-- The registers that PERM reads: Vb of every active lane for each of them, and for each named lane the Va of its
sender. -/
def State.permUses (s : State) (a b : Nat) : List RegUse :=
  s.wave.votersUses .v b ++ s.wave.activeLanes.filterMap (fun l =>
    (s.sender b l).map (fun j =>
      { file := .v, lane := j, reg := (s.wave.fib j).base + a, name := a, who := l }))

/-- PERM: an active lane that no lane names keeps its Vd (11 R240). -/
def execPerm (st : Stall) (d a b : Reg) (s : State) : Out :=
  s.gate { nv := [(a.toNat, 1), (b.toNat, 1)], wv := [(d.toNat, 1)],
           xr := (s.onWave Wave.meetMask).permUses a.toNat b.toNat } (fun s1 =>
    let named := s1.wave.activeLanes.filter (fun l => (s1.sender b.toNat l).isSome)
    let val (l : Nat) : Word := s1.readVFor l ((s1.sender b.toNat l).getD l) a.toNat
    (s1.onWave (fun w =>
      { (w.supersede (named.map (fun l => (RegFile.v, l, (w.fib l).base + d.toNat)))).mapLanes
          (fun l f => if named.contains l then f.putV (f.base + d.toNat) (val l) else f) with
        board := named.map (fun l =>
          { file := .v, reg := (w.fib l).base + d.toNat, lane := l,
            old := (w.fib l).reg ((w.fib l).base + d.toNat), slot := w.slotNo,
            lat := latX }) ++ w.board })).retire st)

/-- VOTE.any (11 R241). -/
def execVoteAny (st : Stall) (p q : Pred) (s : State) : Out :=
  s.alu st latX (.p p.toNat) { xr := s.wave.votersUses .p q.toNat } (fun s1 l =>
    { val := truth (s1.wave.activeLanes.any (fun j => s1.readPFor l j q.toNat)) })

/-- VOTE.all (11 R241). -/
def execVoteAll (st : Stall) (p q : Pred) (s : State) : Out :=
  s.alu st latX (.p p.toNat) { xr := s.wave.votersUses .p q.toNat } (fun s1 l =>
    { val := truth (s1.wave.activeLanes.all (fun j => s1.readPFor l j q.toNat)) })

/-- The ballot mask as a lane receives it (11 R241). -/
def State.ballot (s : State) (l q : Nat) : Nat :=
  (s.wave.activeLanes.map (fun j => if s.readPFor l j q then 2 ^ j else 0)).sum

/-- VOTE.ballot: word k of the ballot mask, 0 for k above 7 (11 R241). -/
def execVoteBallot (st : Stall) (d : Reg) (q : Pred) (b : Reg) (s : State) : Out :=
  s.alu st latX (.v d.toNat) { xr := s.wave.votersUses .p q.toNat, rs := [b.toNat] } (fun s1 l =>
    let k := (s1.readSFor l b.toNat).toNat
    { val := wide (if 7 < k then 0 else w32 (s1.ballot l q.toNat / 2 ^ (32 * k))) })

/-- MATCH: the lowest active lane with an equal Va (11 R242). -/
def execMatchL (st : Stall) (d a : Reg) (s : State) : Out :=
  s.alu st latX (.v d.toNat) { nv := [(a.toNat, 1)], xr := s.wave.votersUses .v a.toNat } (fun s1 l =>
    { val := BitVec.ofNat 64
        ((s1.wave.activeLanes.find? (fun j => s1.readVFor l j a.toNat == s1.readV l a.toNat)).getD l) })

/-! ### Reductions, scans and segments (11 R243 to R245) -/

/-- An operator on two values, with the flags it raises (11 R243). -/
def redOp (o : RedOp) (m : RoundMode) (x y : Word) : Word × Word :=
  match o with
  | .addI32 => (x + y, 0)
  | .addF32 => let r := fpAdd fp32 m x.toNat y.toNat; (w32 r.code, r.flags)
  | .minI32 => (minS x y, 0)
  | .maxI32 => (maxS x y, 0)
  | .minN32 => (minU x y, 0)
  | .maxN32 => (maxU x y, 0)
  | .minF32 => let r := minMax fp32 false x.toNat y.toNat; (w32 r.code, r.flags)
  | .maxF32 => let r := minMax fp32 true x.toNat y.toNat; (w32 r.code, r.flags)
  | .bitAnd => (x &&& y, 0)
  | .bitOr => (x ||| y, 0)
  | .bitXor => (x ^^^ y, 0)

/-- The identity of an operator (11 R243). -/
def redIdentity : RedOp → Word
  | .addI32 => 0
  | .addF32 => 0
  | .minI32 => 0x7FFFFFFF
  | .maxI32 => 0x80000000
  | .minN32 => 0xFFFFFFFF
  | .maxN32 => 0
  | .minF32 => 0x7F800000
  | .maxF32 => 0xFF800000
  | .bitAnd => 0xFFFFFFFF
  | .bitOr => 0
  | .bitXor => 0

/-- One level of the pairwise tree over present and absent nodes (11 R244). -/
def treeLevel (o : RedOp) (m : RoundMode) :
    List (Option Word) → List (Option Word) × Word
  | x :: y :: xs =>
    let r := treeLevel o m xs
    match x, y with
    | some a, some b => let z := redOp o m a b; (some z.1 :: r.1, z.2 ||| r.2)
    | some a, none => (some a :: r.1, r.2)
    | none, some b => (some b :: r.1, r.2)
    | none, none => (none :: r.1, r.2)
  | [x] => ([x], 0)
  | [] => ([], 0)

/-- The tree's root over 2^n slots, with the OR of the flags of every rounding step. -/
def treeRoot (o : RedOp) (m : RoundMode) : Nat → List (Option Word) → Option Word × Word
  | 0, xs => (xs.headD none, 0)
  | n + 1, xs =>
    let r := treeLevel o m xs
    let t := treeRoot o m n r.1
    (t.1, r.2 ||| t.2)

/-- The inclusive values of the active lanes in increasing order, with the flags of every step
(11 R244): `head` says where a segment begins. -/
def scanGo (o : RedOp) (m : RoundMode) (val : Nat → Word) (head : Nat → Bool) :
    Option Word → List Nat → List (Nat × Word) × Word
  | _, [] => ([], 0)
  | acc, l :: ls =>
    let r : Word × Word :=
      match acc, head l with
      | some x, false => redOp o m x (val l)
      | _, _ => (val l, 0)
    let t := scanGo o m val head (some r.1) ls
    ((l, r.1) :: t.1, r.2 ||| t.2)

/-- The tree over slots 0 to 255 as a lane receives it: a slot is present where its lane is active (11 R244). -/
def State.redTree (s : State) (o : RedOp) (a l : Nat) : Option Word × Word :=
  treeRoot o s.wave.rm 8 ((List.range 256).map (fun j =>
    if (s.wave.fib j).active then some (s.readVFor l j a) else none))

/-- The scan of the active lanes as a lane receives it (11 R244). -/
def State.redScan (s : State) (o : RedOp) (a l : Nat) (head : Nat → Bool) : List (Nat × Word) × Word :=
  scanGo o s.wave.rm (fun j => s.readVFor l j a) head none s.wave.activeLanes

/-- XRED: a pairwise tree over slots 0 to 255 (11 R244). The flags of every step are those of each lane's result. -/
def execXred (st : Stall) (o : RedOp) (d a : Reg) (s : State) : Out :=
  s.alu st latX (.v d.toNat) { nv := [(a.toNat, 1)], xr := s.wave.votersUses .v a.toNat } (fun s1 l =>
    let r := s1.redTree o a.toNat l
    { val := wide (r.1.getD 0), flags := r.2, a := s1.readV l a.toNat })

/-- XSCAN.inc (11 R244). -/
def execXscanInc (st : Stall) (o : RedOp) (d a : Reg) (s : State) : Out :=
  s.alu st latX (.v d.toNat) { rv := [(a.toNat, 1)] } (fun s1 l =>
    let r := s1.redScan o a.toNat l (fun _ => false)
    { val := wide (sget 0 r.1 l), flags := r.2, a := s1.readV l a.toNat })

/-- XSCAN.exc: the inclusive value of the previous active lane, or the identity (11 R244). -/
def execXscanExc (st : Stall) (o : RedOp) (d a : Reg) (s : State) : Out :=
  s.alu st latX (.v d.toNat) { rv := [(a.toNat, 1)] } (fun s1 l =>
    let r := s1.redScan o a.toNat l (fun _ => false)
    let before := (r.1.filter (fun x => decide (x.1 < l))).map (fun x => x.2)
    { val := wide (before.getLast?.getD (redIdentity o)), flags := r.2, a := s1.readV l a.toNat })

/-- XSEG: Pn marks the lanes where a segment begins (11 R244, R245). -/
def execXseg (st : Stall) (o : RedOp) (d a : Reg) (p : Pred) (s : State) : Out :=
  s.alu st latX (.v d.toNat) { rv := [(a.toNat, 1)], rp := [p.toNat] } (fun s1 l =>
    let r := s1.redScan o a.toNat l (fun j => s1.readPFor l j p.toNat)
    { val := wide (sget 0 r.1 l), flags := r.2, a := s1.readV l a.toNat })

/-! ### Indirect register access (11 R246) -/

/-- The lowest active lane whose index lies at or beyond A - b. -/
def State.badIndex (s : State) (n : Nat) : Option Nat :=
  s.wave.activeLanes.find? (fun l =>
    decide ((s.wave.fib l).alloc ≤ (s.wave.fib l).base + (s.readV l n).toNat))

/-- The trap of an index beyond the allocation. -/
def State.indexTrap (s : State) (n l : Nat) : Out :=
  s.trapHere { group := 12, code := 0x020, d0 := w32 (l % 256 + n * 256), d1 := s.readV l n } l

/-- The allocation registers that the indices of the active lanes name. -/
def State.indexRegs (s : State) (n : Nat) : List RegUse :=
  s.wave.activeLanes.map (fun l =>
    { file := .v, lane := l, reg := (s.wave.fib l).base + (s.readV l n).toNat, name := (s.readV l n).toNat, who := l })

/-- VXLD: Vd receives the register that Va names (11 R246). -/
def execVxld (st : Stall) (d a : Reg) (s : State) : Out :=
  s.gate { rv := [(a.toNat, 1)], wv := [(d.toNat, 1)] } (fun s1 =>
    match s1.badIndex a.toNat with
    | some l => s1.indexTrap a.toNat l
    | none =>
      s1.alu st latX (.v d.toNat) { rv := [(a.toNat, 1)], xr := s1.indexRegs a.toNat } (fun s2 l =>
        { val := wide (s2.readA l ((s2.wave.fib l).base + (s2.readV l a.toNat).toNat)) }))

/-- VXST: the register that Vd names receives Va (11 R246). -/
def execVxst (st : Stall) (d a : Reg) (s : State) : Out :=
  s.gate { rv := [(d.toNat, 1), (a.toNat, 1)] } (fun s1 =>
    match s1.badIndex d.toNat with
    | some l => s1.indexTrap d.toNat l
    | none =>
      s1.gate { rv := [(d.toNat, 1), (a.toNat, 1)], xw := s1.indexRegs d.toNat } (fun s2 =>
        (s2.onWave (fun w =>
          { (w.supersede (w.activeLanes.map (fun l =>
              (RegFile.v, l, (w.fib l).base + (s2.readV l d.toNat).toNat)))).onActive (fun l f =>
              f.putV (f.base + (s2.readV l d.toNat).toNat) (s2.readV l a.toNat)) with
            board := w.activeLanes.map (fun l =>
              let r := (w.fib l).base + (s2.readV l d.toNat).toNat
              { file := .v, reg := r, lane := l, old := (w.fib l).reg r, slot := w.slotNo,
                lat := latX }) ++ w.board })).retire st))

end Sys2Proof.Machine
end

