-- ==== Sys2Proof/Machine/Work.lean ====
section
/-!
DEFINITION. Sys2Proof/Machine/Work.lean: creating and ending work: major 0x2E (10 R223 to R226), the state in
which a wave starts (09 R189), bins (09 R201), and launch queues in memory (09 R193, R194).
-/

namespace Sys2Proof.Machine

open Sys2Proof

/-! ### The wave that a launch creates (09 R189, R186) -/

/-- S registers from the argument block. -/
def Launch.sregs (c : Launch) : Regs :=
  (List.range c.args.length).foldl (fun m i => sput 0 m i (c.args.getD i 0)) []

/-- Tags of the quads named in capmask. -/
def Launch.stags (c : Launch) : Flags :=
  (List.range 16).foldl (fun m q => sput false m q (c.capmask.getLsbD q)) []

/-- A wave of a launch before it holds fibres. -/
def Launch.wave (c : Launch) (wid slot g : Nat) : Wave :=
  { wid := wid, slot := slot, ctx := c.ctx, launch := c.id, g := g
    lanes := List.replicate g ({} : Fibre)
    s := c.sregs, stags := c.stags, det := c.det, chkd := c.chkd, tvec := c.tvec }

/-- A fibre as it starts: PC, allocation and numbers; everything else is zero. -/
def Launch.fibre (c : Launch) (pc : Nat) (fibid : Word) (lvl : List Word) : Fibre :=
  { present := true, run := .running, pc := pc48 pc, alloc := c.win, fibid := fibid, lvl := lvl }

/-- Values in V0, V1, ... of a fibre that starts. -/
def Fibre.withVals (f : Fibre) (vals : List Word) : Fibre :=
  { f with v := (List.range vals.length).foldl (fun m i => sput 0 m i (vals.getD i 0)) f.v }

/-- The wave contexts that a core offers to user waves. -/
def Core.slots (c : Core) : Nat := if c.hasSteward then 31 else 32

/-- The wave contexts that a launch's waves may take on a core: of a deterministic launch 32 on every core (09 R211,
DEDUCED log 45). -/
def Core.slotsFor (c : Core) (x : Launch) : Nat := if x.det then 32 else c.slots

/-- The lowest free wave context of a core that runs the given waves, for a wave of a launch. -/
def Core.freeSlot (c : Core) (x : Launch) (ws : List Wave) : Option Nat :=
  (List.range (c.slotsFor x)).find? (fun i => (userWaves ws).all (fun w => w.slot != i))

/-- Registers per good lane that the given waves leave free on a core. -/
def State.freeRegs (s : State) (c : Core) (ws : List Wave) : Nat :=
  c.regCap - ((userWaves ws).map (fun w => c.regsFor w.g (s.launchOf w.launch).win)).sum - c.stewardExtra ws

/-- A new wave of grant g of a launch finds its registers on a core: for a deterministic launch with p = ⌈G/64⌉
against 3,072 on every core, as WIDTH counts (11 R237, 09 R211, DEDUCED log 45). -/
def State.regsFit (s : State) (c : Core) (x : Launch) (g : Nat) (ws : List Wave) : Bool :=
  if x.det then
    decide (((userWaves ws).map (fun w => ceilDiv w.g 64 * (s.launchOf w.launch).win)).sum + ceilDiv g 64 * x.win ≤ 3072)
  else decide (c.regsFor g x.win ≤ s.freeRegs c ws)

/-- The waves of the issuing wave's core, the issuing one first. -/
def State.hereWaves (s : State) : List Wave := s.wave :: s.core.waves

/-- The rotation of a deterministic launch without its ended waves (09 R208). -/
def State.rotationOf (s : State) (c : Launch) : List Nat :=
  c.rotation.filter (fun i => s.allWaves.any (fun w => w.wid == i && !w.over))

/-- Whether a deterministic launch's rotation has room for one more wave (09 R208). -/
def State.rotationRoom (s : State) (c : Launch) : Bool :=
  !c.det || decide ((s.rotationOf c).length < 32)

/-- Adds a wave to the issuing wave's core and to its launch's rotation; its group counts it. -/
def State.addWave (s : State) (w : Wave) : State :=
  let s1 := s.onCore (fun c => { c with waves := c.waves ++ [{ w with resident := s.nextRes }] })
  let s2 := match w.group with
    | some gid => s1.onGroup gid (fun g => { g with waves := g.waves + 1 })
    | none => s1
  { s2.onLaunch w.launch (fun c =>
      if c.det then { c with rotation := c.rotation ++ [w.wid] } else c) with
    nextRes := s.nextRes + 1
    nextWid := s.nextWid + 1 }

/-! ### Interlocked predicates (02 R32) -/

/-- The predicate destination of FORK, SPAWN and LAUNCH: written by INTERLOCK_RESULT, lane by lane. -/
def State.interlockP (s : State) (st : Stall) (d : Nat) (vals : List (Nat × Bool)) : Out :=
  let writes : List (RegFile × Nat × Nat × Word) :=
    if d = 0 then [] else vals.map (fun x => (RegFile.p, x.1, d, if x.2 then 1 else 0))
  (s.onWave (fun w =>
    { w.supersede (writes.map (fun x => (x.1, x.2.1, x.2.2.1))) with
      interlocks := w.interlocks ++ [⟨writes⟩] })).issue st

/-- The values Vb to Vb + 7 of a lane. -/
def State.eight (s : State) (l n : Nat) : List Word := (List.range 8).map (fun i => s.readV l (n + i))

/-! ### FORK (10 R223, 09 R201, R202) -/

/-- The largest grant that the issuing wave's core gives a task wave of a launch (09 R202, 11 R247); to one of a
deterministic launch at most 128, on every core (09 R211, 11 R237, DEDUCED log 45). -/
def Core.taskGrant (c : Core) (x : Launch) : Nat :=
  if x.legacy ≠ 0 then x.legacy else min x.greq (if x.det then 128 else c.gmax)

/-- A core's bins hold 2,048 items in all. -/
def Core.binItems (c : Core) : Nat := (c.bins.map (fun b => b.items.length)).sum

/-- The first of some bins that passes a test gets an item. -/
def binAdd (p : Bin → Bool) (x : Item) : List Bin → List Bin
  | [] => []
  | b :: bs => if p b then { b with items := b.items ++ [x] } :: bs else b :: binAdd p x bs

/-- Whether a bin has the key and room for an item. -/
def Bin.takes (b : Bin) (launch entry : Nat) : Bool :=
  b.launch == launch && b.entry == entry && decide (b.items.length < 256)

/-- Places one item in the bins of a core, or in the launch's overflow queue, or nowhere (09 R201). -/
def State.placeItem (s : State) (launch entry : Nat) (vals : List Word) : State × Bool :=
  let c := s.launchOf launch
  let x : Item := { order := c.order, entry := entry, vals := vals }
  let count (t : State) : State := t.onLaunch launch (fun c => { c with order := c.order + 1 })
  if s.core.binItems < 2048 ∧ s.core.bins.any (fun b => b.takes launch entry) then
    (count (s.onCore (fun k => { k with bins := binAdd (fun b => b.takes launch entry) x k.bins })),
      true)
  else if s.core.binItems < 2048 ∧ s.core.bins.length < 16 then
    (count (s.onCore (fun k =>
      { k with bins := k.bins ++ [{ launch := launch, entry := entry, items := [x],
                                    due := decide (c.bintmo = 0) }] })), true)
  else if c.ovfq ≠ 0 ∧ c.ovf.length < c.ovfcap then
    (count (s.onLaunch launch (fun c => { c with ovf := c.ovf ++ [x] })), true)
  else (s, false)

/-- Places the items of some lanes in increasing lane order; the answers are in the same order. -/
def State.placeAll (s : State) (launch : Nat) : List (Nat × Nat × List Word) →
    State × List (Nat × Bool)
  | [] => (s, [])
  | x :: xs =>
    let r := s.placeItem launch x.2.1 x.2.2
    let t := r.1.placeAll launch xs
    (t.1, (x.1, r.2) :: t.2)

/-- The operands of FORK and SPAWN. -/
def forkUses (p : Pred) (a2 : BitVec 5) (b : Reg) : Uses :=
  { rv := [(2 * a2.toNat, 2), (b.toNat, 8)], wp := [p.toNat] }

/-- FORK and SPAWN: entries of every active fibre are checked before anything is created. The word waits until the
earlier accesses of its active fibres are performed: what it creates happens after them (10 R223, R224, 12 R253). -/
def State.create (s : State) (st : Stall) (p : Pred) (a2 : BitVec 5) (b : Reg)
    (k : State → Out) : Out :=
  s.gate (forkUses p a2 b) (fun s1 =>
    if s1.accessBusy then s1.hold
    else if !s1.wave.anyActive then s1.retire st
    else s1.guardAll (fun l =>
      (s1.roomBelow (fun i => [s1.pairTarget a2 i]) l).targetCheck l (s1.pairTarget a2 l)) k)

/-- FORK (10 R223). -/
def execFork (st : Stall) (p : Pred) (a2 : BitVec 5) (b : Reg) (s : State) : Out :=
  s.create st p a2 b (fun s1 =>
    let items := s1.wave.activeLanes.map (fun l => (l, s1.pairTarget a2 l, s1.eight l b.toNat))
    let r := s1.placeAll s1.wave.launch items
    r.1.interlockP st p.toNat r.2)

/-! ### SPAWN (10 R224) -/

/-- The waves of a group that still hold a context. -/
def State.groupWaves (s : State) (gid : Nat) : List Wave :=
  s.allWaves.filter (fun w => w.group == some gid && !w.over)

/-- The lowest index that no wave of a group holds. -/
def State.freeIndex (s : State) (gid : Nat) : Nat :=
  ((List.range 32).find? (fun i => (s.groupWaves gid).all (fun w => w.index != i))).getD 0

/-- Whether SPAWN creates its wave. -/
def State.spawnFits (s : State) : Bool :=
  match s.wave.group with
  | none => false
  | some gid =>
    let c := s.launchOf s.wave.launch
    decide ((s.groupWaves gid).length < 32) && s.rotationRoom c && !c.stopped &&
    (s.core.freeSlot c s.hereWaves).isSome && s.regsFit s.core c s.wave.g s.hereWaves

/-- The wave that SPAWN creates: a fibre in each active lane. -/
def State.spawned (s : State) (a2 : BitVec 5) (b : Reg) : Wave :=
  let c := s.launchOf s.wave.launch
  let w := c.wave s.nextWid ((s.core.freeSlot c s.hereWaves).getD 0) s.wave.g
  let fibre (l : Nat) : Fibre :=
    let f := s.wave.fib l
    if f.active then
      (c.fibre (s.pairTarget a2 l) f.fibid f.lvl).withVals (s.eight l b.toNat)
    else {}
  { w with
    group := s.wave.group
    index := s.freeIndex (s.wave.group.getD 0)
    lanes := (List.range s.wave.g).map fibre }

/-- SPAWN (10 R224). -/
def execSpawn (st : Stall) (p : Pred) (a2 : BitVec 5) (b : Reg) (s : State) : Out :=
  s.create st p a2 b (fun s1 =>
    let ok := s1.spawnFits
    let s2 := if ok then s1.addWave (s1.spawned a2 b) else s1
    s2.interlockP st p.toNat (s1.wave.activeLanes.map (fun l => (l, ok))))

/-! ### END (10 R225) -/

/-- Fibres end and leave the open join records (10 R222, R225). -/
def Wave.endLanes (w : Wave) (ls : List Nat) : Wave :=
  (w.mapLanes (fun l f => if ls.contains l then { f with run := .ended } else f)).leaveJoins ls

/-- END: each active fibre ends (10 R225). -/
def execEndF (st : Stall) (s : State) : Out :=
  s.gate {} (fun s1 =>
    .next ((s1.onWave (fun w => w.endLanes w.activeLanes)).left st (fun _ => none)))

/-! ### Launch queues (09 R193, R194) -/

/-- A queue descriptor. -/
structure QueueDesc where
  addr : Nat
  base : Nat
  lgn  : Nat
  cls  : Nat
  en   : Bool
  head : Nat
  tail : Nat
  mbz  : Nat
  deriving DecidableEq, Repr

/-- The descriptor of a queue of a context, as memory holds it. -/
def State.queueDesc (s : State) (ctx q : Nat) : Option QueueDesc :=
  match (s.ctxD ctx).queues.find? (fun x => x.num == q) with
  | none => none
  | some x =>
    match s.ctxUnits ctx x.desc 2 with
    | none => none
    | some bs =>
      let v := fromBytes bs
      some { addr := x.desc, base := bits v 63 0, lgn := bits v 67 64, cls := bits v 69 68,
             en := bit v 70, head := bits v 223 192, tail := bits v 255 224, mbz := bits v 191 71 }

/-- Slots of a queue. -/
def QueueDesc.slots (q : QueueDesc) : Nat := 2 ^ (q.lgn + 4)

/-- Records submitted and not accepted. -/
def QueueDesc.count (q : QueueDesc) : Nat := (q.tail + 2 ^ 32 - q.head) % 2 ^ 32

/-- Whether the queue is enabled: lgn above 11 disables it. -/
def QueueDesc.enabled (q : QueueDesc) : Bool := q.en && decide (q.lgn ≤ 11)

/-- More records than slots: the device clears en and posts a record to the steward (09 R194). -/
def State.disableQueue (s : State) (ctx qn : Nat) (q : QueueDesc) : State :=
  let s1 := match s.ctxRd ctx (q.addr + 8) 1 with
    | some v => s.ctxWr ctx (q.addr + 8) (v - (if bit v 6 then 64 else 0)) 1
    | none => s
  (s1.postEvent 2 ctx (qn % 256)).postSteward 0
    { info := { group := Config.queueCause.toNat / 2048, code := Config.queueCause.toNat % 2048 }
      ctx := ctx }

/-- Slot k of a queue. -/
def QueueDesc.slot (q : QueueDesc) (k : Nat) : Nat := q.base + 128 * (k % q.slots)

/-- Submits a record: the slot, then the tail; `none` when the queue does not take it (10 R226). -/
def State.submit (s : State) (ctx qn : Nat) (bytes : List Byte) : Option State :=
  match s.queueDesc ctx qn with
  | none => none
  | some q =>
    if !q.enabled || q.slots ≤ q.count then none
    else
      match s.ctxPhys ctx (q.slot q.tail) .write with
      | none => none
      | some p => some ((s.wr p bytes).ctxWr ctx (q.addr + 28) ((q.tail + 1) % 2 ^ 32) 4)

/-- A queue that holds more records than slots is disabled. -/
def State.checkQueue (s : State) (ctx qn : Nat) : State :=
  match s.queueDesc ctx qn with
  | none => match (s.ctxD ctx).queues.find? (fun x => x.num == qn) with
    | none => s
    | some x => s.ctxMet ctx x.desc
  | some q => if q.enabled && decide (q.slots < q.count) then s.disableQueue ctx qn q else s

/-! ### LAUNCH (10 R226) -/

/-- LAUNCH reads the record's 128 bytes on behalf of the lowest active fibre (12 R265). -/
def recordTouch (l gid off : Nat) : Touch :=
  { lane := l, space := .vat gid, lo := off, n := 128, write := false, atomic := false }

/-- The first check of LAUNCH that fails, with the lane reported. -/
def State.launchFail (s : State) (a b : Reg) : Option (Nat × Fail) :=
  let sa := (s.readS a.toNat).toNat
  let l0 := s.wave.lowest
  let v := (s.readV l0 b.toNat).toNat
  let trap (code : Nat) : Option (Nat × Fail) :=
    some (l0, .trap { group := 9, code := code, d0 := w32 sa, d1 := w32 v })
  match s.wave.group with
  | none => trap 0x003
  | some gid =>
    match s.wave.activeLanes.find? (fun l => (s.readV l b.toNat).toNat != v) with
    | some l => some (l, .trap (uniformTrap l b.toNat (s.readV l b.toNat).toNat))
    | none =>
      if 2 ^ 8 ≤ sa then some (l0, .trap (uniformTrap l0 a.toNat sa))
      else if v % 128 ≠ 0 then trap 0x002
      else if (s.groupD gid).size < v + 128 then trap 0x003
      else (s.stampCheck [] (recordTouch l0 gid v) <|> s.fillCheck gid l0 [recordTouch l0 gid v]).map (fun f => (l0, f))

/-- LAUNCH submits the 128 bytes at Vb of the group's own Vat (10 R226). -/
def execLaunch (st : Stall) (p : Pred) (a b : Reg) (s : State) : Out :=
  s.gate { rv := [(b.toNat, 1)], rs := [a.toNat], wp := [p.toNat] } (fun s1 =>
    if s1.accessBusy then s1.hold
    else if !s1.wave.anyActive then s1.retire st
    else
      match s1.launchFail a b with
      | some x => s1.raise x.1 x.2
      | none =>
        let gid := s1.wave.group.getD 0
        let off := (s1.readV s1.wave.lowest b.toNat).toNat
        let q := (s1.readS a.toNat).toNat
        let t := recordTouch s1.wave.lowest gid off
        let s0 := (s1.recordStamps (t :: s1.fillTouches gid [t])).fillAll gid [t]
        let s2 := s0.checkQueue s1.wave.ctx q
        let r := s2.submit s1.wave.ctx q ((s2.groupD gid).rdBytes off 128)
        (r.getD s2).interlockP st p.toNat (s1.wave.activeLanes.map (fun l => (l, r.isSome))))

end Sys2Proof.Machine
end

