-- ==== Sys2Proof/Machine/Place.lean ====
section
/-!
DEFINITION. Sys2Proof/Machine/Place.lean: bringing a core or a wave to the issue port, what a core has free
for user work (09 R196, R197, 11 R234, R235, 03 R53), and which context's matrix state its array holds
(06 R133, 03 R59).
-/

namespace Sys2Proof.Machine

open Sys2Proof

/-! ### The core and the wave at the issue port -/

/-- No wave stands at the issue port. -/
def Wave.absent (w : Wave) : Bool := w.lanes.isEmpty

/-- The wave at the issue port joins the other waves of its core. -/
def State.parkWave (s : State) : State :=
  if s.wave.absent then s
  else { s with wave := {}, core := { s.core with waves := s.core.waves ++ [s.wave] } }

/-- Another wave of the core comes to the issue port. -/
def State.focusWave (s : State) (wid : Nat) : State :=
  if s.wave.wid == wid && !s.wave.absent then s
  else
    match s.core.waves.find? (fun w => w.wid == wid) with
    | none => s
    | some w =>
      let s1 := { s with core := { s.core with waves := s.core.waves.filter (fun x => x.wid != wid) } }
      { s1.parkWave with wave := w }

/-- Another core comes to the issue port, without a wave. -/
def State.focusCore (s : State) (n : Nat) : State :=
  if s.core.num == n then s
  else
    match s.cores.find? (fun c => c.num == n) with
    | none => s
    | some c =>
      let s1 := s.parkWave
      { s1 with core := c, cores := s1.core :: s1.cores.filter (fun x => x.num != n) }

/-- Does something on a core, and brings the present core and wave back. -/
def State.atCore (s : State) (n : Nat) (f : State → State) : State :=
  let t := (f (s.focusCore n)).focusCore s.core.num
  if s.core.num == n || s.wave.absent then t else t.focusWave s.wave.wid

/-! ### Capacity -/

/-- A core by its number. -/
def State.coreBy (s : State) (n : Nat) : Option Core := s.allCores.find? (fun c => c.num == n)

/-- The waves on a core. -/
def State.wavesOn (s : State) (n : Nat) : List Wave :=
  if s.core.num == n then s.hereWaves
  else
    match s.cores.find? (fun c => c.num == n) with
    | none => []
    | some c => c.waves

/-- The grant of a launch's waves on a core (11 R235, R247). A deterministic launch of more than 128 fibres a wave
gets what it asks for, since only cores that grant it may start it; one of fewer gets the same on every core (09 R211,
DEDUCED log 45). -/
def Core.grant (c : Core) (x : Launch) : Nat :=
  if x.legacy = 0 ∧ x.det ∧ 128 < x.fibs then x.greq else c.taskGrant x

/-- Vat bytes of a core. -/
def vatCapacity : Nat := 393216

/-- Vat bytes that the groups on a core leave free. -/
def State.freeVat (s : State) (n : Nat) : Nat :=
  vatCapacity - ((s.groups.filter (fun g => g.core == n)).map (fun g => g.size)).sum

/-- Wave contexts that are free on a core. -/
def State.freeSlots (s : State) (c : Core) : Nat := c.slots - (userWaves (s.wavesOn c.num)).length

/-- n groups of a launch fit a core that has this much free: every fibre has a lane, at most four passes,
registers, contexts and Vat bytes (09 R196, 11 R234, R235). -/
def Core.holds (c : Core) (x : Launch) (n regs slots vat : Nat) : Bool :=
  let g := c.grant x
  decide (x.fibs ≤ g) && decide (g ≤ c.gmax) && decide (c.passes g ≤ 4) && decide (c.regsFor g x.win * (x.wavesPer * n) ≤ regs) &&
  decide (x.wavesPer * n ≤ slots) && decide (x.vatsz * n ≤ vat)

/-- n groups of a launch fit an empty core (09 R191 reason 0x08). -/
def Core.couldHold (c : Core) (x : Launch) (n : Nat) : Bool :=
  c.enabled && c.holds x n c.regCap c.slots vatCapacity

/-- The core holds no waves of another user context, and no unfinished work of one (03 R59, 06 R133). -/
def State.ctxFree (s : State) (c : Core) (ctx : Nat) : Bool :=
  (userWaves (s.wavesOn c.num)).all (fun w => w.ctx == ctx) &&
  (c.matCtx == ctx || (c.arrayQ.isEmpty && c.tileQ.isEmpty && c.blendQ.isEmpty && c.kickQ.isEmpty &&
    c.reqQ.isEmpty))

/-- A deterministic launch has its core's units and its bin buffer to itself from its first group to its completion:
its steps then have the same values on every core (09 R211, DEDUCED log 45). -/
def State.detFree (s : State) (x : Launch) (num : Nat) : Bool :=
  (match s.detOn num with
    | none => true
    | some y => y.id == x.id) &&
  (userWaves (s.wavesOn num)).all (fun w => w.launch == x.id || (!w.det && !x.det)) &&
  (!x.det || ((s.coreBy num).getD {}).bins.all (fun b => b.launch == x.id))

/-! ### The cores of a request to pre-empt (21 R389, R390) -/

/-- A core runs groups of a cluster. -/
def State.clusterCore (s : State) (n : Nat) : Bool :=
  s.groups.any (fun g => g.core == n && g.cpos.isSome && !g.finished)

/-- The cores that a request for a core names: the four of its cluster if it runs a cluster's group. -/
def State.preemptCores (s : State) (n : Nat) : List Nat :=
  if s.clusterCore n then (List.range 4).map (fun i => n / 4 * 4 + i) else [n]

/-! ### Due bins (09 R202, R203, R208) -/

/-- A bin with this key. -/
def Bin.keyed (b : Bin) (launch entry : Nat) : Bool := b.launch == launch && b.entry == entry

/-- A bin is due: its time has passed, or it holds a whole task wave's items. -/
def State.binDue (s : State) (c : Core) (b : Bin) : Bool :=
  !b.items.isEmpty && (b.due || decide (c.taskGrant (s.launchOf b.launch) ≤ b.items.length))

/-- A bin can be launched on a core. -/
def State.binFitsOn (s : State) (c : Core) (b : Bin) : Bool :=
  let x := s.launchOf b.launch
  let ws := s.wavesOn c.num
  let g := c.taskGrant x
  !x.stopped && !x.complete && c.preempt == .none && c.enabled && s.ctxFree c x.ctx && s.detFree x c.num &&
  s.rotationRoom x &&
  (!x.det || x.core == some c.num) && (c.freeSlot x ws).isSome && decide (c.passes g ≤ 4) && s.regsFit c x g ws

/-- A bin can be launched on the core at the issue port. -/
def State.binFits (s : State) (b : Bin) : Bool := s.binFitsOn s.core b

/-- A core has a due bin to which a free wave context goes first (09 R203). -/
def State.dueOn (s : State) (c : Core) : Bool := c.bins.any (fun b => s.binDue c b && s.binFitsOn c b)

/-! ### Room for groups and images (09 R196, R203, 21 R398) -/

/-- A core of the device can take n groups of a launch now. -/
def State.canTake (s : State) (x : Launch) (n num : Nat) : Bool :=
  match s.coreBy num with
  | none => false
  | some c =>
    c.enabled && c.preempt == .none && s.ctxFree c x.ctx && s.detFree x num && !s.dueOn c &&
    c.holds x n (s.freeRegs c (s.wavesOn num)) (s.freeSlots c) (s.freeVat num)

/-- A core's bin buffer has room for more bins: 16 bins and 2,048 items in all (01 R10, 09 R201). -/
def Core.binRoom (c : Core) (bs : List Bin) : Bool :=
  decide (c.bins.length + bs.length ≤ 16) &&
  decide (c.binItems + (bs.map (fun b => b.items.length)).sum ≤ 2048)

/-- The launches whose work an image holds. -/
def Image.launchIds (i : Image) : List Nat :=
  i.groups.map (fun g => g.launch) ++ i.waves.map (fun w => w.launch) ++ i.bins.map (fun b => b.launch)

/-- Every store that the waves of an image left in flight has been performed: the release at system scope that ends a
save is done, and a restore can begin (21 R390, R398, 12 R253; DEDUCED, log 60). -/
def Image.released (i : Image) : Bool := i.waves.all (fun w => w.outst.isEmpty)

/-- An image fits a core: no user wave is resident, every wave has its context, its registers and four passes at
most, every group its Vat, every bin its place; and its save has been released. -/
def State.imageFits (s : State) (i : Image) (n : Nat) : Bool :=
  match s.coreBy n with
  | none => false
  | some c =>
    c.enabled && c.preempt == .none && (userWaves (s.wavesOn n)).isEmpty && !s.dueOn c &&
    c.arrayQ.isEmpty && c.tileQ.isEmpty && c.blendQ.isEmpty && c.kickQ.isEmpty && c.reqQ.isEmpty &&
    i.waves.all (fun w => decide (c.passes w.g ≤ 4)) && decide (i.waves.length ≤ c.slots) &&
    decide ((i.waves.map (fun w => c.regsFor w.g (s.launchOf w.launch).win)).sum ≤ s.freeRegs c (s.wavesOn n)) &&
    decide ((i.groups.map (fun g => g.size)).sum ≤ s.freeVat n) && c.binRoom i.bins &&
    i.launchIds.all (fun id => s.detFree (s.launchOf id) n) && i.released

/-- The images that go back together with an image: those saved with its cluster, each to its own position. -/
def State.imagesWith (s : State) (ctx : Nat) (i : Image) (n : Nat) : List (Image × Nat) :=
  match i.cpos with
  | some _ => ((s.ctxD ctx).images.filter (fun y => y.cpos.isSome && y.set == i.set)).map (fun y =>
      (y, n / 4 * 4 + y.cpos.getD 0))
  | none => [(i, n)]

/-- An image can go back onto a core, with the images of its cluster. -/
def State.imageReady (s : State) (ctx : Nat) (i : Image) (n : Nat) : Bool :=
  (s.imagesWith ctx i n).all (fun x => s.imageFits x.1 x.2)

/-- The class of an image's launch. -/
def State.imageClass (s : State) (i : Image) : Nat :=
  match i.groups, i.waves with
  | g :: _, _ => (s.launchOf g.launch).cls
  | [], w :: _ => (s.launchOf w.launch).cls
  | [], [] => 3

/-! ### Whose matrix state the array holds (06 R133) -/

/-- The core at the issue port takes up a context: the array's state is kept for the context it served, and
the context finds its own as it left it. -/
def State.claim (s : State) (ctx : Nat) : State :=
  if s.core.matCtx == ctx then s
  else
    let n := s.core.num
    let s1 := s.onContext s.core.matCtx (fun c => { c with mats := sins c.mats n s.core.mat })
    let m := sget {} (s1.ctxD ctx).mats n
    s1.onCore (fun k => { k with mat := m, matCtx := ctx })

end Sys2Proof.Machine
end

