-- ==== Sys2Proof/Machine/Accept.lean ====
section
/-!
DEFINITION. Sys2Proof/Machine/Accept.lean: launch records and their acceptance: the hierarchy, the reasons for
rejection, the completion word and the order in which queues are served (09 R184 to R195, 18 R340).
-/

namespace Sys2Proof.Machine

open Sys2Proof

/-! ### The hierarchy (09 R184, R185) -/

/-- Fan-out of a level descriptor. -/
def lvFan (d : Word) : Nat := bits d.toNat 19 0
/-- Domain of a level descriptor. -/
def lvDom (d : Word) : Nat := bits d.toNat 22 20
/-- Default scope of a level descriptor. -/
def lvScope (d : Word) : Nat := bits d.toNat 26 24

/-- The product of the fan-outs of the levels with certain domains. -/
def lvProd (lvls : List Word) (p : Nat → Bool) : Nat :=
  lvls.foldl (fun n d => if p (lvDom d) then n * lvFan d else n) 1

/-- Domains never decrease from one level to the next. -/
def lvOrdered : List Word → Bool
  | [] => true
  | [_] => true
  | a :: b :: r => decide (lvDom a ≤ lvDom b) && lvOrdered (b :: r)

/-- How many levels have a domain. -/
def lvCount (lvls : List Word) (d : Nat) : Nat := (lvls.filter (fun x => lvDom x == d)).length

/-! ### Fields of a record (09 R188) -/

/-- A launch record as the device reads it. -/
structure LaunchRec where
  v : Nat
  deriving DecidableEq, Repr

/-- Field of a record. -/
def LaunchRec.f (r : LaunchRec) (hi lo : Nat) : Nat := bits r.v hi lo
/-- Level descriptor j. -/
def LaunchRec.level (r : LaunchRec) (j : Nat) : Word := w32 (r.f (671 + 32 * j) (640 + 32 * j))
/-- The levels that the record declares. -/
def LaunchRec.levels (r : LaunchRec) : List Word := (List.range (r.f 50 48 + 1)).map r.level
/-- Cluster size. -/
def LaunchRec.csize (r : LaunchRec) : Nat := if r.f 93 92 = 0 then 0 else r.f 93 92 + 1
/-- Words of the argument block. -/
def LaunchRec.arglen (r : LaunchRec) : Nat := r.f 310 304
/-- Grant request. -/
def LaunchRec.greq (r : LaunchRec) : Nat := r.f 72 64

/-- Must-be-zero fields, and those of the level descriptors. -/
def LaunchRec.zeros (r : LaunchRec) : Bool :=
  r.f 1023 896 == 0 && r.f 479 463 == 0 && r.f 319 311 == 0 && r.f 95 94 == 0 && !bit r.v 87 &&
  r.f 75 73 == 0 && r.f 63 58 == 0 && !bit r.v 51 &&
  (List.range 8).all (fun j => bits (r.level j).toNat 31 27 == 0 && !bit (r.level j).toNat 23)

/-- The address fields with their alignments. DESIGN CHOICE (log 44): 09 R188 gives tvec none, and one that is no
multiple of 4, where no clause header can lie, counts as misaligned. -/
def LaunchRec.addresses (r : LaunchRec) : List (Nat × Nat) :=
  [(r.f 191 128, 4), (r.f 255 192, 64), (r.f 383 320, 16), (r.f 447 384, 16), (r.f 575 512, 8),
   (r.f 639 576, 64)]

/-- The hierarchy rules of 09 R185; `greq` is the grant request, or the legacy width. -/
def LaunchRec.hierarchy (r : LaunchRec) (greq : Nat) : Bool :=
  let ls := r.levels
  let fibs := lvProd ls (fun d => d == 0)
  let ws := lvProd ls (fun d => d == 1)
  (ls.all (fun d => lvDom d != 7 && lvFan d != 0 && decide (lvDom d ≤ lvScope d))) &&
  (match ls with
    | [] => false
    | d :: _ => lvDom d == 0) &&
  lvOrdered ls && decide (fibs ≤ 256) && (!(decide (1 ≤ greq) && decide (greq ≤ 256)) || decide (fibs ≤ greq)) &&
  decide (ws ≤ 32) &&
  (if lvCount ls 3 = 0 then r.csize == 0
    else r.csize != 0 && lvProd ls (fun d => d == 2) == r.csize) &&
  decide (lvCount ls 4 ≤ 1) && ls.all (fun d => lvDom d != 4 || decide (lvFan d ≤ 4)) &&
  ls.all (fun d => lvDom d != 5 || lvFan d == 1) && decide (lvCount ls 6 ≤ 1) &&
  ls.all (fun d => lvDom d != 6 || decide (r.f 511 480 < lvFan d)) &&
  (List.range 8).all (fun j => decide (j ≤ r.f 50 48) || r.level j == 0)

/-! ### Capabilities of the argument block (18 R340) -/

/-- A root contains a global capability. -/
def rootHolds (root q : Quad) : Bool :=
  bit (capPerm root) 4 && decide (capBase root ≤ capBase q) &&
  decide (capBase q + capLen q ≤ capBase root + capLen root) &&
  Nat.land (capPerm q) (capPerm root) == capPerm q

/-- An argument quad passes validation. -/
def argCapOk (roots : List Quad) (vatBytes : Nat) (q : Quad) : Bool :=
  bits q.toNat 127 124 == 0 &&
  (if capGlobal q then roots.any (fun r => rootHolds r q)
    else Nat.land (capPerm q) pTable == 0 && decide (capBase q + bits q.toNat 103 64 ≤ vatBytes))

/-- Quad q of an argument block. -/
def argQuad (args : List Word) (q : Nat) : Quad :=
  BitVec.ofNat 128 (fromBytes ((List.range 4).flatMap (fun i => bytesOf ((args.getD (4 * q + i) 0).toNat) 4)))

/-! ### The launch that a record describes -/

/-- Words of the argument block; it is copied at acceptance. -/
def State.argBlock (s : State) (ctx : Nat) (r : LaunchRec) : Option (List Word) :=
  (List.range (min r.arglen 64)).mapM (fun i =>
    (s.ctxRd ctx (r.f 383 320 + 4 * i) 4).map w32)

/-- The launch of a record, with the code object that it names, if the context has it. -/
def LaunchRec.launch (r : LaunchRec) (id ctx queue : Nat) (obj : Option CodeObj) (args : List Word) : Launch :=
  let ls := r.levels
  let o := obj.getD {}
  { id := id, ctx := ctx, queue := queue, cls := r.f 57 56
    entry := o.base + o.entries.getD (r.f 47 32) 0
    win := 16 * (r.f 55 52 + 1), greq := r.greq, legacy := o.legacy, vatsz := 256 * r.f 86 76
    det := bit r.v 88, chkd := bit r.v 89, mig := bit r.v 90, soe := bit r.v 91, csize := r.csize
    bintmo := r.f 127 96, tvec := BitVec.ofNat 64 (r.f 191 128), ovfq := r.f 255 192, ovfcap := r.f 287 256
    args := args, capmask := BitVec.ofNat 16 (r.f 303 288), preload := r.f 447 384, prelen := r.f 462 448
    outer := w32 (r.f 511 480), done := r.f 575 512, errq := r.f 639 576, lvls := ls
    fibs := lvProd ls (fun d => d == 0), wavesPer := lvProd ls (fun d => d == 1)
    groups := lvProd ls (fun d => d == 2 || d == 3 || d == 4) }

/-- Some core, or for a cluster some cluster of four enabled cores, could hold a group (09 R191). -/
def State.someCore (s : State) (x : Launch) : Bool :=
  if x.csize = 0 then s.allCores.any (fun c => c.couldHold x 1)
  else
    (List.range (coreCount / 4)).any (fun k =>
      let cs := s.allCores.filter (fun c => c.num / 4 == k)
      cs.all (fun c => c.enabled) && cs.all (fun c => decide (x.csize ≤ c.num % 4) || c.couldHold x 1))

/-- The first reason that rejects a record (09 R191); 0 where it passes. A grant request of 0 or above 256 comes
before the hierarchy; the launch of a legacy image ignores the grant request (11 R247), so that it is not rejected for
it (DEDUCED, log 66). -/
def State.rejectReason (s : State) (qcls : Nat) (r : LaunchRec) (obj : Option CodeObj) (x : Launch) : Nat :=
  let c := s.ctxD x.ctx
  let entries := match obj with
    | some o => o.entries.length
    | none => 0
  let o := obj.getD {}
  let tvec := x.tvec.toNat
  let tvecBad := tvec != 0 &&
    !(decide (o.base ≤ tvec) && decide (tvec + 4 ≤ o.base + o.length) &&
      (match s.ctxRd x.ctx tvec 4 with
        | some w => isHeader (w32 w)
        | none => false))
  if !r.zeros || x.cls != qcls then 1
  else if x.legacy = 0 ∧ (r.greq = 0 ∨ 256 < r.greq) then 3
  else if !r.hierarchy (if x.legacy = 0 then r.greq else x.legacy) then 2
  else if 1536 < r.f 86 76 ∨ 16 * r.f 86 76 < r.f 462 448 then 4
  else if r.addresses.any (fun a => a.1 % a.2 != 0 || decide (2 ^ 56 ≤ a.1)) then 5
  else if entries ≤ r.f 47 32 ∨ tvecBad then 6
  else if (List.range 16).any (fun q => x.capmask.getLsbD q && decide (4 * q + 4 ≤ x.args.length) &&
      !argCapOk c.roots x.vatsz (argQuad x.args q)) then 7
  else if !s.someCore x then 8
  else if x.det && (x.csize != 0 || lvCount x.lvls 4 != 0 || lvCount x.lvls 6 != 0 ||
      decide (32 < x.groups * x.wavesPer)) then 9
  else if 64 < r.arglen ∨ (List.range 16).any (fun q => x.capmask.getLsbD q && decide (r.arglen < 4 * q + 4))
  then 10
  else 0

/-! ### Completion (09 R190, R212) -/

/-- Writes the completion word of a launch. -/
def State.writeDone (s : State) (x : Launch) (nfail reason status : Nat) : State :=
  s.ctxWr x.ctx x.done (packFields [(32, 32, min nfail 0xFFFFFFFF), (8, 8, reason), (0, 8, status)]) 8

/-! ### The order of queues (09 R195) -/

/-- The queues of every context, keyed by number and then context. -/
def State.queueKeys (s : State) : List (Nat × Nat × Nat) :=
  s.contexts.flatMap (fun c => c.queues.map (fun q => (q.num * 4096 + c.id, c.id, q.num)))

/-- Whether a queue holds a visible record of a class. -/
def State.visible (s : State) (cls ctx q : Nat) : Bool :=
  match s.queueDesc ctx q with
  | none => false
  | some d => d.enabled && d.cls == cls && d.count != 0

/-- The queues of a class with a visible record. -/
def State.ready (s : State) (cls : Nat) : List (Nat × Nat × Nat) :=
  s.queueKeys.filter (fun k => s.visible cls k.2.1 k.2.2)

/-- The least key of a list, if there is one. -/
def leastKey : List (Nat × Nat × Nat) → Option (Nat × Nat × Nat)
  | [] => none
  | k :: ks =>
    match leastKey ks with
    | none => some k
    | some m => some (if k.1 ≤ m.1 then k else m)

/-- The queue whose turn comes next: the lowest class with a visible record, and in it the next queue of the
rotation. -/
def State.nextQueue (s : State) : Option (Nat × Nat × Nat) :=
  (List.range 4).findSome? (fun cls =>
    let ks := s.ready cls
    let last := sget 0 s.classRot cls
    (leastKey (ks.filter (fun k => decide (last < k.1 + 1)))).or (leastKey ks) |>.map (fun k => (cls, k.2)))

/-- The device copies the record at the head of a queue and advances head; the launch starts, or its
completion word says why it is rejected (09 R191, R194). -/
def State.accept (s : State) (cls ctx q : Nat) (d : QueueDesc) : State :=
  match s.ctxUnits ctx (d.slot d.head) 8 with
  | none => s.ctxMet ctx (d.slot d.head)
  | some bs =>
    let r : LaunchRec := ⟨fromBytes bs⟩
    let obj := (s.ctxD ctx).cobjs.find? (fun o => o.handle == r.f 31 0)
    let args := s.argBlock ctx r
    let x := r.launch s.nextLaunch ctx q obj (args.getD [])
    let reason := s.rejectReason cls r obj x
    let s1 := { s.ctxWr ctx (d.addr + 24) ((d.head + 1) % 2 ^ 32) 4 with
      classRot := sins s.classRot cls (q * 4096 + ctx + 1) }
    if reason ≠ 0 then s1.writeDone x 0 reason 3
    else if args.isNone then s.ctxMet ctx (r.f 383 320)
    else { s1 with launches := s1.launches ++ [x], nextLaunch := s1.nextLaunch + 1 }

/-- LAUNCH_ACCEPT: the queue is served in its turn; a queue that holds more records than slots is disabled
(09 R191 to R195). -/
def execLaunchAccept (ctx queue : Nat) (s : State) : Out :=
  match s.queueDesc ctx queue with
  | none => .next s
  | some d =>
    if !d.enabled || d.count == 0 then .next s
    else if d.slots < d.count then .next (s.disableQueue ctx queue d)
    else
      match s.nextQueue with
      | none => .next s
      | some k => if k.2 == (ctx, queue) then .next (s.accept k.1 ctx queue d) else .next s

end Sys2Proof.Machine
end

