-- ==== Sys2Proof/Machine/Caps.lean ====
section
/-!
DEFINITION. Sys2Proof/Machine/Caps.lean: the capability words, major 0x21 (18 R341 to R344).
-/

namespace Sys2Proof.Machine

open Sys2Proof

/-! ### Writing a quad with its tag -/

/-- Sets the tag of the quad at V field n of every active lane. -/
def Wave.tagV (w : Wave) (n : Nat) (tag : Nat → Bool) : Wave :=
  w.onActive (fun l f => { f with vtags := sput false f.vtags ((f.base + n) / 4) (tag l) })

/-- Writes the Q quad at V field n of every active lane. -/
def Wave.writeVQuad (w : Wave) (n : Nat) (q : Nat → Quad) (tag : Nat → Bool) : Wave :=
  ((((w.writeV latInt n (fun l => quadWord (q l) 0)).writeV latInt (n + 1)
    (fun l => quadWord (q l) 1)).writeV latInt (n + 2) (fun l => quadWord (q l) 2)).writeV latInt
      (n + 3) (fun l => quadWord (q l) 3)).tagV n tag

/-- Writes the C quad of number c once, provided some fibre is active (03 R55). -/
def Wave.writeSQuad (w : Wave) (c : Nat) (q : Quad) (tag : Bool) : Wave :=
  let w1 := (((w.writeS latInt (4 * c) (quadWord q 0)).writeS latInt (4 * c + 1)
    (quadWord q 1)).writeS latInt (4 * c + 2) (quadWord q 2)).writeS latInt (4 * c + 3) (quadWord q 3)
  if w.anyActive then { w1 with stags := sput false w1.stags c tag } else w1

/-- A capability from its fields (18 R337). -/
def mkCap (base len perm tid : Nat) : Quad :=
  BitVec.ofNat 128 (packFields [(0, 64, base), (64, 40, len), (104, 8, perm), (112, 12, tid)])

/-! ### CNARROW and CPERM -/

/-- The tag and narrow checks of 18 R342 and R343. -/
def CapUse.narrowCheck (c : CapUse) (l o : Nat) : Option Fail :=
  if !c.tag then some (.trap (c.trap 1 l o))
  else if Nat.land (capPerm c.cap) pNarrow == 0 then some (.trap (c.trap 2 l o))
  else none

/-- A capability word: every check before any write (18 R344), then the quad of each active fibre. -/
def State.capWord (s : State) (st : Stall) (d a : Num4) (u : Uses)
    (chk : State → Nat → Option Fail) (res : State → Nat → Quad) : Out :=
  s.gate (Uses.plus { rv := [(4 * a.toNat, 4)], wv := [(4 * d.toNat, 4)] } u) (fun s1 =>
    s1.guardAll (fun l => chk s1 l) (fun s2 =>
      (s2.onWave (fun w => w.writeVQuad (4 * d.toNat) (res s2) (fun _ => true))).retire st))

/-- CNARROW (18 R342): a 40-bit length n at offset o of the source. -/
def execCnarrow (st : Stall) (d4 a4 b4 : Num4) (s : State) : Out :=
  let o (s : State) (l : Nat) : Nat := (s.readV64 l (4 * b4.toNat)).toNat
  let n (s : State) (l : Nat) : Nat := (s.readV64 l (4 * b4.toNat + 2)).toNat
  s.capWord st d4 a4 { rv := [(4 * b4.toNat, 4)] }
    (fun s1 l =>
      let c := s1.capQ l a4.toNat
      c.narrowCheck l (o s1 l)
      <|> (if n s1 l = 0 ∨ 2 ^ 40 - 1 < n s1 l ∨ capLen c.cap < o s1 l + n s1 l then
            some (.trap (c.trap 4 l (o s1 l))) else none))
    (fun s1 l =>
      let c := s1.capQ l a4.toNat
      mkCap (capBase c.cap + o s1 l) (n s1 l) (capPerm c.cap) (capTid c.cap))

/-- CPERM (18 R343). -/
def execCperm (st : Stall) (d4 a4 : Num4) (b : Reg) (s : State) : Out :=
  s.capWord st d4 a4 { rv := [(b.toNat, 1)] }
    (fun s1 l =>
      let c := s1.capQ l a4.toNat
      let x := (s1.readV l b.toNat).toNat
      c.narrowCheck l 0
      <|> (if bits x 15 8 ≠ 0 ∨ bits x 30 28 ≠ 0 then some (.trap (c.trap 5 l 0)) else none))
    (fun s1 l =>
      let c := s1.capQ l a4.toNat
      let x := (s1.readV l b.toNat).toNat
      mkCap (capBase c.cap) (bits c.cap.toNat 103 64)
        (Nat.lor (Nat.land (capPerm c.cap) (bits x 7 0)) (Nat.land (capPerm c.cap) pGlobal))
        (if bit x 31 then bits x 27 16 else capTid c.cap))

/-! ### CGET and CMOV -/

/-- A CGET word: it reads the bits of an untagged quad as well (18 R341). -/
def State.capGet (s : State) (st : Stall) (dest : Dest) (a4 : Num4) (f : CapUse → Nat) : Out :=
  s.alu st latInt dest { rv := [(4 * a4.toNat, 4)] } (fun s1 l =>
    { val := BitVec.ofNat 64 (f (s1.capQ l a4.toNat)) })

/-- CGET.base (18 R341). -/
def execCgetBase (st : Stall) (d : Reg) (a4 : Num4) (s : State) : Out :=
  s.capGet st (.v64 d.toNat) a4 (fun c => capBase c.cap)

/-- CGET.len: 2^56 for the context capability (18 R341). -/
def execCgetLen (st : Stall) (d : Reg) (a4 : Num4) (s : State) : Out :=
  s.capGet st (.v64 d.toNat) a4 (fun c => capLen c.cap)

/-- CGET.perm (18 R341). -/
def execCgetPerm (st : Stall) (d : Reg) (a4 : Num4) (s : State) : Out :=
  s.capGet st (.v d.toNat) a4 (fun c => capPerm c.cap)

/-- CGET.tid (18 R341). -/
def execCgetTid (st : Stall) (d : Reg) (a4 : Num4) (s : State) : Out :=
  s.capGet st (.v d.toNat) a4 (fun c => capTid c.cap)

/-- CGET.tag (18 R341). -/
def execCgetTag (st : Stall) (d : Reg) (a4 : Num4) (s : State) : Out :=
  s.capGet st (.v d.toNat) a4 (fun c => b2n c.tag)

/-- The capability that a CMOV copies for a lane. -/
def State.cmovSrc (s : State) (srcV : Bool) (a : Num4) (l : Nat) : CapUse :=
  if srcV then s.capQ l a.toNat else s.capSFor l a.toNat

/-- CMOV copies the bits and the tag as it stands; into a C quad it writes once (18 R341). -/
def execCmov (st : Stall) (d4 a4 : Num4) (srcV dstS : Bool) (s : State) : Out :=
  let src : Uses := if srcV then { rv := [(4 * a4.toNat, 4)] } else quadReads a4.toNat
  let dst : Uses := if dstS then
      { ws := [4 * d4.toNat, 4 * d4.toNat + 1, 4 * d4.toNat + 2, 4 * d4.toNat + 3] }
    else { wv := [(4 * d4.toNat, 4)] }
  s.gate (dst.plus src) (fun s1 =>
    if dstS then
      let c := s1.cmovSrc srcV a4 s1.wave.lowest
      (s1.onWave (fun w => w.writeSQuad d4.toNat c.cap c.tag)).retire st
    else
      (s1.onWave (fun w => w.writeVQuad (4 * d4.toNat) (fun l => (s1.cmovSrc srcV a4 l).cap)
        (fun l => (s1.cmovSrc srcV a4 l).tag))).retire st)

end Sys2Proof.Machine
end

