-- ==== Sys2Proof/Machine/FpAlu.lean ====
section
/-!
DEFINITION. Sys2Proof/Machine/FpAlu.lean: floating point, packed 16-bit, FP64 and conversion: majors
0x08 to 0x14 (05 R107 to R120).
-/

namespace Sys2Proof.Machine

open Sys2Proof

/-- FADD (05 R108). -/
def execFadd (st : Stall) (f : FForm) (d a b : Reg) (s : State) : Out :=
  s.fp2 st f d a b (fpAdd fp32)

/-- FSUB (05 R108). -/
def execFsub (st : Stall) (f : FForm) (d a b : Reg) (s : State) : Out :=
  s.fp2 st f d a b (fpSub fp32)

/-- FMUL (05 R108). -/
def execFmul (st : Stall) (f : FForm) (d a b : Reg) (s : State) : Out :=
  s.fp2 st f d a b (fpMul fp32)

/-- FMIN (05 R108). -/
def execFmin (st : Stall) (f : FForm) (d a b : Reg) (s : State) : Out :=
  s.fp2 st f d a b (fun _ => minMax fp32 false)

/-- FMAX (05 R108). -/
def execFmax (st : Stall) (f : FForm) (d a b : Reg) (s : State) : Out :=
  s.fp2 st f d a b (fun _ => minMax fp32 true)

/-- FABS clears the sign and copies every other bit (05 R108). -/
def execFabs (st : Stall) (f : FForm) (d a : Reg) (s : State) : Out := s.fp1 st f d a (fun x => x % 2 ^ 31)

/-- FNEG inverts bit 31 and copies every other bit (05 R108). -/
def execFneg (st : Stall) (f : FForm) (d a : Reg) (s : State) : Out := s.fp1 st f d a (fun x => (x + 2 ^ 31) % 2 ^ 32)

/-- FSAT clamps to [+0, 1.0] (05 R108). -/
def execFsat (st : Stall) (f : FForm) (d a : Reg) (s : State) : Out := s.fp1 st f d a fpSat

/-- FMA: a · b + c, rounded once (05 R109). -/
def execFma (st : Stall) (d a b c : Reg) (s : State) : Out := s.fp3 st false false d a b c

/-- FMS: a · b - c, rounded once (05 R109). -/
def execFms (st : Stall) (d a b c : Reg) (s : State) : Out := s.fp3 st false true d a b c

/-- FNMA: -(a · b) + c, rounded once (05 R109). -/
def execFnma (st : Stall) (d a b c : Reg) (s : State) : Out := s.fp3 st true false d a b c

/-- FNMS: -(a · b) - c, rounded once (05 R109). -/
def execFnms (st : Stall) (d a b c : Reg) (s : State) : Out := s.fp3 st true true d a b c

/-- FCMP (05 R110). -/
def execFcmp (st : Stall) (f : FForm) (c : FCond) (p : Pred) (a b : Reg) (s : State) : Out :=
  s.alu st latF32 (.p p.toNat) (f.reads a b) (fun s1 l =>
    let x := f.opA a s1 l
    let y := f.opB b s1 l
    let r := fcompare fp32 c x.toNat y.toNat
    { val := truth r.1, flags := r.2, a := x, b := y })

/-- FRCP (05 R112). -/
def execFrcp (st : Stall) (d a : Reg) (s : State) : Out := s.special st d a fpRcp

/-- FRSQ (05 R113). -/
def execFrsq (st : Stall) (d a : Reg) (s : State) : Out := s.special st d a fpRsq

/-- FEXP2 (05 R114). -/
def execFexp2 (st : Stall) (d a : Reg) (s : State) : Out := s.special st d a fpExp2

/-- FLOG2 (05 R115). -/
def execFlog2 (st : Stall) (d a : Reg) (s : State) : Out := s.special st d a fpLog2

/-- FRND.rn (05 R116). -/
def execFrndRn (st : Stall) (d a : Reg) (s : State) : Out := s.special st d a (fpRnd .rne)

/-- FRND.rz (05 R116). -/
def execFrndRz (st : Stall) (d a : Reg) (s : State) : Out := s.special st d a (fpRnd .zero)

/-- FRND.ru (05 R116). -/
def execFrndRu (st : Stall) (d a : Reg) (s : State) : Out := s.special st d a (fpRnd .up)

/-- FRND.rd (05 R116). -/
def execFrndRd (st : Stall) (d a : Reg) (s : State) : Out := s.special st d a (fpRnd .down)

/-- FSQRT, interlocked (05 R111, 02 R32). -/
def execFsqrt (st : Stall) (d a : Reg) (s : State) : Out :=
  s.interlockV st d { rv := [(a.toNat, 1)] } (fun s1 l =>
    let x := s1.readV l a.toNat
    ofRounded (fpSqrt fp32 s1.wave.rm x.toNat) x 0)

/-- FDIV, interlocked (05 R111, 02 R32). -/
def execFdiv (st : Stall) (d a b : Reg) (s : State) : Out :=
  s.interlockV st d { rv := [(a.toNat, 1), (b.toNat, 1)] } (fun s1 l =>
    let x := s1.readV l a.toNat
    let y := s1.readV l b.toNat
    ofRounded (fpDiv fp32 s1.wave.rm x.toNat y.toNat) x y)

/-- PADD (05 R117). -/
def execPadd (st : Stall) (t : HalfType) (d a b : Reg) (s : State) : Out :=
  s.packed st t false d a b (fun F m x y _ => fpAdd F m x y)

/-- PSUB (05 R117). -/
def execPsub (st : Stall) (t : HalfType) (d a b : Reg) (s : State) : Out :=
  s.packed st t false d a b (fun F m x y _ => fpSub F m x y)

/-- PMUL (05 R117). -/
def execPmul (st : Stall) (t : HalfType) (d a b : Reg) (s : State) : Out :=
  s.packed st t false d a b (fun F m x y _ => fpMul F m x y)

/-- PMIN (05 R117). -/
def execPmin (st : Stall) (t : HalfType) (d a b : Reg) (s : State) : Out :=
  s.packed st t false d a b (fun F _ x y _ => minMax F false x y)

/-- PMAX (05 R117). -/
def execPmax (st : Stall) (t : HalfType) (d a b : Reg) (s : State) : Out :=
  s.packed st t false d a b (fun F _ x y _ => minMax F true x y)

/-- PFMA reads Vd as the addend (05 R117). -/
def execPfma (st : Stall) (t : HalfType) (d a b : Reg) (s : State) : Out :=
  s.packed st t true d a b (fun F m x y z => fpFma F m false false x y z)

/-- DADD on pairs (05 R118). -/
def execDadd (st : Stall) (d a b : Reg) (s : State) : Out := s.dp2 st d a b (fpAdd fp64)

/-- DSUB on pairs (05 R118). -/
def execDsub (st : Stall) (d a b : Reg) (s : State) : Out := s.dp2 st d a b (fpSub fp64)

/-- DMUL on pairs (05 R118). -/
def execDmul (st : Stall) (d a b : Reg) (s : State) : Out := s.dp2 st d a b (fpMul fp64)

/-- DMIN on pairs (05 R118). -/
def execDmin (st : Stall) (d a b : Reg) (s : State) : Out := s.dp2 st d a b (fun _ => minMax fp64 false)

/-- DMAX on pairs (05 R118). -/
def execDmax (st : Stall) (d a b : Reg) (s : State) : Out := s.dp2 st d a b (fun _ => minMax fp64 true)

/-- DABS on pairs (05 R118). -/
def execDabs (st : Stall) (d a : Reg) (s : State) : Out := s.dp1 st d a (fun x => x % 2 ^ 63)

/-- DNEG on pairs (05 R118). -/
def execDneg (st : Stall) (d a : Reg) (s : State) : Out := s.dp1 st d a (fun x => (x + 2 ^ 63) % 2 ^ 64)

/-- DCMP (05 R118). -/
def execDcmp (st : Stall) (c : FCond) (p : Pred) (a b : Reg) (s : State) : Out :=
  s.alu st latF64 (.p p.toNat) { rv := [(a.toNat, 2), (b.toNat, 2)] } (fun s1 l =>
    let x := s1.readV64 l a.toNat
    let y := s1.readV64 l b.toNat
    let r := fcompare fp64 c x.toNat y.toNat
    { val := truth r.1, flags := r.2, a := lo32 x, b := lo32 y })

/-- DFMA: a · b + c on pairs with one rounding (05 R118). -/
def execDfma (st : Stall) (d a b c : Reg) (s : State) : Out :=
  s.alu st latF64 (.v64 d.toNat) { rv := [(a.toNat, 2), (b.toNat, 2), (c.toNat, 2)] } (fun s1 l =>
    let x := s1.readV64 l a.toNat
    let y := s1.readV64 l b.toNat
    let z := s1.readV64 l c.toNat
    ofRounded (fpFma fp64 s1.wave.rm false false x.toNat y.toNat z.toNat) (lo32 x) (lo32 y))

/-- The rounding mode of a CVT (03 R69). -/
def cvtMode (w : Wave) (r : CvtRound) : RoundMode :=
  match r with
  | .fpctl => w.rm
  | .zero => .zero
  | .rne => .rne
  | .rneSat => .rne

/-- CVT: 64-bit formats are pairs (05 R119, R120). -/
def execCvt (st : Stall) (dst : Fmt) (rnd : CvtRound) (src : Fmt) (d a : Reg) (s : State) : Out :=
  s.alu st latF32 (if dst.isPair then .v64 d.toNat else .v d.toNat)
    { rv := [(a.toNat, if src.isPair then 2 else 1)] } (fun s1 l =>
      let code := if src.isPair then s1.readV64 l a.toNat else wide (s1.readV l a.toNat)
      let r := convert src dst (cvtMode s1.wave rnd) (rnd == .rneSat) code.toNat
      { val := BitVec.ofNat 64 r.1, flags := r.2, a := lo32 code })

end Sys2Proof.Machine
end

