-- ==== Sys2Proof/Machine/IntAlu.lean ====
section
/-!
DEFINITION. Sys2Proof/Machine/IntAlu.lean: the integer ALU, ICMP, the constants and 64-bit address
arithmetic: majors 0x00 to 0x07 and 0x16 (05 R101 to R106).
-/

namespace Sys2Proof.Machine

open Sys2Proof

/-- ADD (05 R101). -/
def execAdd (st : Stall) (f : IntForm) (d a b : Reg) (s : State) : Out :=
  s.int2 st f false d a b (noFlag (fun x y => x + y))

/-- SUB (05 R101). -/
def execSub (st : Stall) (f : IntForm) (d a b : Reg) (s : State) : Out :=
  s.int2 st f false d a b (noFlag (fun x y => x - y))

/-- MUL, the low 32 bits (05 R101). -/
def execMul (st : Stall) (f : IntForm) (d a b : Reg) (s : State) : Out :=
  s.int2 st f false d a b (noFlag (fun x y => x * y))

/-- MULH.i32 (05 R101). -/
def execMulhI32 (st : Stall) (f : IntForm) (d a b : Reg) (s : State) : Out :=
  s.int2 st f false d a b (noFlag mulhS)

/-- MULH.n32 (05 R101). -/
def execMulhN32 (st : Stall) (f : IntForm) (d a b : Reg) (s : State) : Out :=
  s.int2 st f true d a b (noFlag mulhU)

/-- DIV.i32 (05 R102). -/
def execDivI32 (st : Stall) (f : IntForm) (d a b : Reg) (s : State) : Out :=
  s.int2 st f false d a b divS

/-- DIV.n32 (05 R102). -/
def execDivN32 (st : Stall) (f : IntForm) (d a b : Reg) (s : State) : Out :=
  s.int2 st f true d a b divU

/-- REM.i32 (05 R102). -/
def execRemI32 (st : Stall) (f : IntForm) (d a b : Reg) (s : State) : Out :=
  s.int2 st f false d a b remS

/-- REM.n32 (05 R102). -/
def execRemN32 (st : Stall) (f : IntForm) (d a b : Reg) (s : State) : Out :=
  s.int2 st f true d a b remU

/-- AND (05 R101). -/
def execAndI (st : Stall) (f : IntForm) (d a b : Reg) (s : State) : Out :=
  s.int2 st f false d a b (noFlag (fun x y => x &&& y))

/-- OR (05 R101). -/
def execOrI (st : Stall) (f : IntForm) (d a b : Reg) (s : State) : Out :=
  s.int2 st f false d a b (noFlag (fun x y => x ||| y))

/-- XOR (05 R101). -/
def execXorI (st : Stall) (f : IntForm) (d a b : Reg) (s : State) : Out :=
  s.int2 st f false d a b (noFlag (fun x y => x ^^^ y))

/-- ANDN (05 R101). -/
def execAndn (st : Stall) (f : IntForm) (d a b : Reg) (s : State) : Out :=
  s.int2 st f false d a b (noFlag (fun x y => x &&& ~~~y))

/-- SHL (05 R101). -/
def execShl (st : Stall) (f : IntForm) (d a b : Reg) (s : State) : Out :=
  s.int2 st f true d a b (noFlag shlOp)

/-- SHR (05 R101). -/
def execShr (st : Stall) (f : IntForm) (d a b : Reg) (s : State) : Out :=
  s.int2 st f true d a b (noFlag shrOp)

/-- SAR (05 R101). -/
def execSar (st : Stall) (f : IntForm) (d a b : Reg) (s : State) : Out :=
  s.int2 st f true d a b (noFlag sarOp)

/-- ROL (05 R101). -/
def execRol (st : Stall) (f : IntForm) (d a b : Reg) (s : State) : Out :=
  s.int2 st f true d a b (noFlag rolOp)

/-- MIN.i32 (05 R101). -/
def execMinI32 (st : Stall) (f : IntForm) (d a b : Reg) (s : State) : Out :=
  s.int2 st f false d a b (noFlag minS)

/-- MIN.n32 (05 R101). -/
def execMinN32 (st : Stall) (f : IntForm) (d a b : Reg) (s : State) : Out :=
  s.int2 st f true d a b (noFlag minU)

/-- MAX.i32 (05 R101). -/
def execMaxI32 (st : Stall) (f : IntForm) (d a b : Reg) (s : State) : Out :=
  s.int2 st f false d a b (noFlag maxS)

/-- MAX.n32 (05 R101). -/
def execMaxN32 (st : Stall) (f : IntForm) (d a b : Reg) (s : State) : Out :=
  s.int2 st f true d a b (noFlag maxU)

/-- CLZ (05 R101). -/
def execClz (st : Stall) (f : IntForm) (d a : Reg) (s : State) : Out := s.int1 st f d a clzOp

/-- POPC (05 R101). -/
def execPopc (st : Stall) (f : IntForm) (d a : Reg) (s : State) : Out := s.int1 st f d a popcOp

/-- BREV (05 R101). -/
def execBrev (st : Stall) (f : IntForm) (d a : Reg) (s : State) : Out := s.int1 st f d a brevOp

/-- ADDSAT.i32; it never sets SAT (05 R101). -/
def execAddsatI32 (st : Stall) (f : IntForm) (d a b : Reg) (s : State) : Out :=
  s.int2 st f false d a b (noFlag addsat)

/-- SUBSAT.i32; it never sets SAT (05 R101). -/
def execSubsatI32 (st : Stall) (f : IntForm) (d a b : Reg) (s : State) : Out :=
  s.int2 st f false d a b (noFlag subsat)

/-- IMAD: Va · Vb + Vc, wrapped to 32 bits (05 R103). -/
def execImad (st : Stall) (d a b c : Reg) (s : State) : Out :=
  s.alu st latInt (.v d.toNat) { rv := [(a.toNat, 1), (b.toNat, 1), (c.toNat, 1)] } (fun s1 l =>
    { val := wide (s1.readV l a.toNat * s1.readV l b.toNat + s1.readV l c.toNat) })

/-- ICMP writes the condition's truth (05 R104). -/
def execIcmp (st : Stall) (f : CmpForm) (c : ICond) (p : Pred) (a b : Reg) (s : State) : Out :=
  s.alu st latInt (.p p.toNat) (f.reads a b) (fun s1 l =>
    { val := truth (c.holds (f.opA a s1 l) (f.opB c.zext b s1 l)) })

/-- MOVL of a V register (05 R105). -/
def execMovl (st : Stall) (d : Reg) (imm : Half) (s : State) : Out :=
  s.alu st latInt (.v d.toNat) {} (fun _ _ => { val := BitVec.ofNat 64 imm.toNat })

/-- MOVH replaces bits 31:16 and reads Vd (05 R105). -/
def execMovh (st : Stall) (d : Reg) (imm : Half) (s : State) : Out :=
  s.alu st latInt (.v d.toNat) { rv := [(d.toNat, 1)] } (fun s1 l =>
    { val := BitVec.ofNat 64 (imm.toNat * 65536 + (s1.readV l d.toNat).toNat % 65536) })

/-- ADDI adds the sign-extended immediate to Vd (05 R105). -/
def execAddi (st : Stall) (d : Reg) (imm : Half) (s : State) : Out :=
  s.alu st latInt (.v d.toNat) { rv := [(d.toNat, 1)] } (fun s1 l =>
    { val := wide (s1.readV l d.toNat + i32 imm.toInt) })

/-- MOVL of an S register (05 R105, 03 R74). -/
def execMovlS (st : Stall) (d : Reg) (imm : Half) (s : State) : Out :=
  s.alu st latInt (.s d.toNat) {} (fun _ _ => { val := BitVec.ofNat 64 imm.toNat })

/-- ADD64 (05 R106). -/
def execAdd64 (st : Stall) (d a b : Reg) (s : State) : Out :=
  s.alu st latInt (.v64 d.toNat) { rv := [(a.toNat, 2), (b.toNat, 2)] } (fun s1 l =>
    { val := s1.readV64 l a.toNat + s1.readV64 l b.toNat })

/-- SUB64 (05 R106). -/
def execSub64 (st : Stall) (d a b : Reg) (s : State) : Out :=
  s.alu st latInt (.v64 d.toNat) { rv := [(a.toNat, 2), (b.toNat, 2)] } (fun s1 l =>
    { val := s1.readV64 l a.toNat - s1.readV64 l b.toNat })

/-- CMP64 (05 R106). -/
def execCmp64 (st : Stall) (c : Cond64) (p : Pred) (a b : Reg) (s : State) : Out :=
  s.alu st latInt (.p p.toNat) { rv := [(a.toNat, 2), (b.toNat, 2)] } (fun s1 l =>
    { val := truth (c.holds (s1.readV64 l a.toNat) (s1.readV64 l b.toNat)) })

/-- LEA adds the single register Vb, sign-extended and shifted, to the pair Va (05 R106). -/
def execLea (st : Stall) (h : BitVec 2) (d a b : Reg) (s : State) : Out :=
  s.alu st latInt (.v64 d.toNat) { rv := [(a.toNat, 2), (b.toNat, 1)] } (fun s1 l =>
    { val := s1.readV64 l a.toNat +
        BitVec.ofInt 64 ((s1.readV l b.toNat).toInt * 2 ^ h.toNat) })

end Sys2Proof.Machine
end

