-- ==== Sys2Proof/Machine/Pred.lean ====
section
/-!
DEFINITION. Sys2Proof/Machine/Pred.lean: predicate logic, WHEN and SEL: major 0x19 (05 R124 to R127).
-/

namespace Sys2Proof.Machine

open Sys2Proof

/-- A predicate word of two operands. -/
def State.pred2 (s : State) (st : Stall) (d a b : Pred) (op : Bool → Bool → Bool) : Out :=
  s.alu st latP (.p d.toNat) { rp := [a.toNat, b.toNat] } (fun s1 l =>
    { val := truth (op (s1.readP l a.toNat) (s1.readP l b.toNat)) })

/-- A predicate word of one operand. -/
def State.pred1 (s : State) (st : Stall) (d a : Pred) (op : Bool → Bool) : Out :=
  s.alu st latP (.p d.toNat) { rp := [a.toNat] } (fun s1 l =>
    { val := truth (op (s1.readP l a.toNat)) })

/-- PAND (05 R124). -/
def execPand (st : Stall) (d a b : Pred) (s : State) : Out := s.pred2 st d a b (fun x y => x && y)

/-- POR (05 R124). -/
def execPor (st : Stall) (d a b : Pred) (s : State) : Out := s.pred2 st d a b (fun x y => x || y)

/-- PXOR (05 R124). -/
def execPxor (st : Stall) (d a b : Pred) (s : State) : Out := s.pred2 st d a b (fun x y => x != y)

/-- PANDN (05 R124). -/
def execPandn (st : Stall) (d a b : Pred) (s : State) : Out := s.pred2 st d a b (fun x y => x && !y)

/-- PNOT (05 R124). -/
def execPnot (st : Stall) (d a : Pred) (s : State) : Out := s.pred1 st d a (fun x => !x)

/-- PMOV (05 R124). -/
def execPmov (st : Stall) (d a : Pred) (s : State) : Out := s.pred1 st d a (fun x => x)

/-- WHEN: every active fibre samples the guard once; a fibre that is not active holds guard 0; the
span covers the k words that follow (05 R125). The open spans of the word itself have passed it before
the new span opens. -/
def Wave.openSpan (w : Wave) (k : Nat) (g : Nat → Bool) : Wave :=
  w.mapLanes (fun l f =>
    if f.inSet then { f with spans := f.spans ++ [{ rem := k + 1, guardBit := f.active && g l }] }
    else f)

/-- WHEN Pn, k and WHEN ~Pn, k (05 R125, R126). -/
def execWhenP (st : Stall) (p : Pred) (sense : Bool) (k : BitVec 6) (s : State) : Out :=
  s.gate { rp := [p.toNat] } (fun s1 =>
    (s1.onWave (fun w =>
      w.openSpan k.toNat (fun l => s1.readP l p.toNat != sense))).retire st)

/-- SEL copies Va where Pn is 1 and Vb where it is 0 (05 R127). -/
def execSel (st : Stall) (p : Pred) (d a b : Reg) (s : State) : Out :=
  s.alu st latP (.v d.toNat) { rv := [(a.toNat, 1), (b.toNat, 1)], rp := [p.toNat] } (fun s1 l =>
    { val := wide (if s1.readP l p.toNat then s1.readV l a.toNat else s1.readV l b.toNat) })

end Sys2Proof.Machine
end

