-- ==== Sys2Proof/Machine/Groups.lean ====
section
/-!
DEFINITION. Sys2Proof/Machine/Groups.lean: groups and clusters start, end and fail (09 R182 to R187, R196 to
R198, R208, R212, 12 R269, 14 R297, 20 R383).
-/

namespace Sys2Proof.Machine

open Sys2Proof

/-! ### Coordinates (09 R186) -/

/-- The digits of an index over the levels whose domain passes a test, innermost first; 0 elsewhere. -/
def digitsOf (p : Nat → Bool) : List Word → Nat → List Nat
  | [], _ => []
  | d :: ds, x =>
    if p (lvDom d) then x % max 1 (lvFan d) :: digitsOf p ds (x / max 1 (lvFan d))
    else 0 :: digitsOf p ds x

/-- LVLIDX0 to LVLIDX7 of lane l of wave w of group g. -/
def Launch.coords (x : Launch) (g w l : Nat) : List Word :=
  let a := digitsOf (fun d => d == 0) x.lvls l
  let b := digitsOf (fun d => d == 1) x.lvls w
  let c := digitsOf (fun d => d == 2 || d == 3 || d == 4) x.lvls g
  (List.range 8).map (fun j =>
    match x.lvls[j]? with
    | none => 0
    | some d =>
      if lvDom d = 6 then x.outer
      else w32 (a.getD j 0 + b.getD j 0 + c.getD j 0))

/-- The die of group g, when the launch has a die level. -/
def Launch.dieOfGroup (x : Launch) (g : Nat) : Option Nat :=
  match x.lvls.findIdx? (fun d => lvDom d == 4) with
  | none => none
  | some j => some ((digitsOf (fun d => d == 2 || d == 3 || d == 4) x.lvls g).getD j 0)

/-! ### Starting (09 R189, R196, R197) -/

/-- The preload image of a launch. -/
def State.preloadBytes (s : State) (x : Launch) : Option (List Byte) :=
  if x.preload = 0 then some [] else s.ctxUnits x.ctx x.preload x.prelen

/-- Wave w of group g, with a fibre in each of its first F lanes. -/
def Launch.groupWave (x : Launch) (gid g w wid slot grant : Nat) : Wave :=
  let fibre (l : Nat) : Fibre :=
    if l < x.fibs then
      x.fibre x.entry (w32 ((g * x.wavesPer + w) * x.fibs + l)) (x.coords g w l)
    else {}
  { x.wave wid slot grant with
    group := some gid, index := w, lanes := (List.range grant).map fibre }

/-- Adds the waves of a group to the core at the issue port, in wave order; they have been resident equally
long (09 R199). -/
def State.addWaves (s : State) (x : Launch) (gid g : Nat) : List Nat → State
  | [] => s
  | w :: ws =>
    let slot := (s.core.freeSlot x s.hereWaves).getD 0
    let s1 := s.addWave (x.groupWave gid g w s.nextWid slot (s.core.grant x))
    ({ s1 with nextRes := s.nextRes }).addWaves x gid g ws

/-- The next group of a launch starts on the core at the issue port. -/
def State.startGroup (s : State) (x : Launch) (g : Nat) (pre : List Byte) : State :=
  let s0 := s.claim x.ctx
  let gid := s0.nextGroup
  let grp : Group :=
    { id := gid, launch := x.id, ctx := x.ctx, g := g, core := s0.core.num
      cpos := if x.csize = 0 then none else some (g % x.csize)
      size := x.vatsz, vat := putBytes [] 0 pre }
  let s1 : State := { s0 with groups := s0.groups ++ [grp], nextGroup := gid + 1 }
  let s2 := s1.addWaves x gid g (List.range x.wavesPer)
  { (s2.onLaunch x.id (fun x => { x with started := x.started + 1, core := some s0.core.num })) with
    nextRes := s0.nextRes + 1 }

/-- A live launch by its handle. -/
def State.liveLaunch (s : State) (id : Nat) : Option Launch :=
  s.launches.find? (fun x => x.id == id && !x.complete && !x.stopped)

/-- An earlier record of the queue has not started its first group (09 R195). -/
def State.queueBlocked (s : State) (x : Launch) : Bool :=
  s.launches.any (fun y => y.ctx == x.ctx && y.queue == x.queue && decide (y.id < x.id) && y.started == 0 &&
    !y.complete)

/-- A pre-empted group of a class waits to be restored (09 R198). -/
def State.classHeld (s : State) (cls : Nat) : Bool :=
  s.contexts.any (fun c => c.images.any (fun i => i.groups.any (fun g =>
    (s.launchOf g.launch).cls == cls)))

/-- The die on which the next group of a launch starts holds a core (09 R196). -/
def Launch.dieFits (x : Launch) (num : Nat) : Bool :=
  match x.dieOfGroup x.started with
  | none => true
  | some d => dieOf num == d

/-- The groups of a launch that start together on one core: all of a deterministic one (09 R208, log 45). -/
def Launch.batch (x : Launch) : Nat := if x.det then x.groups else 1

/-- A launch could start its next group, or its next cluster, if it had room. -/
def State.wantsStart (s : State) (x : Launch) : Bool :=
  !x.complete && !x.stopped && decide (x.started < x.groups) && !s.queueBlocked x && !s.classHeld x.cls

/-- The first place that passes a test for the next group or cluster of a launch: a core, or a cluster. -/
def Launch.somewhere (x : Launch) (p : Nat → Bool) : Option Nat :=
  if x.csize = 0 then (List.range coreCount).find? p
  else (List.range (coreCount / 4)).find? (fun k => (List.range x.csize).all (fun i => p (4 * k + i)))

/-- There is room for the next group of a launch somewhere. -/
def State.roomFor (s : State) (x : Launch) : Bool :=
  (x.somewhere (fun n => x.dieFits n && s.canTake x x.batch n)).isSome

/-- All user work on a core is of lower classes than 0. -/
def State.lowerWork (s : State) (n : Nat) : Bool :=
  (userWaves (s.wavesOn n)).all (fun w => (s.launchOf w.launch).cls != 0) &&
  s.groups.all (fun g => g.core != n || g.finished || (s.launchOf g.launch).cls != 0)

/-- All user work on a core, and on the cores that are pre-empted with it, is of lower classes than 0, and without it
the core could hold the next group of a launch (09 R207, 21 R390). -/
def State.victim (s : State) (x : Launch) (n : Nat) : Bool :=
  match s.coreBy n with
  | none => false
  | some c => x.dieFits n && c.couldHold x x.batch && (s.preemptCores n).all (fun m => s.lowerWork m)

/-- An eligible class-0 launch: it has not started its first group, and every class-0 launch accepted before it has
(09 R207). -/
def State.eligible (s : State) (x : Launch) : Bool :=
  !x.complete && !x.stopped && decide (x.started < x.groups) && x.cls == 0 && x.started == 0 &&
  !s.launches.any (fun y => y.cls == 0 && decide (y.id < x.id) && y.started == 0 && !y.complete)

/-- Work of a higher class that could go on now, or for which cores are being freed, comes before work of a class
(09 R198, R207). -/
def State.yields (s : State) (cls : Nat) : Bool :=
  s.launches.any (fun y => decide (y.cls < cls) && s.wantsStart y &&
    (s.roomFor y || (s.eligible y && (y.somewhere (fun n => s.victim y n)).isSome))) ||
  s.contexts.any (fun c => c.images.any (fun i => decide (s.imageClass i < cls) &&
    (List.range coreCount).any (fun n => s.imageReady c.id i n)))

/-- Starts n groups of a launch from group g on, on a core. -/
def State.startGroups (s : State) (x : Launch) (pre : List Byte) : List Nat → State
  | [] => s
  | g :: gs => (s.startGroup x g pre).startGroups x pre gs

/-- The next group of a launch may start on a core of the device: in index order, on its die, where there is
room, after the work of higher classes; a deterministic launch starts only where its whole rotation fits
(09 R195, R196, R198, 11 R237). -/
def State.mayStart (s : State) (x : Launch) (core n : Nat) : Bool :=
  s.wantsStart x && x.dieFits core && s.canTake x n core && !s.yields x.cls

/-- GROUP_START: the next group of a launch starts on a core. All groups of a deterministic launch start
together, on one core, before its first step (09 R208, DEDUCED log 45). -/
def execGroupStart (launch core : Nat) (s : State) : Out :=
  match s.liveLaunch launch with
  | none => .next s
  | some x =>
    let n := x.batch
    if x.csize ≠ 0 then .next s
    else if !s.mayStart x core n then .next s
    else
      match s.preloadBytes x with
      | none => .next s
      | some pre =>
        .next (s.atCore core (fun s =>
          s.startGroups x pre ((List.range n).map (fun i => x.started + i))))

/-- Starts the groups of a cluster on the cores of a cluster, group g at position g mod c. -/
def State.startCluster (s : State) (x : Launch) (k : Nat) (pre : List Byte) : List Nat → State
  | [] => s
  | i :: is =>
    (s.atCore (4 * k + i) (fun s => s.startGroup x (x.started + i) pre)).startCluster x k pre is

/-- CLUSTER_START: all groups of the next cluster of a launch start together (09 R197). -/
def execClusterStart (launch cluster : Nat) (s : State) : Out :=
  match s.liveLaunch launch with
  | none => .next s
  | some x =>
    let places := (List.range x.csize).map (fun i => 4 * cluster + i)
    if x.csize = 0 ∨ !places.all (fun n => s.mayStart x n 1) then .next s
    else
      match s.preloadBytes x with
      | none => .next s
      | some pre => .next (s.startCluster x cluster pre (List.range x.csize))

/-! ### Withdrawing work (20 R383) -/

/-- The tokens that the parked fibres of a wave wait on. -/
def Wave.tokens (w : Wave) : List Nat :=
  sortNats (w.lanes.filterMap (fun f =>
    match f.park with
    | .wait t => some t.toNat
    | .fault t .. => some t.toNat
    | .none => none
    | .barrier .. => none))

/-- The interest that the parked fibres of a wave hold in wait-table entries is given back. -/
def State.giveBack (s : State) (w : Wave) : State :=
  w.tokens.foldl (fun s t => s.giveToken w.ctx (w32 t) (w.waiters (w32 t))) s

/-- Every fibre of a wave ends; its accesses already issued stay outstanding until they complete. -/
def Wave.withdrawn (w : Wave) : Wave :=
  let w1 := w.mapLanes (fun _ f => { f with run := .ended, inSet := false, park := .none, clause := none })
  let w2 : Wave := { w1 with
    d := [], interlocks := [], lent := [], engW := [], joins := [], pend17 := false, pend19 := []
    dying := none, cur := none, handler := false, stalled := false, tlbiWait := [] }
  w.outst.foldl (fun w o => w.incCtr o.ctr) w2

/-- The commands and requests of some waves leave the queues of a core. -/
def Core.without (c : Core) (p : Nat → Bool) : Core :=
  { c with
    arrayQ := c.arrayQ.filter (fun x => !p x.wid)
    tileQ := c.tileQ.filter (fun x => !p x.wid)
    blendQ := c.blendQ.filter (fun x => !p x.wid)
    kickQ := c.kickQ.filter (fun x => !p x.wid)
    reqQ := c.reqQ.filter (fun x => !p x.wid) }

/-- The tokens that the queued commands and requests of some waves wait on, with their groups. -/
def Core.queueTokens (c : Core) (p : Nat → Bool) : List (Nat × Word) :=
  (c.arrayQ.filterMap (fun x => if p x.wid then x.token.map (fun t => (x.group.getD 0, t)) else none)) ++
  (c.reqQ.filterMap (fun x => if p x.wid then x.token.map (fun t => (x.group, t)) else none))

/-- The waves that pass a test are withdrawn: parked fibres, array commands, engine commands and decanter
requests alike. -/
def State.withdraw (s : State) (p : Wave → Bool) : State :=
  let ws := s.allWaves.filter (fun w => p w && !w.absent)
  let ids := ws.map (fun w => w.wid)
  let toks := s.allCores.flatMap (fun c => c.queueTokens (fun i => ids.contains i))
  let s0 := toks.foldl (fun s x => s.giveToken (s.groupD x.1).ctx x.2 1) s
  let s1 := ws.foldl (fun s w => s.giveBack w) s0
  let s2 := s1.onWaves (fun w => if p w then w.withdrawn else w)
  s2.onCores (fun c => c.without (fun i => ids.contains i))

/-! ### Failing (20 R383, 14 R297, 09 R212) -/

/-- The recorded objects of a cluster whose arrivals are below expected break with peer (14 R297). -/
def State.breakPeers (s : State) (gid : Nat) : State :=
  let g := s.groupD gid
  let c := s.launchOf g.launch
  if c.csize = 0 then s
  else
    let mates := s.groups.filter (fun x => x.launch == g.launch && x.g / c.csize == g.g / c.csize)
    mates.foldl (fun s m =>
      m.bars.foldl (fun s off =>
        let b := (s.groupD m.id).bar off
        if b.arrivals < b.expected then s.breakBar m.id off true false else s) s) s

/-- Stop on error (09 R212): no further work of the launch starts, its items are discarded and its waves end
at their next instruction boundary. -/
def State.stopLaunch (s : State) (id : Nat) : State :=
  let s1 := s.onLaunch id (fun x => { x with stopped := true, ovf := [] })
  let s2 := s1.onCores (fun c => { c with bins := c.bins.filter (fun b => b.launch != id) })
  let s3 : State := { s2 with
    dies := s2.dies.map (fun d => (d.1, { d.2 with steal := d.2.steal.filter (fun b => b.launch != id) }))
    contexts := s2.contexts.map (fun c => { c with images := c.images.map (fun i =>
      { i with bins := i.bins.filter (fun b => b.launch != id) }) }) }
  s3.withdraw (fun w => w.launch == id && !w.steward)

/-- A group of a launch has failed: it is counted once. -/
def State.groupFailed (s : State) (gid : Nat) : State :=
  let g := s.groupD gid
  if g.failed then s
  else
    let s1 := (s.onGroup gid (fun g => { g with failed := true })).onLaunch g.launch (fun x =>
      { x with nfail := x.nfail + 1 })
    let s2 := s1.breakPeers gid
    if (s2.launchOf g.launch).soe then s2.stopLaunch g.launch else s2

/-- GROUP_FAIL: the wave at the issue port met an unhandled cause: its record is posted, its group's work, or
the task wave's, is withdrawn, and the group has failed. -/
def execGroupFail (s : State) : Out :=
  match s.wave.dying with
  | none => .next s
  | some r =>
    let w := s.wave
    let s1 := if r.unhandled then s.postError w.launch r else s
    match w.group with
    | none =>
      .next ((s1.withdraw (fun x => x.wid == w.wid)).onLaunch w.launch (fun x => { x with taskFail := true }))
    | some gid => .next ((s1.withdraw (fun x => x.group == some gid)).groupFailed gid)

/-! ### Ending (09 R187, R190, R212, 12 R269) -/

/-- Some unit still holds work of a group. -/
def State.groupBusy (s : State) (gid : Nat) : Bool :=
  s.allCores.any (fun c => c.reqQ.any (fun q => q.group == gid) || c.arrayQ.any (fun q => q.group == some gid) ||
    c.tileQ.any (fun q => q.group == some gid) || c.blendQ.any (fun q => q.group == gid))

/-- The dirty bytes of a group's bindings that are left, by granule and page: the binding's offset, the global
address, the length. -/
def Group.dirtyLeft (g : Group) : List (Nat × Nat × Nat) :=
  g.binds.flatMap (fun b => b.backParts.map (fun x => (b.off, x.1, x.2)))

/-- The record of a write-back at a group's end, with the issuer that `endFault` names. -/
def State.endRecord (s : State) (gid off : Nat) (i : TrapInfo) : FaultRecord :=
  let g := s.groupD gid
  let b := (g.bindingAt off).getD {}
  { info := i, fibid := b.fibid, pc := b.pc, wctx := b.slot, core := g.core, ctx := g.ctx }

/-- A write-back at a group's end that faults: a group 19 record with the retired flag, and the group ends
failed (12 R269). The issuer that the record names is the fibre that made the binding, at its VMAP (DEDUCED from 20
R372 and R385, log 68). -/
def State.endFault (s : State) (gid off va : Nat) : State :=
  let g := s.groupD gid
  let i := refusalInfo 0x003 { virt := va, lane := ((g.bindingAt off).getD {}).lane } 256 true
  (s.postError g.launch { s.endRecord gid off i with retired := true, unhandled := true }).groupFailed gid

/-- Writes the dirty bytes of a group's bindings back. -/
def State.endBack (s : State) (gid : Nat) (xs : List (Nat × Nat × Nat)) : State :=
  State.tidyMarks <| xs.foldl (fun s x =>
    let va := x.2.1
    match s.translate (s.groupD gid).ctx va .write with
    | .error _ => s.endFault gid x.1 va
    | .ok p =>
      match s.transferFails p with
      | none => s.writeBack gid x.1 va x.2.2 p
      | some c =>
        let t := s.homeOpen.endFault gid x.1 va
        if c = 0x002 ∧ (s.unitOf p).isSome then
          t.unitLost (s.groupD gid).ctx (va / 65536) p (tierTrap 1 va)
            (s.endRecord gid x.1 (tierTrap 1 va)) (dieOf (s.groupD gid).core)
        else t) s

/-- The waves of a group, or ended task waves, give their contexts up. -/
def State.dropWaves (s : State) (p : Wave → Bool) : State :=
  let s1 := s.onCores (fun c => { c with waves := c.waves.filter (fun w => !p w) })
  if p s1.wave then { s1 with wave := {} } else s1

/-- The Vat of a group is free once the group has ended, in a cluster once every group of it has. -/
def State.freeGroups (s : State) (launch : Nat) : State :=
  let x := s.launchOf launch
  { s with groups := s.groups.filter (fun g =>
      !(g.launch == launch && g.finished &&
        (x.csize == 0 ||
          s.groups.all (fun y => !(y.launch == launch && y.g / x.csize == g.g / x.csize) || y.finished)))) }

/-- Work of a launch that is left: waves, items, saved waves. -/
def State.workLeft (s : State) (x : Launch) : Bool :=
  s.allWaves.any (fun w => w.launch == x.id && !w.absent && !w.steward) || !x.ovf.isEmpty ||
  s.allCores.any (fun c => c.bins.any (fun b => b.launch == x.id)) ||
  s.contexts.any (fun c => c.images.any (fun i => i.waves.any (fun w => w.launch == x.id) ||
    i.bins.any (fun b => b.launch == x.id)))

/-- A launch completes when its every group and task wave has ended and no item is left: its completion word is
written once. -/
def State.finishLaunch (s : State) (id : Nat) : State :=
  match s.launches.find? (fun x => x.id == id) with
  | none => s
  | some x =>
    if x.complete || s.workLeft x || x.ended != x.started || (x.started != x.groups && !x.stopped) then s
    else
      let ok := x.nfail == 0 && !x.taskFail && !x.stopped
      (s.writeDone x x.nfail 0 (if ok then 1 else 2)).onLaunch id (fun x => { x with complete := true })

/-- Ended task waves leave, and launches with nothing left complete. -/
def State.sweep (s : State) : State :=
  let s1 := s.dropWaves (fun w => !w.absent && !w.steward && w.group.isNone && w.over)
  (s1.launches.map (fun x => x.id)).foldl (fun s id => s.finishLaunch id) s1

/-- A group can end now. -/
def State.canEnd (s : State) (g : Group) : Bool :=
  !g.finished && (s.allWaves.filter (fun w => w.group == some g.id)).all (fun w => w.over) &&
  !s.groupBusy g.id && g.waves != 0

/-- GROUP_END: a group whose waves have all ended, whose every access is acknowledged and whose copies have
landed writes its mapped regions back and ends (09 R187, R212). -/
def execGroupEnd (group : Nat) (s : State) : Out :=
  match s.groups.find? (fun g => g.id == group) with
  | none => .next s.sweep
  | some g =>
    let mine := s.allWaves.filter (fun w => w.group == some group)
    if g.finished || !mine.all (fun w => w.over) || s.groupBusy group then .next s.sweep
    else
      let s1 := s.endBack group g.dirtyLeft
      let s2 := s1.dropWaves (fun w => w.group == some group)
      let s3 := (s2.onGroup group (fun g => { g with finished := true })).onLaunch g.launch (fun x =>
        { x with ended := x.ended + 1 })
      .next (s3.freeGroups g.launch).sweep

end Sys2Proof.Machine
end

