-- ==== Sys2Proof/Machine/Tasks.lean ====
section
/-!
DEFINITION. Sys2Proof/Machine/Tasks.lean: bins and the Cooper, stealing, racking, and the choices that keep a
wave or a Vat requester from starving (09 R199 to R206, R208, 01 R11, 21 R401).
-/

namespace Sys2Proof.Machine

open Sys2Proof

/-! ### Due bins (09 R202, R208) -/

/-- BIN_TIMEOUT: a bin of the core at the issue port becomes due; in a deterministic launch once bintmo steps
have passed (09 R202, R208). -/
def execBinTimeout (launch : Nat) (entry : DWord) (s : State) : Out :=
  let x := s.launchOf launch
  .next (s.onCore (fun c => { c with bins := c.bins.map (fun b =>
    if b.keyed launch entry.toNat && !b.items.isEmpty && (!x.det || decide (x.bintmo ≤ b.steps)) then
      { b with due := true }
    else b) }))

/-! ### Overflow queues (09 R201, R202) -/

/-- Where an overflow item goes on a core: its bin, or a free one (DESIGN CHOICE, log 46). -/
def Core.refillOne (c : Core) (launch : Nat) (tmo : Nat) (x : Item) : Option Core :=
  if 2048 ≤ c.binItems then none
  else if c.bins.any (fun b => b.takes launch x.entry) then
    some { c with bins := binAdd (fun b => b.takes launch x.entry) x c.bins }
  else if c.bins.length < 16 && !c.bins.any (fun b => b.keyed launch x.entry) then
    some { c with bins := c.bins ++ [{ launch := launch, entry := x.entry, items := [x], due := tmo == 0 }] }
  else none

/-- Moves items of an overflow queue into a core's bins in order; the items that stay. -/
def Core.refill (c : Core) (launch tmo : Nat) : List Item → Core × List Item
  | [] => (c, [])
  | x :: xs =>
    match c.refillOne launch tmo x with
    | some c1 => c1.refill launch tmo xs
    | none =>
      let r := c.refill launch tmo xs
      (r.1, x :: r.2)

/-- The bins of the core at the issue port may take overflow items of a launch: one of its context, and of a
deterministic launch only on the core that runs it (09 R208). -/
def State.refills (s : State) (x : Launch) : Bool :=
  x.ctx == s.core.matCtx && !x.ovf.isEmpty && (!x.det || x.core == some s.core.num)

/-- Refills the bins of the core at the issue port from the overflow queues of its context's launches. -/
def State.refill (s : State) : State :=
  (s.launches.filter (fun x => s.refills x)).foldl (fun s x =>
    let r := s.core.refill x.id x.bintmo x.ovf
    (s.onCore (fun _ => r.1)).onLaunch x.id (fun y => { y with ovf := r.2 })) s

/-! ### The Cooper (09 R202, R203) -/

/-- A task wave: item i in lane i. -/
def Launch.taskWave (x : Launch) (wid slot g : Nat) (entry : Nat) (items : List Item) : Wave :=
  let fibre (l : Nat) : Fibre :=
    match items[l]? with
    | none => {}
    | some it =>
      { (x.fibre entry (w32 (x.groups * x.wavesPer * x.fibs + it.order)) (List.replicate 8 0)).withVals it.vals with
        task := true }
  { x.wave wid slot g with lanes := (List.range g).map fibre }

/-- Takes the first Gt items of the bin at a place; an empty bin is free again. DESIGN CHOICE (log 46): for the items
left over bintmo runs afresh (09 R202: 'becomes due again by the same rule'). -/
def takeItems (i n : Nat) (tmo : Nat) (bs : List Bin) : List Bin :=
  (updateAt (fun b => { b with items := b.items.drop n, due := tmo == 0, posted := false, steps := 0 }) i bs).filter
    (fun b => !b.items.isEmpty)

/-- A posted bin is on its core no longer, or is launched: its entry leaves the die's steal queue. -/
def State.unpost (s : State) (core : Nat) (b : Bin) : State :=
  if b.posted then
    let d := s.die (dieOf core)
    s.setDie (dieOf core) { d with
      steal := d.steal.erase { core := core, launch := b.launch, entry := b.entry } }
  else s

/-- The first due bin that fits becomes a task wave of up to Gt items (09 R202). -/
def State.cooper (s : State) : State :=
  let s0 := s.refill
  match s0.core.bins.findIdx? (fun b => s0.binDue s0.core b && s0.binFits b) with
  | none => s0
  | some i =>
    let b := s0.core.bins.getD i {}
    let x := s0.launchOf b.launch
    let s1 := s0.claim x.ctx
    let g := s1.core.taskGrant x
    let w := x.taskWave s1.nextWid ((s1.core.freeSlot x s1.hereWaves).getD 0) g b.entry (b.items.take g)
    (((s1.addWave w).onCore (fun c => { c with bins := takeItems i g x.bintmo c.bins })).unpost s1.core.num b).refill

/-- COOPER_LAUNCH (09 R202). On a core that runs a deterministic launch the Cooper acts within its steps alone
(09 R208, R211). -/
def execCooperLaunch (s : State) : Out := if (s.detOn s.core.num).isSome then .next s else .next s.cooper

/-! ### Stealing (09 R204) -/

/-- A wave of a core could issue. -/
def Wave.couldIssue (w : Wave) : Bool :=
  !w.over && !w.stalled && w.lanes.any (fun f => decide (f.run = .running))

/-- A due bin that another core may take: of the core's own context, not of a deterministic launch. -/
def State.stealable (s : State) (c : Core) (owner : Core) (b : Bin) : Bool :=
  let x := s.launchOf b.launch
  s.binDue owner b && x.ctx == c.matCtx && !x.det && !x.stopped

/-- A core may steal: a free context, no ready wave, the steward's included, no deterministic launch, and room for the
bin. -/
def State.maySteal (s : State) (c : Core) : Bool :=
  let ws := s.wavesOn c.num
  c.enabled && c.preempt == .none && (c.freeSlot {} ws).isSome && !ws.any Wave.couldIssue && (s.detOn c.num).isNone &&
  decide (c.bins.length < 16)

/-- The bin that a core would steal, as its core and its place: a due bin of a sibling at position +1, +2 or +3, or
else the first of its die's steal queue that it can take (09 R204). -/
def State.stealFrom (s : State) (c : Core) : Option (Nat × Nat) :=
  if !s.maySteal c then none
  else
    let room (b : Bin) : Bool := decide (c.binItems + b.items.length ≤ 2048)
    let sibs := [1, 2, 3].map (fun k => c.num / 4 * 4 + (c.num + k) % 4)
    let sibling := sibs.findSome? (fun m =>
      (s.coreBy m).bind (fun o =>
        (o.bins.findIdx? (fun b => s.stealable c o b && room b)).map (fun i => (m, i))))
    sibling.or ((s.die (dieOf c.num)).steal.findSome? (fun r =>
      if r.core == c.num then none
      else (s.coreBy r.core).bind (fun o =>
        (o.bins.findIdx? (fun b => b.posted && b.keyed r.launch r.entry && s.stealable c o b && room b)).map
          (fun i => (r.core, i)))))

/-- Adds a stolen bin to a core, whole. -/
def State.gainBin (s : State) (n : Nat) (b : Bin) : State :=
  s.onCores (fun c => if c.num == n then { c with bins := c.bins ++ [{ b with due := true, posted := false }] } else c)

/-- BIN_STEAL: a core takes a whole due bin from its owner. -/
def State.steal (s : State) (n : Nat) : State :=
  match s.coreBy n with
  | none => s
  | some c =>
    match s.stealFrom c with
    | none => s
    | some (m, i) =>
      let b := ((s.coreBy m).getD {}).bins.getD i {}
      ((s.onCores (fun k => if k.num == m then { k with bins := removeAt i k.bins } else k)).gainBin n b).unpost m b

/-- BIN_STEAL (09 R204). -/
def execBinSteal (core : Nat) (s : State) : Out := .next (s.steal core)

/-- STEAL_QUEUE_POST: a due bin that the core at the issue port cannot launch is posted to its die's steal queue; it
stays in its core's bins until some core takes it. -/
def execStealQueuePost (launch : Nat) (entry : DWord) (s : State) : Out :=
  match s.core.bins.findIdx? (fun b => b.keyed launch entry.toNat && s.binDue s.core b && !s.binFits b &&
      !b.posted && !(s.launchOf b.launch).det) with
  | none => .next s
  | some i =>
    let n := dieOf s.core.num
    let d := s.die n
    .next ((s.setDie n { d with
      steal := d.steal ++ [{ core := s.core.num, launch := launch, entry := entry.toNat }] }).onCore (fun c =>
      { c with bins := updateAt (fun b => { b with posted := true }) i c.bins }))

/-! ### Racking (09 R205, R206, 21 R401) -/

/-- A group may be racked to a core: its launch allows it, it is alone on its core, the target lies on the same
die, holds no resident wave, the steward's included, has no due bin that comes first, and gives every wave its G in
the same passes. -/
def State.mayRack (s : State) (g : Group) (n : Nat) : Bool :=
  let x := s.launchOf g.launch
  let ws := userWaves (s.wavesOn g.core)
  match s.coreBy g.core, s.coreBy n with
  | some a, some b =>
    x.mig && x.csize == 0 && !x.det && n != g.core && dieOf n == dieOf g.core && b.enabled &&
    b.preempt == .none && a.preempt == .none && ws.all (fun w => w.group == some g.id) &&
    !s.groups.any (fun y => y.core == g.core && y.id != g.id && !y.finished) &&
    (s.wavesOn n).all (fun w => w.absent || (!w.steward && w.over)) && !s.dueOn b && b.binRoom a.bins &&
    s.ctxFree b g.ctx && ws.all (fun w => b.passes w.g == a.passes w.g) &&
    decide (ws.length ≤ b.slots) &&
    decide ((ws.map (fun w => b.regsFor w.g x.win)).sum ≤ b.regCap) && decide (g.size ≤ s.freeVat n) &&
    b.arrayQ.isEmpty && b.tileQ.isEmpty && b.blendQ.isEmpty && b.kickQ.isEmpty && b.reqQ.isEmpty
  | _, _ => false

/-- The waves of a group as they stand on another core: the lowest contexts, in order. -/
def reslot : Nat → List Wave → List Wave
  | _, [] => []
  | i, w :: ws => { w with slot := i } :: reslot (i + 1) ws

/-- A core keeps no copy of a block, a descriptor or a target: the fences of the waves that come to it have
discarded theirs (13 R282, R283). -/
def Core.dropCopies (c : Core) : Core := { c with tdtCache := [], icache := [], brx := [] }

/-- The entries of a die's steal queue follow a core's bins. -/
def State.repost (s : State) (a n : Nat) : State :=
  let d := s.die (dieOf n)
  s.setDie (dieOf n) { d with steal := d.steal.map (fun r => if r.core == a then { r with core := n } else r) }

/-- RACKING: the group, its queued work and the core section with its bins move to the idle core. -/
def State.rack (s : State) (g : Group) (n : Nat) : State :=
  let own (w : Wave) : Bool := w.group == some g.id
  match s.coreBy g.core with
  | none => s
  | some a =>
    let ws := (s.wavesOn g.core).filter own
    let s1 := (s.dropWaves own).onCores (fun c =>
      if c.num == g.core then
        { c with arrayQ := [], tileQ := [], blendQ := [], kickQ := [], reqQ := [], bins := [] }
      else c)
    let s2 := s1.atCore n (fun s => (s.claim g.ctx).onCore (fun c => { c.dropCopies with
      mat := a.mat, arrayQ := a.arrayQ, tileQ := a.tileQ, blendQ := a.blendQ, kickQ := a.kickQ, reqQ := a.reqQ
      bins := c.bins ++ a.bins
      waves := c.waves ++ reslot 0 ws }))
    (s2.repost g.core n).onGroup g.id (fun g => { g with core := n })

/-- RACKING (09 R205). -/
def execRacking (group core : Nat) (s : State) : Out :=
  match s.groups.find? (fun g => g.id == group) with
  | none => .next s
  | some g => if s.mayRack g core then .next (s.rack g core) else .next s

/-! ### Starvation (09 R199, 01 R11) -/

/-- A wave comes before another at a port: it has been resident longer, or as long and in a lower wave context. -/
def Wave.seniorTo (x w : Wave) : Bool :=
  decide (x.resident < w.resident) || (x.resident == w.resident && decide (x.slot < w.slot))

/-- A wave has been ready but passed over (09 R199): how many clocks is not modelled (log 5). -/
def Wave.passedOver (w : Wave) : Bool := decide (0 < w.passed) && w.couldIssue

/-- ISSUE_STARVATION_PROMOTE: a wave that was ready and passed over is chosen first at its port; of several such
waves it is the one resident longest, in the lowest wave context among equals. -/
def execIssueStarvationPromote (wid : Nat) (s : State) : Out :=
  match s.core.waves.find? (fun w => w.wid == wid && w.passedOver) with
  | none => .next s
  | some w =>
    if s.core.waves.all (fun x => !x.passedOver || !x.seniorTo w) then
      .next ((s.focusWave wid).onWave (fun w => { w with passed := 0, turnDone := false }))
    else .next s

/-- VAT_STARVATION_PROMOTE: a requester of the core's Vat takes first place. -/
def execVatStarvationPromote (r : VatRequester) (s : State) : Out :=
  .next (s.onCore (fun c => { c with first := some r }))

end Sys2Proof.Machine
end

