-- ==== Sys2Proof/Machine/SaveImage.lean ====
section
/-!
DEFINITION. Sys2Proof/Machine/SaveImage.lean: the bytes of a save image: its header, the core section, wave,
fibre and group records, and the two streams (21 R391 to R397), as the streamer writes them to the context's save
area. A restore takes the record of the image that its context keeps (log 9).
-/

namespace Sys2Proof.Machine

open Sys2Proof

/-! ### Fibre records (21 R395) -/

/-- The run state's code (03 R60). -/
def RunState.code : RunState → Nat
  | .running => 0
  | .joining => 1
  | .parked => 2
  | .ended => 3

/-- What a fibre is parked on: kind, reference, phase. -/
def Park.fields : Park → Nat × Nat × Nat
  | .none => (0, 0, 0)
  | .barrier field off phase sc _ => (1, off % 2 ^ 19 + field.toNat * 2 ^ 19 + sc.code * 2 ^ 23, phase)
  | .wait token => (2, token.toNat, 0)
  | .fault token .. => (2, token.toNat, 0)

/-- Bits of a list, the first lowest. -/
def bitsOf : List Bool → Nat
  | [] => 0
  | b :: bs => b2n b + 2 * bitsOf bs

/-- The 32 bytes of a fibre record. -/
def Fibre.record (f : Fibre) : List Byte :=
  let p := f.park.fields
  bytesOf (packFields [
    (236, 1, b2n f.task), (222, 14, bitsOf (f.rspans.map (fun x => x.guardBit))),
    (208, 14, bitsOf (f.spans.map (fun x => x.guardBit))), (176, 32, p.2.1), (160, 16, p.2.2),
    (128, 32, f.fibid.toNat), (126, 2, p.1), (109, 17, f.slim), (92, 17, f.sp), (84, 8, f.jid.toNat),
    (76, 8, f.base), (67, 9, f.alloc), (66, 1, b2n f.present), (64, 2, f.run.code),
    (63, 1, b2n (f.spans.all (fun x => x.guardBit))),
    (48, 15, bitsOf ((List.range 15).map (fun i => f.pred (i + 1)))), (0, 48, f.pc)]) 32

/-- The register run of a present fibre: its allocation and the tags of its quads. -/
def Fibre.registers (f : Fibre) : List Byte :=
  (List.range f.alloc).flatMap (fun r => bytesOf (f.reg r).toNat 4) ++
  bytesOf (bitsOf ((List.range (ceilDiv f.alloc 4)).map (fun q => f.tag (4 * q)))) (if 128 < f.alloc then 8 else 4)

/-- The register stream's part of a wave: for each logical lane the record, and the run of a fibre. Every record of
a task wave carries the task bit (21 R397). -/
def Wave.laneBytes (w : Wave) : List Byte :=
  (List.range w.g).flatMap (fun l =>
    let f := { w.fib l with task := w.group.isNone }
    f.record ++ (if f.present then f.registers else []))

/-! ### Wave records (21 R394) -/

/-- The lowest lane with open spans of a kind, whose spans have the wave's lengths. -/
def Wave.spanLens (w : Wave) (f : Fibre → List Span) : List Nat :=
  match w.lanes.find? (fun x => !(f x).isEmpty) with
  | none => []
  | some x => (f x).map (fun s => s.rem)

/-- Four-bit fields of a list, the first lowest. -/
def nibbles : List Nat → Nat
  | [] => 0
  | x :: xs => x % 16 + 16 * nibbles xs

/-- A board entry: register, file, slots left; unused where none is left. -/
def Wave.boardEntry (w : Wave) (e : BoardEntry) : Nat :=
  packFields [(10, 4, e.slot + e.lat - w.slotNo), (8, 2, e.file.code), (0, 8, e.reg)]

/-- The board of fixed-latency writes without entries of one register twice: a lane's entry stands for the wave's. -/
def Wave.boardBytes (w : Wave) : List Byte :=
  let es := ((w.board.filter (fun e => w.inFlight e && e.ctr.isNone)).map w.boardEntry).eraseDups
  (es ++ List.replicate 48 0).take 48 |>.flatMap (fun x => bytesOf x 2)

/-- A lane mask of 32 bytes. -/
def maskBytes (ls : List Nat) : List Byte :=
  bytesOf (bitsOf ((List.range 256).map (fun l => ls.contains l))) 32

/-- The place of a wave: its group's record index and its index in the group, or 0xFF twice. -/
def Wave.place (w : Wave) (gs : List Group) : Nat :=
  match w.group with
  | none => 0xFFFF
  | some gid => ((gs.findIdx? (fun g => g.id == gid)).getD 255) + 256 * w.index

/-- The handle of a task wave's launch: the device's own (log 9). -/
def Wave.handleOf (w : Wave) : Nat := if w.group.isNone then w.launch else 0

/-- WSTAT of a saved wave, by the passes of the core that saved it (03 R64). -/
def Wave.wstatOf (w : Wave) (p : Nat) : Nat :=
  packFields [(0, 1, b2n w.wchg), (1, 1, b2n w.chk), (4, 1, b2n w.det), (5, 1, b2n w.chkd),
    (6, 2, ceilDiv w.g p - 1)]

/-- The pending group 19 record of a wave, as it was posted. -/
def Wave.rec19 (w : Wave) : List Byte :=
  match w.pend19 with
  | [] => List.replicate 32 0
  | r :: _ =>
    ({ info := r.info, fibid := r.fibid, pc := r.pc, wctx := r.wctx, core := r.core, ctx := w.ctx } :
      FaultRecord).bytes r.seq

/-- The resume guards of a wave, lane by lane. -/
def Wave.rguards (w : Wave) : List Byte :=
  bytesOf (bitsOf ((List.range 256).map (fun l =>
    !(w.fib l).rspans.isEmpty && (w.fib l).rspans.all (fun x => x.guardBit)))) 32

/-- Join record `j`: the expected mask, then the arrived mask. -/
def Wave.joinBytes (w : Wave) (j : Nat) : List Byte :=
  match w.joins[j]? with
  | none => List.replicate 64 0
  | some r => maskBytes r.expected ++ maskBytes r.arrived

/-- The header of the clause in which a set resumes: the resume address itself where no clause has begun there
(20 R375). -/
def Resume.header (r : Resume) : Nat := (r.clause.map (fun c => c.addr)).getD r.addr

/-- The 1,152 bytes of a wave record. -/
def Wave.record (w : Wave) (i : Image) : List Byte :=
  let live := w.spanLens (fun f => f.spans)
  let rlive := w.spanLens (fun f => f.rspans)
  (List.range 64).flatMap (fun n => bytesOf (w.sreg n).toNat 4) ++
  bytesOf (bitsOf ((List.range 16).map (fun n => sget false w.stags n))) 2 ++
  (List.range 6).flatMap (fun n => bytesOf (w.ctr n) 1) ++
  bytesOf w.g 2 ++
  bytesOf (bitsOf [w.handler, w.pend17, !w.pend19.isEmpty, w.handler]) 1 ++
  bytesOf w.joins.length 1 ++
  bytesOf (w.wstatOf i.p) 4 ++ bytesOf w.fpctl.toNat 4 ++ bytesOf w.fpstat.toNat 4 ++
  bytesOf w.timer.toNat 4 ++ bytesOf w.tctl.toNat 4 ++
  bytesOf w.ctxcyc.toNat 8 ++ bytesOf w.retcnt.toNat 8 ++
  bytesOf w.tpc.toNat 8 ++ bytesOf w.tcause.toNat 4 ++
  bytesOf w.tdet0.toNat 4 ++ bytesOf w.tdet1.toNat 4 ++ bytesOf w.tdet2.toNat 4 ++
  bytesOf w.resume.addr 8 ++ bytesOf w.resume.header 8 ++
  bytesOf rlive.length 1 ++ bytesOf live.length 1 ++ List.replicate 6 0 ++
  w.rec19 ++ w.rguards ++
  bytesOf w.slotNo 8 ++ w.boardBytes ++ bytesOf w.lasthdr 8 ++
  bytesOf (w.place i.groups) 2 ++ bytesOf (nibbles live) 7 ++ bytesOf (nibbles rlive) 7 ++
  bytesOf w.handleOf 8 ++ List.replicate 16 0 ++
  (List.range 8).flatMap (fun j => bytesOf (((w.joins[j]?).map (fun r => r.id.toNat)).getD 0) 1) ++
  (List.range 8).flatMap w.joinBytes ++
  List.replicate 64 0

/-! ### Group records (21 R396) -/

/-- A binding in 32 bytes: offset, length, global address, scope (DESIGN CHOICE for the places, log 9). -/
def Binding.record (b : Binding) : List Byte :=
  bytesOf b.off 4 ++ bytesOf b.len 4 ++ bytesOf b.gaddr 8 ++ bytesOf b.sc.code 1 ++ List.replicate 15 0

/-- Bytes, filled up with zero bytes or cut to a length. -/
def fitBytes (bs : List Byte) (n : Nat) : List Byte := (bs ++ List.replicate (n - bs.length) 0).take n

/-- Pads bytes to 64. -/
def pad64 (bs : List Byte) : List Byte := bs ++ List.replicate (ceilDiv bs.length 64 * 64 - bs.length) 0

/-- The fill map of a binding, a bit per granule, and its dirty map, a bit per byte. -/
def Binding.maps (b : Binding) : List Byte :=
  let flags (n : Nat) (p : Nat → Bool) : List Byte := bytesOf (bitsOf ((List.range n).map p)) (ceilDiv n 8)
  pad64 (flags (ceilDiv b.len 256) (fun k => b.filled.contains k)) ++
  pad64 (flags b.len (fun k => b.dirty.contains (b.off + k)))

/-- The 1,024 bytes of the record of a group of which n waves are saved. -/
def Group.record (g : Group) (n : Nat) : List Byte :=
  let guardIx := match g.guardOff with
    | none => 255
    | some o => if o.1 = g.id then (g.bars.findIdx? (fun x => x == o.2)).getD 255 else 255
  bytesOf g.launch 8 ++ bytesOf g.g 4 ++ bytesOf g.size 4 ++
  bytesOf n 1 ++ bytesOf g.bars.length 1 ++ bytesOf g.binds.length 1 ++ bytesOf guardIx 1 ++
  List.replicate 4 0 ++
  (List.range 64).flatMap (fun k => bytesOf (g.bars.getD k 0) 4) ++
  (List.range 8).flatMap (fun k => ((g.binds[k]?).map Binding.record).getD (List.replicate 32 0)) ++
  List.replicate 488 0

/-- The maps after a group record; the shadow tags of a checked launch have an encoding of the
implementation's own, a free value. -/
def Group.maps (g : Group) (chkd : Bool) (seq : Nat) : List Byte :=
  g.binds.flatMap Binding.maps ++
  (if chkd then (List.range (4 * (g.size / 32))).map (fun k => Config.saveByte seq k) else [])

/-! ### The core section (21 R393) -/

/-- Byte `k` of a number. -/
def byteAt (v k : Nat) : Byte := BitVec.ofNat 8 (v / 2 ^ (8 * k))

/-- A plane's control bytes, the block size as the code of 18 R346; the compander copy stands at +0x80. -/
def Plane.control (p : Plane) (k : Nat) : Byte :=
  if 0x80 ≤ k ∧ k < 0xC0 then byteAt ((p.comp.map (fun c => c.toNat)).getD 0) (k - 0x80)
  else
    byteAt (packFields [(0, 16, p.kv), (16, 8, p.nv - 1), (24, 8, p.efmt), (32, 8, p.lblKind),
      (40, 1, b2n p.sparse), (41, 1, b2n p.empty), (48, 8, p.sfmt), (56, 8, b2n (p.bsz == 16))]) k

/-- A plane's operands: words in the layout of 06 R129, then labels, then scales and specials. -/
def Plane.operands (p : Plane) (k : Nat) : Byte :=
  if k < 0x4000 then byteAt (sget 0 p.words (k / 4)).toNat (k % 4)
  else if k < 0x5000 then byteAt (sget 0 p.labels ((k - 0x4000) / 4)).toNat (k % 4)
  else
    let x := k - 0x5000
    let n := 64 * p.blocks
    if x < n then sget 0 p.scales x else if x < 2 * n then sget 0 p.specials (x - n) else 0

/-- The S words that a saved command read at issue, and its TDT entry. -/
def ArrayOp.saved : ArrayOp → List Word × Nat
  | .ldstat plane ctl lbl scl tdt _ _ => ([plane, ctl, lbl, scl], tdt.toNat)
  | .mma addr ctl _ _ _ tdt _ _ _ => ([addr, ctl], tdt.toNat)
  | .mmar addr ctl _ _ => ([addr, ctl], 0)
  | .swap => ([], 0)
  | .rank .. => ([], 0)
  | .unrank .. => ([], 0)
  | .attld .. => ([], 0)
  | .relset .. => ([], 0)
  | .lblset _ => ([], 0)
  | .lsum _ => ([], 0)
  | .ltest .. => ([], 0)
  | .mld .. => ([], 0)

/-- The 128 bytes of a queue entry: the instruction word, the four S words, the wave-record index, the lane and the
chunks performed at 0, 4, 20, 21 and 22 (DESIGN CHOICE for these places, log 9), and the TDT entry at 64. `wids` are the
waves of the image in the order of their records. -/
def ArrayCmd.entry (c : ArrayCmd) (wids : List Nat) : List Byte :=
  let ws := c.op.saved.1
  bytesOf c.word.toNat 4 ++ (List.range 4).flatMap (fun k => bytesOf (ws.getD k 0).toNat 4) ++
  bytesOf ((wids.findIdx? (fun i => i == c.wid)).getD 255) 1 ++ bytesOf c.lane 1 ++ bytesOf c.chunks 2 ++
  List.replicate 40 0 ++ bytesOf c.op.saved.2 64

/-- Waves in increasing wave context. -/
def insertWave (w : Wave) : List Wave → List Wave
  | [] => [w]
  | x :: xs => if w.slot ≤ x.slot then w :: x :: xs else x :: insertWave w xs

/-- The waves of an image as records: in rotation order under det, else in wave-context order. -/
def State.imageWaves (s : State) (i : Image) : List Wave :=
  match i.waves.find? (fun w => w.det) with
  | some w =>
    (s.launchOf w.launch).rotation.filterMap (fun id => i.waves.find? (fun x => x.wid == id))
  | none => i.waves.foldr insertWave []

/-- A frame of a return stack in 16 bytes (10 R218). -/
def frameBytes (x : Pc × Byte) : List Byte := bytesOf x.1.toNat 8 ++ bytesOf x.2.toNat 8

/-- The stack cache: the frames of the saved fibres in the order of their records, newest first; the 32 KiB of the
cache hold the first 2,048, and the others are spilled (DESIGN CHOICE, log 9). -/
def State.stackCache (s : State) (i : Image) : List Byte :=
  ((s.imageWaves i).flatMap (fun w => w.lanes.flatMap (fun f => f.frames.flatMap frameBytes))).take 32768

/-- The key of a bin in 32 bytes: the handle of its launch, its entry, how many items it holds, whether it is due, and
the steps that it has counted. -/
def Bin.key (b : Bin) : List Byte :=
  bytesOf b.launch 8 ++ bytesOf b.entry 8 ++ bytesOf b.items.length 4 ++ bytesOf (b2n b.due) 4 ++ bytesOf b.steps 8

/-- An item in 36 bytes: its place in the order of arrival, and its eight values. -/
def Item.record (x : Item) : List Byte :=
  bytesOf x.order 4 ++ (List.range 8).flatMap (fun k => bytesOf (x.vals.getD k 0).toNat 4)

/-- The bin buffer: the keys of 16 bins, and then their items, bin by bin in the order of arrival (DESIGN CHOICE, log 9:
the spec gives the layout no places; what passes its 65,536 bytes, which 2,048 items do, is not written). -/
def Image.binBuffer (i : Image) : List Byte :=
  fitBytes (i.bins.flatMap Bin.key) 512 ++ i.bins.flatMap (fun b => b.items.flatMap Item.record)

/-- Bytes of the core section. -/
def coreSectionSize : Nat := 438432

/-- A byte of the core section before its queue. -/
def Matrix.byte (m : Matrix) (k : Nat) : Byte :=
  if k < 0x40000 then
    byteAt ((m.tile (k / 16384)).elem (k % 16384 / 256) (k % 256 / 4)).toNat (k % 4)
  else if k < 0x40080 then byteAt (m.tile ((k - 0x40000) / 8)).mask.toNat (k % 8)
  else if k < 0x40180 then m.active.control (k - 0x40080)
  else if k < 0x40280 then m.shadow.control (k - 0x40180)
  else if k < 0x47280 then m.active.operands (k - 0x40280)
  else if k < 0x4E280 then m.shadow.operands (k - 0x47280)
  else if k < 0x52280 then m.meta ((k - 0x4E280) / 1024) ((k - 0x4E280) % 1024)
  else if k < 0x52480 then byteAt (m.slot ((k - 0x52280) / 32)).toNat ((k - 0x52280) % 32)
  else if k < 0x52490 then byteAt m.binding.toNat (k - 0x52480)
  else if k < 0x524A0 then byteAt m.skipcnt.toNat (k - 0x52490)
  else byteAt (m.atten ((k - 0x524A0) / 512) ((k - 0x524A0) % 512 / 2)).toNat (k % 2)

/-- The core section (21 R393): the matrix state, the queue, the stack cache and the bin buffer. -/
def State.coreSection (s : State) (i : Image) : List Byte :=
  let wids := (s.imageWaves i).map (fun w => w.wid)
  (List.range 0x52CA0).map i.mat.byte ++
  fitBytes (i.arrayQ.flatMap (fun c => c.entry wids)) 1024 ++ fitBytes (s.stackCache i) 32768 ++
  fitBytes i.binBuffer 65536

/-! ### The header and the streams (21 R391, R392) -/

/-- The register stream: every wave's lanes, then the Vat footprints in group-record order. -/
def State.registerStream (s : State) (i : Image) : List Byte :=
  (s.imageWaves i).flatMap Wave.laneBytes ++ i.groups.flatMap (fun g => g.rdBytes 0 g.size)

/-- The records of the state stream after its core section. -/
def State.stateRecords (s : State) (i : Image) : List Byte :=
  (s.imageWaves i).flatMap (fun w => w.record i) ++
  i.groups.flatMap (fun g => g.record (i.waves.filter (fun w => w.group == some g.id)).length ++
    g.maps (s.launchOf g.launch).chkd i.seq)

/-- Bytes of the register stream, counted. -/
def Image.regSize (i : Image) : Nat :=
  (i.waves.map (fun w => 32 * w.g + ((w.lanes.filter (fun f => f.present)).map (fun f =>
    4 * f.alloc + (if 128 < f.alloc then 8 else 4))).sum)).sum + (i.groups.map (fun g => g.size)).sum

/-- Bytes of the state stream. -/
def State.stateSize (s : State) (i : Image) : Nat := 64 + coreSectionSize + (s.stateRecords i).length

/-- The 64 bytes of the image header. -/
def State.imageHeader (s : State) (i : Image) (ctx : Nat) : List Byte :=
  let det := i.waves.any (fun w => w.det)
  bytesOf (packFields [
    (448, 64, i.detcnt.toNat), (416, 32, i.regSize), (384, 32, s.stateSize i), (320, 64, i.seq),
    (312, 8, if det then i.rotptr else 0), (304, 8, i.p), (296, 8, i.waves.length), (288, 8, i.groups.length),
    (264, 8, i.cpos.getD 255), (256, 1, b2n det),
    (257, 1, b2n (decide (i.mat ≠ {}) || !i.arrayQ.isEmpty)), (232, 12, ctx), (32, 32, 1),
    (0, 32, 0x4D49535A)]) 64

/-- The state stream: header, core section, wave records, group records with their maps. -/
def State.stateStream (s : State) (i : Image) (ctx : Nat) : List Byte :=
  s.imageHeader i ctx ++ s.coreSection i ++ s.stateRecords i

/-- Bytes that the save area holds for one image: both streams fit (21 R391). -/
def imageRoom : Nat := 2 ^ 21

/-- Where an image stands in the save area of its context, and the register stream behind the state stream (DESIGN
CHOICE, log 9: 21 R390 gives the area and no place in it). -/
def State.imageAt (s : State) (i : Image) (ctx : Nat) : Nat := (s.ctxD ctx).save.toNat + imageRoom * i.slot

/-- The streamer writes an image to the save area that SSAVE names (21 R390, R391); while SSAVE holds 0 the steward has
reserved no area, and nothing is written (DESIGN CHOICE, log 9). -/
def State.streamOut (s : State) (i : Image) (ctx : Nat) : State :=
  if (s.ctxD ctx).save = 0 then s
  else
    let st := s.stateStream i ctx
    (s.wrRun (s.imageAt i ctx) st).wrRun (s.imageAt i ctx + st.length) (s.registerStream i)

end Sys2Proof.Machine
end

