-- ==== Sys2Proof/Machine/Preempt.lean ====
section
/-!
DEFINITION. Sys2Proof/Machine/Preempt.lean: pre-emption, the save image, restore and the retirement of cores
and lane quads (21 R388 to R400, 19 R364, R365, 06 R133).
-/

namespace Sys2Proof.Machine

open Sys2Proof

/-! ### The cores of a request (21 R389) -/

/-- The cores that the pre-emption of a core names so far. -/
def PreemptStage.cores : PreemptStage → List Nat
  | .none => []
  | .requested ns => ns

/-- PREEMPT_REQUEST: the cores stop issue at their next instruction boundary. Requests that meet on a core are
acknowledged together (DESIGN CHOICE, log 60). -/
def State.requestPreempt (s : State) (n : Nat) : State :=
  let ns := s.preemptCores n
  s.onCores (fun c =>
    if ns.contains c.num then { c with preempt := .requested (sortNats (c.preempt.cores ++ ns)) } else c)

/-- PREEMPT_REQUEST (21 R389). -/
def execPreemptRequest (core : Nat) (s : State) : Out := .next (s.requestPreempt core)

/-! ### Acknowledgement (21 R388, R389) -/

/-- An array command that is saved when it stands in the queue: a plane load, an exchange, or an MMA or MMAR at
a chunk boundary. Every other command completes first (06 R148, 07 R172, 08 R180). -/
def ArrayCmd.saves (c : ArrayCmd) : Bool :=
  match c.op with
  | .ldstat .. => true
  | .swap => true
  | .mma .. => true
  | .mmar .. => true
  | .rank .. => false
  | .unrank .. => false
  | .attld .. => false
  | .relset .. => false
  | .lblset _ => false
  | .lsum _ => false
  | .ltest .. => false
  | .mld .. => false

/-- A plain store to global memory: it goes on to its home past the stop (13 R293, 21 R388). -/
def MemOp.goesOn (o : MemOp) : Bool := decide (o.kind = .store) && decide (o.space = .global) && !o.gather

/-- Every unit of a core has stopped: issued instructions are complete, accesses performed but for stores on their
way, the collector's requests served, the tile port and the queue's other commands done. -/
def Core.stopped (c : Core) (ws : List Wave) : Bool :=
  ws.all (fun w => w.interlocks.isEmpty && w.outst.all MemOp.goesOn && w.dying.isNone && w.tlbiWait.isEmpty) &&
  c.tileQ.isEmpty && c.arrayQ.all ArrayCmd.saves

/-- The waves of user work on a core, those included that hold no context any longer. -/
def State.workOn (s : State) (n : Nat) : List Wave :=
  (s.wavesOn n).filter (fun w => !w.steward && !w.absent)

/-- The resident user waves of a core. -/
def State.usersOn (s : State) (n : Nat) : List Wave := (s.workOn n).filter (fun w => !w.over)

/-- The step of a deterministic launch on a core is not complete (09 R210, 21 R388). -/
def State.inStep (s : State) (n : Nat) : Bool :=
  match s.detOn n with
  | none => false
  | some x => x.stepOpen

/-- Every core of a request has stopped. -/
def State.allStopped (s : State) (ns : List Nat) : Bool :=
  ns.all (fun n =>
    match s.coreBy n with
    | none => true
    | some c => c.preempt != .none && c.stopped (s.workOn n) && !s.inStep n)

/-! ### Saving (21 R390 to R397) -/

/-- A wave as it is saved. The record has no place for what an early read may still see of a completed operation or of
a system register, and the reads after the restore are new (02 R33). -/
def Wave.toSave (w : Wave) : Wave :=
  { w with saved := true, sysBoard := [], board := w.board.filter (fun e => e.ctr.isNone) }

/-- The record at a deterministic launch's rotation pointer among the saved ones: the first from the pointer on,
wrapping to the first. -/
def Launch.savedPtr (x : Launch) (wids : List Nat) : Nat :=
  let k := ((x.rotation.take x.rotptr).filter (fun i => wids.contains i)).length
  if k < wids.length then k else 0

/-- The lowest place of a context's save area that holds no image. -/
def Context.freeSlot (c : Context) : Nat :=
  ((List.range (c.images.length + 1)).find? (fun i => c.images.all (fun y => y.slot != i))).getD 0

/-- The mark that the images of a core's cluster bear, so that they go back together: none when no group of a cluster
of the core's context runs there (21 R390). -/
def State.clusterSet (s : State) (n : Nat) : Option Nat :=
  let ctx := ((s.coreBy n).getD {}).matCtx
  if s.groups.any (fun g => g.core / 4 == n / 4 && g.cpos.isSome && !g.finished && g.ctx == ctx) then
    some (s.contexts.map (fun c => c.seq)).sum
  else none

/-- The image of a core, with the mark of its cluster. -/
def State.imageOf (s : State) (c : Core) (ctx : Context) (set : Option Nat) : Image :=
  let gs := s.groups.filter (fun g => g.core == c.num && !g.finished)
  let ws := (s.usersOn c.num).map Wave.toSave
  let x := (s.detOn c.num).getD {}
  { seq := ctx.seq, slot := ctx.freeSlot, core := c.num, p := c.p
    detcnt := x.count, rotptr := x.savedPtr (ws.map (fun w => w.wid))
    cpos := set.map (fun _ => c.num % 4), set := set
    mat := c.mat, arrayQ := c.arrayQ, blendQ := c.blendQ, kickQ := c.kickQ, reqQ := c.reqQ
    bins := c.bins.map (fun b => { b with posted := false }), waves := ws, groups := gs }

/-- A core gives its user work up: what it held stands in the image. -/
def State.emptyCore (s : State) (n : Nat) : State :=
  let ids := (s.workOn n).map (fun w => w.wid)
  let s1 := s.dropWaves (fun w => ids.contains w.wid && !w.absent && !w.steward)
  let d := s1.die (dieOf n)
  let s2 := s1.setDie (dieOf n) { d with steal := d.steal.filter (fun r => r.core != n) }
  { s2.onCores (fun k =>
      if k.num == n then
        { k with preempt := .none, window := 0, arrayQ := [], blendQ := [], kickQ := [], reqQ := [], bins := [] }
      else k) with
    groups := s2.groups.filter (fun g => !(g.core == n && !g.finished))
    launches := s2.launches.map (fun x => if x.det && x.core == some n then { x with core := none } else x) }

/-- Saves a core that runs user work: the image goes to the context's save area, the collector's window closes and the
core is free. -/
def State.saveCore (s : State) (n : Nat) (set : Option Nat) : State :=
  match s.coreBy n with
  | none => s
  | some c =>
    if (s.workOn n).isEmpty && !s.groups.any (fun g => g.core == n && !g.finished) then
      s.onCores (fun k => if k.num == n then { k with preempt := .none, window := 0 } else k)
    else
      let ctx := c.matCtx
      let img := s.imageOf c (s.ctxD ctx) set
      ((s.streamOut img ctx).onContext ctx (fun k =>
        { k with images := k.images ++ [img], seq := k.seq + 1 })).emptyCore n

/-! ### Restoring (21 R398) -/

/-- A wave as it comes back on a core: WCHG is set when P has changed. -/
def Wave.restored (w : Wave) (resliced : Bool) : Wave :=
  { w with saved := false, wchg := w.wchg || resliced }

/-- The objects on which the fibres of some waves are parked. -/
def State.parkedOn (s : State) (ws : List Wave) : List (Nat × Nat) :=
  ws.flatMap (fun w => w.lanes.filterMap (fun f =>
    match f.park with
    | .barrier field off _ _ _ => (s.targetOf w (fieldTarget field)).map (fun g => (g, off))
    | .none => none
    | .wait _ => none
    | .fault .. => none))

/-- A fibre whose wait-table entry is gone: a PWAIT returns as for a stale token, a faulting word issues again
(18 R331). -/
def Fibre.wakeGone (f : Fibre) (tok : Word) : Fibre :=
  match f.park with
  | .wait _ => f.wake tok false
  | .fault .. => f.wake tok true
  | .none => f
  | .barrier .. => f

/-- Changes the fibres of some waves. -/
def State.onFibres (s : State) (wids : List Nat) (f : Fibre → Fibre) : State :=
  s.onWaves (fun w => if wids.contains w.wid then w.mapLanes (fun _ x => f x) else w)

/-- The restored fibres that wait on a token test its entry again: one that was woken while they were saved wakes them
with its status (21 R398, R400). -/
def State.retestToken (s : State) (ctx : Nat) (ws : List Wave) (tok : Word) : State :=
  let wids := ws.map (fun w => w.wid)
  let n := (ws.map (fun w => w.waiters tok)).sum
  match s.tokenEntry ctx tok with
  | none => s.onFibres wids (fun f => f.wakeGone tok)
  | some x =>
    match x.2.state with
    | .pending => s
    | .succeeded => (s.onFibres wids (fun f => f.wake tok true)).giveToken ctx tok n
    | .failed => (s.onFibres wids (fun f => f.wake tok false)).giveToken ctx tok n

/-- The waves of an image as they come onto a core: in the lowest contexts, resident from now on. -/
def Image.onto (i : Image) (c : Core) (res : Nat) : List Wave :=
  (reslot 0 i.waves).map (fun w => { w.restored (c.p != i.p) with resident := res })

/-- Reinstates an image on a core that it fits: the core section replaces the array's state, groups get fresh
allocations, waves their grants; parked fibres test again. -/
def State.putImage (s : State) (ctx : Nat) (i : Image) (n : Nat) : State :=
  let s1 := s.onContext ctx (fun c => { c with images := c.images.filter (fun y => y.seq != i.seq) })
  let res := s1.nextRes
  let s2 := s1.atCore n (fun s => (s.claim ctx).onCore (fun c => { c.dropCopies with
    mat := i.mat, arrayQ := i.arrayQ, blendQ := i.blendQ, kickQ := i.kickQ, reqQ := i.reqQ
    bins := c.bins ++ i.bins
    waves := c.waves ++ i.onto c res }))
  let s3 : State := { s2 with
    nextRes := res + 1
    groups := s2.groups ++ i.groups.map (fun g => { g with core := n })
    launches := s2.launches.map (fun x =>
      if x.det && i.launchIds.contains x.id then { x with core := some n, count := if x.stopped then x.count else i.detcnt } else x) }
  let s4 := (s3.parkedOn i.waves).foldl (fun s x => s.retest x.1 x.2 false) s3
  let s5 := (sortNats (i.waves.flatMap Wave.tokens)).foldl (fun s t => s.retestToken ctx i.waves (w32 t)) s4
  -- a launch stopped on error ends its waves as they come back (09 R212)
  s5.withdraw (fun w => i.waves.any (fun y => y.wid == w.wid) && (s5.launchOf w.launch).stopped)

/-- RESTORE: a saved image goes back onto a core that can hold it, a cluster's images together, after the work of
higher classes (09 R198). -/
def State.restore (s : State) (ctx seq n : Nat) : State :=
  match (s.ctxD ctx).images.find? (fun i => i.seq == seq) with
  | none => s
  | some i =>
    if s.imageReady ctx i n && !s.yields (s.imageClass i) then
      (s.imagesWith ctx i n).foldl (fun s x => s.putImage ctx x.1 x.2) s
    else s

/-- RESTORE (21 R398). -/
def execRestore (ctx seq core : Nat) (s : State) : Out := .next (s.restore ctx seq core)

/-! ### Retirement (19 R364, R365) -/

/-- A core as the reserve leaves it when a core or a quad of it is retired: the first quad leaves P = 48; a
second quad, or the core itself, takes a core of the die's reserve, or disables the core. -/
def Core.retire (c : Core) (u : RetireUnit) (reserve : Bool) : Core :=
  let swap : Core := if reserve then { c with retired := none } else { c with enabled := false }
  match u with
  | .core _ => swap
  | .quad _ q =>
    match c.retired with
    | none => { c with retired := some q }
    | some old => if old == q then c else swap

/-- Whether a retirement takes a reserve core. -/
def Core.takesReserve (c : Core) (u : RetireUnit) : Bool :=
  match u with
  | .core _ => true
  | .quad _ q =>
    match c.retired with
    | none => false
    | some old => old != q

/-- Whether a retirement retires a lane quad. -/
def Core.takesQuad (c : Core) (u : RetireUnit) : Bool :=
  match u with
  | .core _ => false
  | .quad .. => c.retired.isNone

/-- The core of a unit. -/
def retireCore (u : RetireUnit) : Nat :=
  match u with
  | .core n => n
  | .quad n _ => n

/-- Brings in the reserve for a core without work (19 R364, R365). -/
def State.useReserve (s : State) (u : RetireUnit) : State :=
  let n := retireCore u
  match s.coreBy n with
  | none => s
  | some c =>
    let d := s.die (dieOf n)
    let res := decide (0 < d.spareCores)
    let takes := c.takesReserve u
    let s1 := s.onCores (fun k => if k.num == n then { k.retire u res with retiring := c.retiring.filter (fun x => x != u) } else k)
    s1.setDie (dieOf n) { d with
      spareCores := if takes then d.spareCores - 1 else d.spareCores
      replaced := if takes && res then d.replaced + 1 else d.replaced
      quadsRetired := if c.takesQuad u then d.quadsRetired + 1 else d.quadsRetired }

/-- A retirement at run time: the reserve comes in and the retirement is posted to the host event ring. -/
def State.bringIn (s : State) (u : RetireUnit) : State :=
  let n := retireCore u
  if (s.coreBy n).isNone then s
  else
    (s.useReserve u).postEvent 3 0 (dieOf n + 256 * n + 65536 * (match u with
      | .core _ => 1
      | .quad .. => 2))

/-- The saved images of a core go back: onto the core, or else onto the lowest core of the device that can hold
them. -/
def State.bringBack (s : State) (n : Nat) (is : List (Nat × Nat)) : State :=
  is.foldl (fun s x =>
    let s1 := s.restore x.1 x.2 n
    if s1.contexts.any (fun c => c.id == x.1 && c.images.any (fun i => i.seq == x.2)) then
      (List.range coreCount).foldl (fun s m =>
        if s.contexts.any (fun c => c.id == x.1 && c.images.any (fun i => i.seq == x.2)) then
          s.restore x.1 x.2 m
        else s) s1
    else s1) s

/-- The images that were saved from some cores, as context and sequence number. -/
def State.imagesFrom (s : State) (ns : List Nat) : List (Nat × Nat) :=
  s.contexts.flatMap (fun c => (c.images.filter (fun i => ns.contains i.core)).map (fun i => (c.id, i.seq)))

/-- Saves every core of a request that has stopped, and carries out the retirements that wait for it. -/
def State.acknowledge (s : State) (n : Nat) : State :=
  let ns := ((s.coreBy n).getD {}).preempt.cores
  if ns.isEmpty || !s.allStopped ns then s
  else
    let old := s.imagesFrom ns
    let s1 := ns.foldl (fun u m => u.saveCore m (s.clusterSet m)) s
    let new := (s1.imagesFrom ns).filter (fun x => !old.contains x)
    let due := ns.filterMap (fun m => (s1.coreBy m).map (fun c => c.retiring)) |>.flatten
    let s2 := due.foldl (fun s u => s.bringIn u) s1
    if due.isEmpty then s2 else s2.bringBack n new

/-- PREEMPT_ACK: the last unit has acknowledged; the image is written and the core is free (21 R389, R390). -/
def execPreemptAck (core : Nat) (s : State) : Out := .next (s.acknowledge core)

/-- CORE_RETIRE: the core is pre-empted, the reserve comes in and the groups go back; the last two steps follow
the acknowledgement (19 R365). -/
def execCoreRetire (u : RetireUnit) (s : State) : Out :=
  let n := retireCore u
  let s1 := (s.requestPreempt n).onCores (fun c => if c.num == n && !c.retiring.contains u then { c with retiring := c.retiring ++ [u] } else c)
  .next (s1.acknowledge n)

end Sys2Proof.Machine
end

