-- ==== Sys2Proof/Machine/System.lean ====
section
/-!
DEFINITION. Sys2Proof/Machine/System.lean: waiting, windows and system registers: majors 0x2F and 0x30
(10 R227 to R231, 03 R62 to R64, 04 R83 to R85, 20 R379, R387, 07 R172).
-/

namespace Sys2Proof.Machine

open Sys2Proof

/-! ### YIELD and WAITD (10 R227, R228) -/

/-- YIELD changes no state (10 R227). -/
def execYieldW (st : Stall) (s : State) : Out := s.gate {} (fun s1 => s1.retire st)

/-- WAITD holds the wave's next instruction until every named counter is zero, whatever its guards (10 R228). -/
def execWaitd (st : Stall) (m : BitVec 6) (s : State) : Out :=
  s.gate {} (fun s1 => (s1.onWave (fun w => { w with waitMask := w.waitMask ||| m })).retire st)

/-! ### WSET and WSLIDE (10 R229) -/

/-- Moves the window base of every active fibre, or raises the trap of the lowest that cannot. -/
def State.window (s : State) (st : Stall) (new : Fibre → Int) : Out :=
  s.gate {} (fun s1 =>
    let bad (l : Nat) : Bool :=
      let f := s1.wave.fib l
      decide (new f < 0) || decide ((f.alloc : Int) < new f + 4)
    match s1.wave.activeLanes.find? bad with
    | some l =>
      s1.trapHere
        { group := 12, code := 0x024, d0 := w32 (l % 256), d1 := i32 (new (s1.wave.fib l)) } l
    | none =>
      (s1.onWave (fun w => w.onActive (fun _ f => { f with base := (new f).toNat }))).retire st)

/-- WSET: b becomes 4 · imm6 (10 R229). -/
def execWset (st : Stall) (i : BitVec 6) (s : State) : Out :=
  s.window st (fun _ => 4 * (i.toNat : Int))

/-- WSLIDE: b moves by 4 · imm6, signed (10 R229). -/
def execWslide (st : Stall) (i : BitVec 6) (s : State) : Out :=
  s.window st (fun f => (f.base : Int) + 4 * i.toInt)

/-! ### What a system register reads as (03 R62, R64) -/

/-- WSTAT (03 R64). -/
def State.wstat (s : State) : Word :=
  let w := s.wave
  w32 (packFields [(0, 1, b2n w.wchg), (1, 1, b2n w.chk), (4, 1, b2n w.det), (5, 1, b2n w.chkd),
    (6, 2, s.core.passes w.g - 1)])

/-- The die of the issuing core. -/
def State.hereDie (s : State) : Die := s.die (dieOf s.core.num)

/-- The context that SCTX names as a fibre reads it: a write of SCTX that is in flight may be seen or not (02 R33). -/
def State.sctxFor (s : State) (l : Nat) : Nat := (lo32 (s.sysEarly .sctx 0 l (wide s.wave.sctx))).toNat

/-- The context that SCTX names for a fibre, as its registers read. -/
def State.sctxD (s : State) (l : Nat) : Context := s.ctxD (s.sctxFor l)

/-- The retired-instruction count of a deterministic launch (09 R210). -/
def State.detCount (s : State) : DWord := (s.launchOf s.wave.launch).count

/-- The value of a system register for a lane, with no cycle left to pass. -/
def State.sysValue (s : State) (r : SysReg) (l : Nat) : DWord :=
  let w := s.wave
  let f := w.fib l
  match r with
  | .fibid => wide f.fibid
  | .lane => BitVec.ofNat 64 l
  | .grant => BitVec.ofNat 64 w.g
  | .wstat => wide s.wstat
  | .lvlidx n => wide (f.lvl.getD n.toNat 0)
  | .corecyc => if w.det then s.detCount else s.core.cyc
  | .ctxcyc => if w.det then s.detCount else w.ctxcyc
  | .retcnt => w.retcnt
  | .timer => if w.det then wide (lo32 s.detCount) else wide w.timer
  | .tctl => wide w.tctl
  | .fpctl => wide w.fpctl
  | .fpstat => wide w.fpstat
  | .slim => BitVec.ofNat 64 f.slim
  | .tvec => w.tvec
  | .tpc => w.tpc
  | .tcause => wide w.tcause
  | .tdet0 => wide w.tdet0
  | .tdet1 => wide w.tdet1
  | .tdet2 => wide w.tdet2
  | .tdtbase => (s.ctxD w.ctx).tdtbase
  | .skipcnt => wide s.core.mat.skipcnt
  | .emptycnt => BitVec.ofNat 64 s.core.mat.emptyCnt
  | .sfqbase => s.hereDie.sfqbase
  | .sfqcap => wide s.hereDie.sfqcap
  | .sfqtail => wide s.hereDie.sfqtail
  | .sfqhead => wide s.hereDie.sfqhead
  | .sctx => wide w.sctx
  | .sptroot => (s.sctxD l).ptrootW
  | .stdtbase => (s.sctxD l).tdtbaseW
  | .stdtcnt => wide (s.sctxD l).tdtcntW
  | .ssave => (s.sctxD l).save
  | .sspill => (s.sctxD l).spill
  | .swmark => wide s.hereDie.swmark

/-- A register of the context that SCTX names. -/
def ctxReg (r : SysReg) : Bool :=
  [SysReg.sptroot, .stdtbase, .stdtcnt, .ssave, .sspill].contains r

/-- Which register of the name a word of a fibre means: the fibre's own SLIM, a register of a context, or the only
one. -/
def State.sysPlace (s : State) (r : SysReg) (l : Nat) : Nat :=
  if r = .slim then l else if ctxReg r then s.sctxFor l else 0

/-- A system register as an SRD reads it for a lane: a write of it fewer than four slots before may be seen or
not (02 R33); FPCTL and FPSTAT are never read early (04 R85). -/
def State.sysRead (s : State) (r : SysReg) (l : Nat) : DWord :=
  s.sysEarly r (s.sysPlace r l) l (s.sysValue r l)

/-- The registers that a named system register takes: one, or a pair (03 R63). -/
def sysSpan (r : SysReg) : Nat := if r.is64 then 2 else 1

/-- Writes Vd, or the pair, of every active lane. -/
def Wave.writeSys (w : Wave) (d : Nat) (r : SysReg) (val : Nat → DWord) : Wave :=
  if r.is64 then w.writeV64 latSys d val else w.writeV latSys d (fun l => lo32 (val l))

/-- Whether FSQRT or FDIV is in flight (04 R85). -/
def Wave.flagsPending (w : Wave) : Bool :=
  w.interlocks.any (fun i => i.writes.any (fun x => decide (x.1 = .v)))

/-- The words that only the steward's mode admits (03 R62, 20 R387). -/
def State.modeFor (s : State) (r : SysReg) (k : State → Out) : Out :=
  if r.isSteward then s.stewardOnly k else k s

/-- SRD (10 R230). An SRD of FPSTAT waits for the flags of every earlier word (04 R85). -/
def execSrd (st : Stall) (d : Reg) (r : SysReg) (s : State) : Out :=
  s.modeFor r (fun s0 =>
    s0.gate { wv := [(d.toNat, sysSpan r)] } (fun s1 =>
      if r = .fpstat ∧ s1.wave.flagsPending then s1.hold
      else
        let s2 := if r = .timer ∨ r = .tctl then s1.sample else s1
        (s2.onWave (fun w => w.writeSys d.toNat r (fun l => s2.sysRead r l))).retire st))

/-- The fixed-latency words whose results are still in flight (02 R31). -/
def Wave.unlanded (w : Wave) : Nat :=
  (sortNats ((w.board.filter (fun e => w.inFlight e)).map (fun e => e.slot))).length

/-- The value of a counter: CNT counts only what has retired at its own issue (10 R231). -/
def State.counterNow (s : State) (c : Counter) (all : Bool) : DWord :=
  match c with
  | .corecyc => s.sysValue .corecyc 0
  | .ctxcyc => s.sysValue .ctxcyc 0
  | .retcnt =>
    if all || s.wave.det then s.wave.retcnt
    else
      let n := s.wave.retcnt - BitVec.ofNat 64 (min (Config.inFlight s.fresh) s.wave.unlanded)
      if n.toNat < s.wave.retseen.toNat then s.wave.retseen else n

/-- A word has read RETCNT: no later one reads a smaller count. -/
def State.noteSeen (s : State) (c : Counter) (x : DWord) : State :=
  s.onWave (fun w => { w with retseen := if c = .retcnt then x else w.retseen })

/-- SRD of CORECYC, CTXCYC or RETCNT: held until every earlier instruction of the wave has completed
(10 R231). -/
def execSrdCounter (st : Stall) (d : Reg) (c : Counter) (s : State) : Out :=
  s.gate { wv := [(d.toNat, 2)] } (fun s1 =>
    if !s1.wave.quiet then s1.hold
    else
      let s2 := s1.sample
      let x := s2.counterNow c true
      ((s2.noteSeen c x).onWave (fun w => w.writeV64 latSys d.toNat (fun _ => x))).retire st)

/-- CNT samples a counter at its own issue (10 R231). -/
def execCnt (st : Stall) (d : Reg) (c : Counter) (s : State) : Out :=
  s.gate { wv := [(d.toNat, 2)] } (fun s1 =>
    let s2 := s1.sample
    let x := s2.counterNow c false
    ((s2.noteSeen c x).onWave (fun w => w.writeV64 latSys d.toNat (fun _ => x))).retire st)

/-! ### SWR (10 R230) -/

/-- A word that writes a wave-scope, core-scope, die-scope or context-scope register once, with the value
of the lowest active lane; with no active fibre nothing is written. `span` is 1 or 2 registers; a read of the
register that comes too early may still see the value before (02 R31, R33). -/
def State.swrOnce (s : State) (st : Stall) (d : Reg) (span : Nat) (r : SysReg) (ready : State → Bool)
    (write : State → DWord → State) : Out :=
  s.gate { rv := [(d.toNat, span)] } (fun s1 =>
    if !s1.wave.anyActive then s1.retire st
    else if !ready s1 then s1.hold
    else
      let l := s1.wave.lowest
      let v := if span = 2 then s1.readV64 l d.toNat else wide (s1.readV l d.toNat)
      let t := write s1 v
      (if r = .fpctl ∨ r = .fpstat then t else t.onWave (fun w => w.noteSys r (s1.sysPlace r l) (s1.sysValue r l))).retire st)

/-- Nothing holds the word. -/
def always (_ : State) : Bool := true

/-- Changes the issuing core's die. -/
def State.onDie (s : State) (f : Die → Die) : State :=
  s.setDie (dieOf s.core.num) (f s.hereDie)

/-- Changes the registers of the context that SCTX names; a context without a record gets one. -/
def State.onSctx (s : State) (f : Context → Context) : State :=
  let id := s.sctxFor s.wave.lowest
  if (s.context id).isSome then s.onContext id f
  else { s with contexts := s.contexts ++ [f { id := id, created := false }] }

/-- Records that waited for room in the steward's queue are posted (20 R387). -/
def State.drainPosts (s : State) : State :=
  s.postGo (dieOf s.core.num) (s.hereDie.posts.length + 1)

/-- What SWR of a register of the general row writes. -/
def State.sysWrite (s : State) (r : SysReg) (v : DWord) : State :=
  match r with
  | .wstat => s.onWave (fun w => { w with wchg := bit v.toNat 0, chk := bit v.toNat 1 })
  | .tpc => s.onWave (fun w => { w with tpc := v })
  | .sfqbase => s.onDie (fun d => { d with sfqbase := v })
  | .sfqcap => (s.onDie (fun d => { d with sfqcap := lo32 v })).drainPosts
  | .sctx => s.onWave (fun w => { w with sctx := lo32 v })
  | .sptroot => s.onSctx (fun c => { c with ptrootW := v })
  | .stdtbase => s.onSctx (fun c => { c with tdtbaseW := v })
  | .stdtcnt => s.onSctx (fun c => { c with tdtcntW := lo32 v })
  | .ssave => s.onSctx (fun c => { c with save := v })
  | .sspill => s.onSctx (fun c => { c with spill := v })
  | .swmark => s.onDie (fun d => { d with swmark := lo32 v })
  | .fibid => s | .lane => s | .grant => s | .lvlidx _ => s | .corecyc => s | .ctxcyc => s
  | .retcnt => s | .timer => s | .tctl => s | .fpctl => s | .fpstat => s | .slim => s | .tvec => s
  | .tcause => s | .tdet0 => s | .tdet1 => s | .tdet2 => s | .tdtbase => s | .skipcnt => s
  | .emptycnt => s | .sfqtail => s | .sfqhead => s

/-- SWR of WSTAT, TPC and the steward's registers (10 R230, 03 R64, 20 R387). -/
def execSwr (st : Stall) (d : Reg) (r : SysReg) (s : State) : Out :=
  s.modeFor r (fun s0 => s0.swrOnce st d (sysSpan r) r always (fun s1 v => s1.sysWrite r v))

/-- SWR SKIPCNT takes its place in the array's command order (07 R172). -/
def execSwrSkipcnt (st : Stall) (d : Reg) (s : State) : Out :=
  s.swrOnce st d 1 .skipcnt (fun s1 => s1.core.arrayQ.isEmpty) (fun s1 v =>
    s1.onCore (fun c => { c with mat := { c.mat with skipcnt := lo32 v } }))

/-- SWR TIMER counts from the next resident cycle; no effect under det (20 R379, 09 R210). -/
def execSwrTimer (st : Stall) (d : Reg) (s : State) : Out :=
  s.swrOnce st d 1 .timer always (fun s1 v =>
    if s1.wave.det then s1 else s1.sample.onWave (fun w => { w with timer := lo32 v }))

/-- SWR TCTL starts, keeps or stops the count and sets TIE and TZ; no effect under det (20 R379). -/
def execSwrTctl (st : Stall) (d : Reg) (s : State) : Out :=
  s.swrOnce st d 1 .tctl always (fun s1 v =>
    if s1.wave.det then s1 else s1.sample.onWave (fun w => { w with tctl := lo32 v &&& 7 }))

/-- SWR FPCTL: every later instruction uses the value (04 R85). -/
def execSwrFpctl (st : Stall) (d : Reg) (s : State) : Out :=
  s.swrOnce st d 1 .fpctl always (fun s1 v => s1.onWave (fun w => { w with fpctl := lo32 v &&& 0x303 }))

/-- SWR FPSTAT waits for the flags of every earlier word (04 R85). -/
def execSwrFpstat (st : Stall) (d : Reg) (s : State) : Out :=
  s.swrOnce st d 1 .fpstat (fun s1 => !s1.wave.flagsPending) (fun s1 v =>
    s1.onWave (fun w => { w with fpstat := lo32 v &&& 0x7F }))

/-- SWR SFQHEAD: the steward has consumed records, and waiting ones are posted (20 R387). -/
def execSfqheadWrite (st : Stall) (d : Reg) (s : State) : Out :=
  s.stewardOnly (fun s0 =>
    s0.swrOnce st d 1 .sfqhead always (fun s1 v =>
      (s1.onDie (fun x => { x with sfqhead := lo32 v })).drainPosts))

/-- SWR SLIM, fibre by fibre: a multiple of 16 up to 65,536, or cause group 13 (10 R219). -/
def execSwrSlim (st : Stall) (d : Reg) (s : State) : Out :=
  s.gate { rv := [(d.toNat, 2)] } (fun s1 =>
    let val (l : Nat) : Nat := (s1.readV64 l d.toNat).toNat
    match s1.wave.activeLanes.find? (fun l => val l % 16 != 0 || decide (65536 < val l)) with
    | some l =>
      let f := s1.wave.fib l
      s1.trapHere
        { group := 13, code := 0x003, d0 := w32 (l % 256), d1 := w32 (16 * f.frames.length),
          d2 := w32 f.slim } l
    | none =>
      (s1.onWave (fun w =>
        w.activeLanes.foldl (fun w l => w.noteSys .slim l (BitVec.ofNat 64 (s1.wave.fib l).slim))
          (w.onActive (fun l f => { f with slim := val l })))).retire st)

end Sys2Proof.Machine
end

