-- ==== Sys2Proof/Machine/Traps.lean ====
section
/-!
DEFINITION. Sys2Proof/Machine/Traps.lean: TRAP, TRET and BRK (20 R377, R378), and the words that only the
steward's mode admits: TLBI and WTWAKE (20 R386, 18 R333, R334).
-/

namespace Sys2Proof.Machine

open Sys2Proof

/-! ### TRAP and BRK (20 R377) -/

/-- A software trap at a clause's last word: TPC is the word after the clause, which begins afresh on
return (20 R375, R378); the record of one that no handler receives holds the address of the instruction (20 R382).
With no active fibre the word only closes its clause. -/
def State.softTrap (s : State) (st : Stall) (u : Uses) (info : State → TrapInfo) : Out :=
  s.gate u (fun s1 =>
    if !s1.wave.anyActive then s1.transfer st (fun _ => none)
    else
      let l := s1.wave.lowest
      let s2 : State := { s1 with
        wave := { s1.wave.tick st with cur := none }
        fresh := s1.fresh + freshStride }
      .next
        (if s1.wave.handler ∨ s1.wave.tvec = 0 then
          s2.unhandled (info s1) (s1.wave.fib l).fibid s1.wave.pc s1.wave.handler
        else s2.takeTrap (info s1) l s1.wave.afterClause))

/-- TRAP (20 R377, R374 group 15). -/
def execTrap (st : Stall) (d : Reg) (c : BitVec 11) (s : State) : Out :=
  s.softTrap st { rv := [(d.toNat, 1)] } (fun s1 =>
    { group := 15, code := c.toNat, d0 := s1.readV s1.wave.lowest d.toNat,
      d1 := w32 (s1.wave.lowest % 256) })

/-- BRK (20 R377, R374 group 16). -/
def execBrk (st : Stall) (s : State) : Out :=
  s.softTrap st {} (fun s1 => { group := 16, d1 := w32 (s1.wave.lowest % 256) })

/-! ### TRET (20 R378) -/

/-- Whether TPC still names the point that the trap recorded, inside a clause. -/
def Wave.resumesInside (w : Wave) (tpc : Nat) : Option ClauseBuf :=
  if tpc = w.resume.addr then w.resume.clause else none

/-- The header that TRET checks: the recorded clause's, or TPC itself. -/
def Wave.tretTarget (w : Wave) (tpc : Nat) : Nat :=
  match w.resumesInside tpc with
  | some c => c.addr
  | none => tpc

/-- TPC as TRET reads it. -/
def State.tpcNow (s : State) : Nat := (s.sysEarly .tpc 0 s.wave.lowest s.wave.tpc).toNat

/-- A fibre of the handler's set resumes at an address; inside the recorded clause it takes its WHEN
spans and guards again. -/
def Fibre.resume (f : Fibre) (t : Nat) (inside : Option ClauseBuf) : Fibre :=
  { f with
    pc := t, run := .running, park := .none, clause := inside, prev := none, inSet := false
    spans := if inside.isSome then f.rspans else []
    rspans := [], inHandler := false }

/-- The handler's set resumes and handler mode ends: the held sets are released. -/
def Wave.returnFrom (w : Wave) (tpc : Nat) : Wave :=
  let inside := w.resumesInside tpc
  { (w.closeClause).mapLanes (fun _ f =>
      if f.inHandler && f.alive then f.resume tpc inside
      else { f with inHandler := false }) with
    handler := false
    resume := {} }

/-- TRET (20 R378). -/
def execTret (st : Stall) (s : State) : Out :=
  s.gate {} (fun s1 =>
    if !s1.wave.anyActive then s1.transfer st (fun _ => none)
    else
      let w := s1.wave
      if !w.handler then s1.trapHere (flowTrap 0x006 w.lowest s1.tpcNow 0) w.lowest
      else
        match s1.targetCheck w.lowest (w.tretTarget s1.tpcNow) with
        | some f => s1.raise w.lowest f
        | none =>
          .next
            { s1 with
              wave := { (w.tick st).returnFrom s1.tpcNow with retcnt := w.retcnt + 1 }
              fresh := s1.fresh + freshStride })

/-! ### TLBI (20 R386) -/

/-- The cores that a TLBI's scope names. -/
def tlbiCores (sc : Scope) (core : Nat) : List Nat :=
  match sc with
  | .cluster => (List.range 4).map (fun i => clusterOf core * 4 + i)
  | .die => (List.range 48).map (fun i => dieOf core * 48 + i)
  | .device => List.range coreCount
  | .fibre => [] | .wave => [] | .group => [] | .domain => [] | .system => []

/-- A TLBI reaches the cores of its scope; the issuing wave waits for all of them. -/
def State.tlbi (s : State) (st : Stall) (sc : Scope) (u : Uses) (what : State → TlbiKind × Nat) : Out :=
  s.stewardOnly (fun s0 =>
    s0.gate u (fun s1 =>
      if !s1.wave.anyActive then s1.retire st
      else
        let cores := tlbiCores sc s1.core.num
        let x := what s1
        let t : Tlbi := { wid := s1.wave.wid, kind := x.1, ctx := x.2 }
        ((s1.onCores (fun c =>
            if cores.contains c.num then { c with tlbiPend := c.tlbiPend ++ [t] } else c)).onWave
          (fun w => { w with tlbiWait := cores })).issue st))

/-- TLBI.page drops what translates the 64 KiB page of an address (20 R386). -/
def execTlbiPage (st : Stall) (sc : Scope) (a2 : BitVec 5) (b : Reg) (s : State) : Out :=
  let a := 2 * a2.toNat
  s.tlbi st sc { rs := [a, a + 1, b.toNat] } (fun s1 =>
    (.page ((s1.readS64 a).toNat % 2 ^ 56), (s1.readS b.toNat).toNat % 4096))

/-- TLBI.ctx drops every entry of a context except G entries (20 R386). -/
def execTlbiCtx (st : Stall) (sc : Scope) (b : Reg) (s : State) : Out :=
  s.tlbi st sc { rs := [b.toNat] } (fun s1 => (.ctx, (s1.readS b.toNat).toNat % 4096))

/-- TLBI.all drops every entry (20 R386). -/
def execTlbiAll (st : Stall) (sc : Scope) (s : State) : Out :=
  s.tlbi st sc {} (fun _ => (.all, 0))

/-- Whether an access that a core has not performed was translated under an entry that the TLBI drops
(18 R334): the outstanding accesses of its waves and the metadata loads of its array. -/
def Tlbi.blockedBy (t : Tlbi) (c : Core) (ws : List Wave) : Bool :=
  ws.any (fun w => w.outst.any (fun o =>
    (match o.space with
      | .global => o.reqs.any (fun q => t.coversPage w.ctx q.virt)
      | .vat _ => match o.kind with
        | .vsync .. => o.reqs.any (fun q => t.coversPage w.ctx q.virt)
        | _ => false))) ||
  c.arrayQ.any (fun a =>
    match a.op with
    | .mld _ space _ _ => decide (space = .global)
    | _ => false)

/-- Registers of a context that a TLBI.ctx makes effective (20 R387). -/
def Context.adopt (c : Context) : Context :=
  { c with ptroot := c.ptrootW, tdtbase := c.tdtbaseW, tdtcnt := c.tdtcntW }

/-- A core drops what a TLBI names, and the TLBI is acknowledged. -/
def Core.dropFor (c : Core) (t : Tlbi) : Core :=
  { c.forget t with tlbiPend := c.tlbiPend.filter (fun x => x != t) }

/-- A core acknowledges a TLBI; at the last acknowledgement the issuing wave goes on and the TLBI retires
(18 R334, R335, 20 R386). -/
def State.ackTlbi (s : State) (n : Nat) (t : Tlbi) : State :=
  let cl (x : Nat × Cluster) : Nat × Cluster :=
    if x.1 == clusterOf n then (x.1, { x.2 with tlb := x.2.tlb.filter (fun e => !t.drops e) }) else x
  let s1 : State := s.onCores (fun x => if x.num == n then x.dropFor t else x)
  let s2 : State := { s1 with clusters := s1.clusters.map cl }
  let s3 : State := match t.kind with
    | .ctx => s2.onContext t.ctx Context.adopt
    | .page _ => s2
    | .all => s2
  let last := s3.allWaves.any (fun w => w.wid == t.wid && w.tlbiWait == [n])
  let s4 := s3.onWaves (fun w =>
    if w.wid == t.wid then
      { w with
        tlbiWait := w.tlbiWait.filter (fun i => i != n)
        retcnt := w.retcnt + (if last then 1 else 0)
        stalled := false }
    else w)
  if last then s4.freeCellar else s4

/-- The waves saved from a core: its accesses that they left in flight are still its own (21 R400). -/
def State.savedFrom (s : State) (n : Nat) : List Wave :=
  s.contexts.flatMap (fun c => (c.images.filter (fun i => i.core == n)).flatMap (fun i => i.waves))

/-- A core with the waves that it runs acknowledges a pending TLBI, once its accesses translated under a
dropped entry have been performed, those of the waves saved from it among them (18 R334, 21 R400). -/
def State.ackFrom (s : State) (c : Core) (ws : List Wave) : State :=
  match c.tlbiPend.find? (fun t => !t.blockedBy c (ws ++ s.savedFrom c.num)) with
  | none => s
  | some t => s.ackTlbi c.num t

/-- TLBI_ACK (18 R334). -/
def execTlbiAck (core : Nat) (s : State) : Out :=
  if s.core.num = core then .next (s.ackFrom s.core (s.wave :: s.core.waves))
  else
    match s.cores.find? (fun c => c.num == core) with
    | some c => .next (s.ackFrom c c.waves)
    | none => .next s

/-! ### WTWAKE (18 R333) -/

/-- The live entry of a token, of whatever context. -/
def State.anyToken (s : State) (tok : Word) : Option (Nat × WtEntry) :=
  let d := bits tok.toNat 15 14
  if bits tok.toNat 13 10 ≠ 0 then none
  else
    ((s.die d).waits.find? (fun e =>
      e.idx == bits tok.toNat 9 0 && e.gen == bits tok.toNat 31 16)).map (fun e => (d, e))

/-- WTWAKE sets an entry's state and wakes its parked fibres; a stale token has no effect (18 R333). -/
def execWtwake (st : Stall) (a b : Reg) (s : State) : Out :=
  s.stewardOnly (fun s0 =>
    s0.gate { rs := [a.toNat, b.toNat] } (fun s1 =>
      if !s1.wave.anyActive then s1.retire st
      else
        match s1.anyToken (s1.readS a.toNat) with
        | none => s1.retire st
        | some x => (s1.wakeEntry x.1 x.2 (decide (s1.readS b.toNat = 0))).retire st))

end Sys2Proof.Machine
end

