-- ==== Sys2Proof/Machine/DetStep.lean ====
section
/-!
DEFINITION. Sys2Proof/Machine/DetStep.lean: the steps of a deterministic launch (09 R208 to R211). One step
issues one instruction of the wave at the rotation pointer and completes it whole.
-/

namespace Sys2Proof.Machine

open Sys2Proof

/-! ### Issuing one word -/

/-- What an instruction word does when a step issues it: the meaning that the dispatcher gives it. An event
is no word. -/
def issueWord (i : Instr) (s : State) : Out :=
  match i with
  | .add st f d a b => Sys2Proof.Machine.execAdd st f d a b s
  | .sub st f d a b => Sys2Proof.Machine.execSub st f d a b s
  | .mul st f d a b => Sys2Proof.Machine.execMul st f d a b s
  | .mulhI32 st f d a b => Sys2Proof.Machine.execMulhI32 st f d a b s
  | .mulhN32 st f d a b => Sys2Proof.Machine.execMulhN32 st f d a b s
  | .divI32 st f d a b => Sys2Proof.Machine.execDivI32 st f d a b s
  | .divN32 st f d a b => Sys2Proof.Machine.execDivN32 st f d a b s
  | .remI32 st f d a b => Sys2Proof.Machine.execRemI32 st f d a b s
  | .remN32 st f d a b => Sys2Proof.Machine.execRemN32 st f d a b s
  | .andI st f d a b => Sys2Proof.Machine.execAndI st f d a b s
  | .orI st f d a b => Sys2Proof.Machine.execOrI st f d a b s
  | .xorI st f d a b => Sys2Proof.Machine.execXorI st f d a b s
  | .andn st f d a b => Sys2Proof.Machine.execAndn st f d a b s
  | .shl st f d a b => Sys2Proof.Machine.execShl st f d a b s
  | .shr st f d a b => Sys2Proof.Machine.execShr st f d a b s
  | .sar st f d a b => Sys2Proof.Machine.execSar st f d a b s
  | .rol st f d a b => Sys2Proof.Machine.execRol st f d a b s
  | .minI32 st f d a b => Sys2Proof.Machine.execMinI32 st f d a b s
  | .minN32 st f d a b => Sys2Proof.Machine.execMinN32 st f d a b s
  | .maxI32 st f d a b => Sys2Proof.Machine.execMaxI32 st f d a b s
  | .maxN32 st f d a b => Sys2Proof.Machine.execMaxN32 st f d a b s
  | .clz st f d a => Sys2Proof.Machine.execClz st f d a s
  | .popc st f d a => Sys2Proof.Machine.execPopc st f d a s
  | .brev st f d a => Sys2Proof.Machine.execBrev st f d a s
  | .addsatI32 st f d a b => Sys2Proof.Machine.execAddsatI32 st f d a b s
  | .subsatI32 st f d a b => Sys2Proof.Machine.execSubsatI32 st f d a b s
  | .imad st d a b c => Sys2Proof.Machine.execImad st d a b c s
  | .icmp st f c p a b => Sys2Proof.Machine.execIcmp st f c p a b s
  | .movl st d imm => Sys2Proof.Machine.execMovl st d imm s
  | .movh st d imm => Sys2Proof.Machine.execMovh st d imm s
  | .addi st d imm => Sys2Proof.Machine.execAddi st d imm s
  | .movlS st d imm => Sys2Proof.Machine.execMovlS st d imm s
  | .fadd st f d a b => Sys2Proof.Machine.execFadd st f d a b s
  | .fsub st f d a b => Sys2Proof.Machine.execFsub st f d a b s
  | .fmul st f d a b => Sys2Proof.Machine.execFmul st f d a b s
  | .fmin st f d a b => Sys2Proof.Machine.execFmin st f d a b s
  | .fmax st f d a b => Sys2Proof.Machine.execFmax st f d a b s
  | .fabs st f d a => Sys2Proof.Machine.execFabs st f d a s
  | .fneg st f d a => Sys2Proof.Machine.execFneg st f d a s
  | .fsat st f d a => Sys2Proof.Machine.execFsat st f d a s
  | .fma st d a b c => Sys2Proof.Machine.execFma st d a b c s
  | .fms st d a b c => Sys2Proof.Machine.execFms st d a b c s
  | .fnma st d a b c => Sys2Proof.Machine.execFnma st d a b c s
  | .fnms st d a b c => Sys2Proof.Machine.execFnms st d a b c s
  | .fcmp st f c p a b => Sys2Proof.Machine.execFcmp st f c p a b s
  | .frcp st d a => Sys2Proof.Machine.execFrcp st d a s
  | .frsq st d a => Sys2Proof.Machine.execFrsq st d a s
  | .fsqrt st d a => Sys2Proof.Machine.execFsqrt st d a s
  | .fdiv st d a b => Sys2Proof.Machine.execFdiv st d a b s
  | .fexp2 st d a => Sys2Proof.Machine.execFexp2 st d a s
  | .flog2 st d a => Sys2Proof.Machine.execFlog2 st d a s
  | .frndRn st d a => Sys2Proof.Machine.execFrndRn st d a s
  | .frndRz st d a => Sys2Proof.Machine.execFrndRz st d a s
  | .frndRu st d a => Sys2Proof.Machine.execFrndRu st d a s
  | .frndRd st d a => Sys2Proof.Machine.execFrndRd st d a s
  | .padd st t d a b => Sys2Proof.Machine.execPadd st t d a b s
  | .psub st t d a b => Sys2Proof.Machine.execPsub st t d a b s
  | .pmul st t d a b => Sys2Proof.Machine.execPmul st t d a b s
  | .pmin st t d a b => Sys2Proof.Machine.execPmin st t d a b s
  | .pmax st t d a b => Sys2Proof.Machine.execPmax st t d a b s
  | .pfma st t d a b => Sys2Proof.Machine.execPfma st t d a b s
  | .dadd st d a b => Sys2Proof.Machine.execDadd st d a b s
  | .dsub st d a b => Sys2Proof.Machine.execDsub st d a b s
  | .dmul st d a b => Sys2Proof.Machine.execDmul st d a b s
  | .dmin st d a b => Sys2Proof.Machine.execDmin st d a b s
  | .dmax st d a b => Sys2Proof.Machine.execDmax st d a b s
  | .dabs st d a => Sys2Proof.Machine.execDabs st d a s
  | .dneg st d a => Sys2Proof.Machine.execDneg st d a s
  | .dcmp st c p a b => Sys2Proof.Machine.execDcmp st c p a b s
  | .dfma st d a b c => Sys2Proof.Machine.execDfma st d a b c s
  | .cvt st dst rnd src d a => Sys2Proof.Machine.execCvt st dst rnd src d a s
  | .qnt st d a b => Sys2Proof.Machine.execQnt st d a b s
  | .dqn st d a b => Sys2Proof.Machine.execDqn st d a b s
  | .add64 st d a b => Sys2Proof.Machine.execAdd64 st d a b s
  | .sub64 st d a b => Sys2Proof.Machine.execSub64 st d a b s
  | .cmp64 st c p a b => Sys2Proof.Machine.execCmp64 st c p a b s
  | .lea st h d a b => Sys2Proof.Machine.execLea st h d a b s
  | .shflIdx st d a b => Sys2Proof.Machine.execShflIdx st d a b s
  | .shflUp st d a b => Sys2Proof.Machine.execShflUp st d a b s
  | .shflDown st d a b => Sys2Proof.Machine.execShflDown st d a b s
  | .shflXor st d a b => Sys2Proof.Machine.execShflXor st d a b s
  | .perm st d a b => Sys2Proof.Machine.execPerm st d a b s
  | .voteAny st p q => Sys2Proof.Machine.execVoteAny st p q s
  | .voteAll st p q => Sys2Proof.Machine.execVoteAll st p q s
  | .voteBallot st d q b => Sys2Proof.Machine.execVoteBallot st d q b s
  | .bcast st d a b => Sys2Proof.Machine.execBcast st d a b s
  | .matchL st d a => Sys2Proof.Machine.execMatchL st d a s
  | .xred st o d a => Sys2Proof.Machine.execXred st o d a s
  | .xscanInc st o d a => Sys2Proof.Machine.execXscanInc st o d a s
  | .xscanExc st o d a => Sys2Proof.Machine.execXscanExc st o d a s
  | .xseg st o d a p => Sys2Proof.Machine.execXseg st o d a p s
  | .pand st d a b => Sys2Proof.Machine.execPand st d a b s
  | .por st d a b => Sys2Proof.Machine.execPor st d a b s
  | .pxor st d a b => Sys2Proof.Machine.execPxor st d a b s
  | .pandn st d a b => Sys2Proof.Machine.execPandn st d a b s
  | .pnot st d a => Sys2Proof.Machine.execPnot st d a s
  | .pmov st d a => Sys2Proof.Machine.execPmov st d a s
  | .whenP st p sense k => Sys2Proof.Machine.execWhenP st p sense k s
  | .sel st p d a b => Sys2Proof.Machine.execSel st p d a b s
  | .width st d a => Sys2Proof.Machine.execWidth st d a s
  | .vxld st d a => Sys2Proof.Machine.execVxld st d a s
  | .vxst st d a => Sys2Proof.Machine.execVxst st d a s
  | .ld st t sc d c x k => Sys2Proof.Machine.execLd st t sc d c x k s
  | .ldnr st t sc d c x k => Sys2Proof.Machine.execLdnr st t sc d c x k s
  | .store st t sc d c x k => Sys2Proof.Machine.execStore st t sc d c x k s
  | .vldN32 st d v x k => Sys2Proof.Machine.execVldN32 st d v x k s
  | .vldN64 st d v x k => Sys2Proof.Machine.execVldN64 st d v x k s
  | .vldCap st d v x k => Sys2Proof.Machine.execVldCap st d v x k s
  | .vstN32 st d v x k => Sys2Proof.Machine.execVstN32 st d v x k s
  | .vstN64 st d v x k => Sys2Proof.Machine.execVstN64 st d v x k s
  | .vstCap st d v x k => Sys2Proof.Machine.execVstCap st d v x k s
  | .vldsN32 st d v pair k => Sys2Proof.Machine.execVldsN32 st d v pair k s
  | .vstN8 st d v x k => Sys2Proof.Machine.execVstN8 st d v x k s
  | .atom st t o sc d4 c pair k => Sys2Proof.Machine.execAtom st t o sc d4 c pair k s
  | .ared st t o sc d4 c pair k => Sys2Proof.Machine.execAred st t o sc d4 c pair k s
  | .fence st sc => Sys2Proof.Machine.execFence st sc s
  | .ldaN32 st sc d c x k => Sys2Proof.Machine.execLdaN32 st sc d c x k s
  | .ldaN64 st sc d c x k => Sys2Proof.Machine.execLdaN64 st sc d c x k s
  | .stlN32 st sc d c x k => Sys2Proof.Machine.execStlN32 st sc d c x k s
  | .stlN64 st sc d c x k => Sys2Proof.Machine.execStlN64 st sc d c x k s
  | .ifence st sc => Sys2Proof.Machine.execIfence st sc s
  | .dfence st sc => Sys2Proof.Machine.execDfence st sc s
  | .gathN32 st sc d q x k => Sys2Proof.Machine.execGathN32 st sc d q x k s
  | .gathN64 st sc d q x k => Sys2Proof.Machine.execGathN64 st sc d q x k s
  | .scatN32 st sc d q x k => Sys2Proof.Machine.execScatN32 st sc d q x k s
  | .scatN64 st sc d q x k => Sys2Proof.Machine.execScatN64 st sc d q x k s
  | .cnarrow st d4 a4 b4 => Sys2Proof.Machine.execCnarrow st d4 a4 b4 s
  | .cperm st d4 a4 b => Sys2Proof.Machine.execCperm st d4 a4 b s
  | .cgetBase st d a4 => Sys2Proof.Machine.execCgetBase st d a4 s
  | .cgetLen st d a4 => Sys2Proof.Machine.execCgetLen st d a4 s
  | .cgetPerm st d a4 => Sys2Proof.Machine.execCgetPerm st d a4 s
  | .cgetTid st d a4 => Sys2Proof.Machine.execCgetTid st d a4 s
  | .cgetTag st d a4 => Sys2Proof.Machine.execCgetTag st d a4 s
  | .cmov st d4 a4 srcV dstS => Sys2Proof.Machine.execCmov st d4 a4 srcV dstS s
  | .vmap st sc d c pair k => Sys2Proof.Machine.execVmap st sc d c pair k s
  | .vsync st sc d k => Sys2Proof.Machine.execVsync st sc d k s
  | .vunmap st sc d k => Sys2Proof.Machine.execVunmap st sc d k s
  | .preq st d c x k => Sys2Proof.Machine.execPreq st d c x k s
  | .pwait st d => Sys2Proof.Machine.execPwait st d s
  | .pcancel st d k => Sys2Proof.Machine.execPcancel st d k s
  | .promo st d c x k => Sys2Proof.Machine.execPromo st d c x k s
  | .mld st j c pair k => Sys2Proof.Machine.execMld st j c pair k s
  | .cflush st c x k => Sys2Proof.Machine.execCflush st c x k s
  | .kvalloc st sc d c x k => Sys2Proof.Machine.execKvalloc st sc d c x k s
  | .kvset st sc d c x k => Sys2Proof.Machine.execKvset st sc d c x k s
  | .binit st sc d v x k => Sys2Proof.Machine.execBinit st sc d v x k s
  | .barr st sc d v x k => Sys2Proof.Machine.execBarr st sc d v x k s
  | .bexp st sc d v x k => Sys2Proof.Machine.execBexp st sc d v x k s
  | .bwait st sc d v x => Sys2Proof.Machine.execBwait st sc d v x s
  | .btest st sc d v x k => Sys2Proof.Machine.execBtest st sc d v x k s
  | .kick st a v e => Sys2Proof.Machine.execKick st a v e s
  | .ofence st => Sys2Proof.Machine.execOfence st s
  | .blendStat st a4 e => Sys2Proof.Machine.execBlendStat st a4 e s
  | .blendAcc st a4 e => Sys2Proof.Machine.execBlendAcc st a4 e s
  | .rank st a4 b v e => Sys2Proof.Machine.execRank st a4 b v e s
  | .unrank st a v e => Sys2Proof.Machine.execUnrank st a v e s
  | .attld st a t e => Sys2Proof.Machine.execAttld st a t e s
  | .ldstat st a4 e => Sys2Proof.Machine.execLdstat st a4 e s
  | .ldstatSp st a4 j e => Sys2Proof.Machine.execLdstatSp st a4 j e s
  | .swap st => Sys2Proof.Machine.execSwap st s
  | .mma st a2 t v e => Sys2Proof.Machine.execMma st a2 t v e s
  | .mmar st a2 t e => Sys2Proof.Machine.execMmar st a2 t e s
  | .tclr st t => Sys2Proof.Machine.execTclr st t s
  | .tclrFill st a t => Sys2Proof.Machine.execTclrFill st a t s
  | .tmovVat st a2 t e => Sys2Proof.Machine.execTmovVat st a2 t e s
  | .tmovV st a t v e => Sys2Proof.Machine.execTmovV st a t v e s
  | .trowMax st t v e => Sys2Proof.Machine.execTrowMax st t v e s
  | .trowSum st t v e => Sys2Proof.Machine.execTrowSum st t v e s
  | .trowRescale st t v e => Sys2Proof.Machine.execTrowRescale st t v e s
  | .trowNorm st t v e => Sys2Proof.Machine.execTrowNorm st t v e s
  | .relset st a4 b4 slot e => Sys2Proof.Machine.execRelset st a4 b4 slot e s
  | .lblset st a4 e => Sys2Proof.Machine.execLblset st a4 e s
  | .lsum st a4 e => Sys2Proof.Machine.execLsum st a4 e s
  | .ltest st a2 p slot e => Sys2Proof.Machine.execLtest st a2 p slot e s
  | .brp st p sense o => Sys2Proof.Machine.execBrp st p sense o s
  | .bra st o => Sys2Proof.Machine.execBra st o s
  | .brx st a2 => Sys2Proof.Machine.execBrx st a2 s
  | .brt st c b => Sys2Proof.Machine.execBrt st c b s
  | .callx st a2 => Sys2Proof.Machine.execCallx st a2 s
  | .call st o => Sys2Proof.Machine.execCall st o s
  | .ret st => Sys2Proof.Machine.execRet st s
  | .join st p i => Sys2Proof.Machine.execJoin st p i s
  | .fork st p a2 b => Sys2Proof.Machine.execFork st p a2 b s
  | .spawn st p a2 b => Sys2Proof.Machine.execSpawn st p a2 b s
  | .endF st => Sys2Proof.Machine.execEndF st s
  | .launch st p a b => Sys2Proof.Machine.execLaunch st p a b s
  | .yieldW st => Sys2Proof.Machine.execYieldW st s
  | .waitd st m => Sys2Proof.Machine.execWaitd st m s
  | .wset st i => Sys2Proof.Machine.execWset st i s
  | .wslide st i => Sys2Proof.Machine.execWslide st i s
  | .srd st d r => Sys2Proof.Machine.execSrd st d r s
  | .swr st d r => Sys2Proof.Machine.execSwr st d r s
  | .cnt st d c => Sys2Proof.Machine.execCnt st d c s
  | .trap st d c => Sys2Proof.Machine.execTrap st d c s
  | .tret st => Sys2Proof.Machine.execTret st s
  | .brk st => Sys2Proof.Machine.execBrk st s
  | .tlbiPage st sc a2 b => Sys2Proof.Machine.execTlbiPage st sc a2 b s
  | .tlbiCtx st sc b => Sys2Proof.Machine.execTlbiCtx st sc b s
  | .tlbiAll st sc => Sys2Proof.Machine.execTlbiAll st sc s
  | .wtwake st a b => Sys2Proof.Machine.execWtwake st a b s
  | .swrSkipcnt st d => Sys2Proof.Machine.execSwrSkipcnt st d s
  | .swrTimer st d => Sys2Proof.Machine.execSwrTimer st d s
  | .swrTctl st d => Sys2Proof.Machine.execSwrTctl st d s
  | .swrSlim st d => Sys2Proof.Machine.execSwrSlim st d s
  | .swrFpctl st d => Sys2Proof.Machine.execSwrFpctl st d s
  | .swrFpstat st d => Sys2Proof.Machine.execSwrFpstat st d s
  | .srdCounter st d c => Sys2Proof.Machine.execSrdCounter st d c s
  | .sfqheadWrite st d => Sys2Proof.Machine.execSfqheadWrite st d s
  | .clauseDecode => .next s
  | .issueStarvationPromote _ => .next s
  | .vatStarvationPromote _ => .next s
  | .detStep => .next s
  | .interlockResult _ => .next s
  | .accessComplete _ => .next s
  | .engineCommandComplete _ => .next s
  | .mmaChunk => .next s
  | .homeRefusal _ _ => .next s
  | .timerExpire => .next s
  | .boundaryTrap => .next s
  | .hardwareError _ => .next s
  | .contextCreate _ _ _ _ _ _ => .next s
  | .codeObjectRegister _ _ _ => .next s
  | .queueCreate _ _ _ => .next s
  | .rootInstall _ _ => .next s
  | .poolRegister _ _ _ => .next s
  | .launchAccept _ _ => .next s
  | .groupStart _ _ => .next s
  | .clusterStart _ _ => .next s
  | .groupEnd _ => .next s
  | .groupFail => .next s
  | .binTimeout _ _ => .next s
  | .cooperLaunch => .next s
  | .binSteal _ => .next s
  | .stealQueuePost _ _ => .next s
  | .racking _ _ => .next s
  | .preemptRequest _ => .next s
  | .preemptAck _ => .next s
  | .restore _ _ _ => .next s
  | .tlbiAck _ => .next s
  | .followOnEntry => .next s
  | .decanterRequestBegin => .next s
  | .decanterSegment => .next s
  | .collectorWindowClose => .next s
  | .soleraPromote _ _ _ => .next s
  | .soleraDemote _ _ _ => .next s
  | .moveInstall _ _ => .next s
  | .moduleTierRead _ _ => .next s
  | .moduleTierWrite _ _ => .next s
  | .finingStart _ _ => .next s
  | .finingMark _ _ => .next s
  | .finingClose _ _ => .next s
  | .finingSweep _ _ => .next s
  | .hostAccess _ _ => .next s
  | .trellisAccess _ _ _ => .next s
  | .rdmaMessage _ _ _ => .next s
  | .portHalfWidth _ _ => .next s
  | .powerControlWrite _ => .next s
  | .retryWrite _ => .next s
  | .resetWrite _ => .next s
  | .evringConfigWrite _ _ => .next s
  | .evheadWrite _ => .next s
  | .attestationRequest _ => .next s
  | .mgmtRegisterWrite _ _ => .next s
  | .powerStateEnter _ => .next s
  | .powerWake => .next s
  | .clockThrottle _ => .next s
  | .boot => .next s
  | .coreRetire _ => .next s
  | .powerLoss => .next s
  | .deviceLeavesDomain _ => .next s

/-- The state of an outcome; a fault or a refusal leaves the state as it was. -/
def nextOr (s : State) (o : Out) : State :=
  match o with
  | .next t => t
  | .fault _ => s
  | .refused _ => s

/-! ### Completing what a step started (09 R209) -/

/-- The first outstanding access of the wave at the issue port that may be performed now. -/
def State.firstReady (s : State) : Option Nat :=
  (List.range s.wave.outst.length).find? (fun k =>
    s.mayPerform k && !s.logWait (s.wave.outst.getD k { kind := .store }))

/-- Every unit of the core at the issue port does what it can do next, once. -/
def State.unitsPass (s : State) : State :=
  let s1 := nextOr s (execInterlockResult 0 s)
  let s2 := s1.complete (s1.firstReady.getD 0)
  (s2.arrayChunk.arrayComplete.portComplete.blendComplete.kickComplete.rqBegin.rqSegment.folEnter)

/-- How far the units of a core are with what they hold. -/
def State.progress (s : State) : List Nat :=
  let c := s.core
  [s.wave.interlocks.length, s.wave.outst.length, c.arrayQ.length, (c.arrayQ.map (fun x => x.chunks)).sum,
    c.tileQ.length, c.blendQ.length, c.kickQ.length, (c.kickQ.map (fun x => x.left)).sum, c.reqQ.length,
    (c.reqQ.map (fun x => x.pos + b2n x.begun + b2n x.valid + b2n x.done)).sum]

/-- A wave has something issued and not complete: an interlocked result, an access, a command, a request. -/
def State.openWork (s : State) (wid : Nat) : Bool :=
  let c := s.core
  !s.wave.interlocks.isEmpty || !s.wave.outst.isEmpty || c.arrayQ.any (fun x => x.wid == wid) ||
  c.tileQ.any (fun x => x.wid == wid) || c.blendQ.any (fun x => x.wid == wid) ||
  c.kickQ.any (fun x => x.wid == wid) || c.reqQ.any (fun x => x.wid == wid)

/-- Completes all that the wave at the issue port has issued, as far as it can complete. -/
def State.drainWave : Nat → State → State
  | 0, s => s
  | n + 1, s =>
    if !s.openWork s.wave.wid then s
    else
      let t := s.unitsPass
      if t.progress == s.progress then { t with fresh := t.fresh + freshStride }
      else State.drainWave n { t with fresh := t.fresh + freshStride }

/-- More passes than any instruction's work takes. -/
def drainFuel : Nat := 2 ^ 32

/-! ### The step -/

/-- The place in a rotation of the wave whose turn it is: the first wave from the pointer on that has not
ended, wrapping to the first. -/
def State.rotationAt (s : State) (x : Launch) : Option Nat :=
  let here := s.rotationOf x
  let ok (i : Nat) : Bool := here.contains (x.rotation.getD i 0)
  let is := List.range x.rotation.length
  (is.find? (fun i => decide (x.rotptr ≤ i) && ok i)).or (is.find? ok)

/-- The instruction that the selected set stands at. -/
def State.issueHere (s : State) : State :=
  match decodeWord s.wave.wordHere with
  | .error _ => s
  | .ok i => nextOr s (issueWord i s)

/-- The wave at the issue port takes its step: it decodes a clause where it stands at one, and then issues one
instruction. A set that is held, at a BWAIT or PWAIT whose test would park, has no effect. -/
def State.stepWave (s : State) : State :=
  let s0 := s.onWave (fun w => { w with stalled := false, turnDone := false })
  let s1 := if s0.wave.cur.isSome then s0 else nextOr s0 s0.nextSet
  if s1.wave.cur.isNone then s1
  else
    let s2 := s1.issueHere
    if s2.wave.stalled then s else State.drainWave drainFuel s2

/-- A step begins: it is open until its instruction is complete, and keeps the RETCNT that its wave had. -/
def State.openStep (s : State) (id : Nat) : State :=
  s.onLaunch id (fun x => { x with stepOpen := true, stepRet := s.wave.retcnt })

/-- A step whose instruction retired counts for its launch, once, whatever made the instruction complete (09 R210). -/
def State.countRetired (s : State) (id : Nat) : State :=
  let x := s.launchOf id
  if x.stepOpen && s.wave.retcnt != x.stepRet then s.onLaunch id (fun x => { x with count := x.count + 1 }) else s

/-- A step has passed: the bins of the launch count it, once (09 R208). DESIGN CHOICE (log 45): the step whose FORK
placed a bin's first item is the first that it counts. -/
def State.countStep (s : State) (id : Nat) : State :=
  let tmo := (s.launchOf id).bintmo
  s.onCore (fun c => { c with bins := c.bins.map (fun b =>
    if b.launch == id && !b.items.isEmpty then
      { b with steps := b.steps + 1, due := b.due || decide (tmo ≤ b.steps + 1) }
    else b) })

/-- A step is complete: ended waves leave the rotation, and the pointer moves to the wave after the one at place i. -/
def State.closeStep (s : State) (id i : Nat) : State :=
  let here := s.rotationOf (s.launchOf id)
  s.onLaunch id (fun x => { x with
    rotation := here
    rotptr := ((x.rotation.take (i + 1)).filter (fun w => here.contains w)).length
    stepOpen := false })

/-- Groups of a deterministic launch whose last fibre has ended end within the step that ended it, so that their
write-backs are performed before the next (24 R421). -/
def State.endGroups (s : State) (id : Nat) : State :=
  (s.groups.filter (fun g => g.launch == id)).foldl (fun s g =>
    if s.canEnd g then nextOr s (execGroupEnd g.id s) else s) s

/-- The end of what a DET_STEP does: once nothing of the step is left open the retired instruction counts and the step
passes. -/
def State.endStep (s : State) (id i : Nat) : State :=
  if s.openWork s.wave.wid then s else (((s.countRetired id).countStep id).closeStep id i).endGroups id

/-- Every due bin that fits becomes a task wave; `n` bounds them by the rotation (09 R203, R208). -/
def State.cooperAll : Nat → State → State
  | 0, s => s
  | n + 1, s =>
    let t := s.refill
    if t.dueOn t.core then State.cooperAll n t.cooper else t

/-- One step of a deterministic launch on the core at the issue port: the due bins become task waves, and the wave at
the rotation pointer takes its step; a step that is open goes on instead. While no wave is left in the rotation a step
passes without an instruction (DESIGN CHOICE, log 45). -/
def State.detStep (s : State) (id : Nat) : State :=
  let isOpen := (s.launchOf id).stepOpen
  let s0 := if isOpen then s else State.cooperAll 33 s
  let x := s0.launchOf id
  match s0.rotationAt x with
  | none => s0.countStep id
  | some i =>
    let s1 := s0.focusWave (x.rotation.getD i 0)
    let s2 :=
      if s1.openWork s1.wave.wid then State.drainWave drainFuel s1
      else if isOpen || s1.wave.dying.isSome then s1
      else (s1.openStep id).stepWave
    s2.endStep id i

/-- DET_STEP: the deterministic launch of the core at the issue port advances by one step (09 R209). A
request to pre-empt the core is met between steps (09 R210). -/
def execDetStep (s : State) : Out :=
  match s.detOn s.core.num with
  | none => .next s
  | some x => if s.core.preempt = .none ∨ x.stepOpen then .next (s.detStep x.id) else .next s

end Sys2Proof.Machine
end

