-- ==== Sys2Proof/Machine/Tiers.lean ====
section
/-!
DEFINITION. Sys2Proof/Machine/Tiers.lean: Solera's moves (22 R402 to R404), the module tier's integrity
(22 R406 to R409) and the fining engine (22 R417, R418).
-/

namespace Sys2Proof.Machine

open Sys2Proof

/-! ### Moves (22 R403, R404) -/

/-- Some access that was translated to a 64 KiB frame has not been performed: of a wave, of a saved wave, or of a
metadata load in a core's array queue. -/
def State.frameBusy (s : State) (frame : Nat) : Bool :=
  let hit (o : MemOp) : Bool := o.space == .global && o.reqs.any (fun q => q.phys / 65536 == frame)
  s.allWaves.any (fun w => w.outst.any hit) || s.contexts.any (fun c => c.images.any (fun i => i.waves.any (fun w => w.outst.any hit))) ||
  s.allCores.any (fun c => c.arrayQ.any (fun a =>
    match a.op with
    | .mld _ .global ps _ => ps.any (fun p => p / 65536 == frame)
    | _ => false))

/-- Solera withdraws the leaf of a page: not present, moving, dropped from every TLB (step 1). -/
def State.withdrawLeaf (s : State) (ctx page slot leaf : Nat) : State :=
  let hit (e : TlbEntry) : Bool := e.covers ctx (page * 65536)
  let s1 := (s.wrN slot (leaf / 2 * 2) 8).setPage ctx page .moving
  { s1.onCores (fun c => { c with tlb := c.tlb.filter (fun e => !hit e) }) with
    clusters := s1.clusters.map (fun x =>
      (x.1, { x.2 with tlb := x.2.tlb.filter (fun e => !hit e) })) }

/-- The leaf of a page of a level-3 table, with its address: the word as memory holds it. -/
def State.leafWord (s : State) (ctx page : Nat) : Option (Nat × Nat) :=
  (s.pageSlot ctx page).map (fun a => (a, s.rd a 8))

/-- A frame is in no use that the device knows of: nobody has taken it, and it was given back or holds no byte but
zero (log 47). -/
def State.frameFree (s : State) (f : Nat) : Bool :=
  s.dies.all (fun d => !d.2.usedFrames.contains f) &&
    (s.dies.any (fun d => d.2.freed.contains f) || s.mem.all (fun c => c.1 / 65536 != f))

/-- A frame is taken; the die that uses it keeps it among the frames in use. -/
def State.takeFrame (s : State) (d frame : Nat) : State :=
  let s1 : State := { s with dies := s.dies.map (fun x =>
    (x.1, { x.2 with freed := x.2.freed.filter (fun f => f != frame) })) }
  s1.setDie d { s1.die d with usedFrames := sortNats (frame :: (s1.die d).usedFrames) }

/-- A move begins. -/
def State.beginMove (s : State) (m : Move) (slot : Nat) : State :=
  let s1 := s.withdrawLeaf m.ctx m.page slot m.srcLeaf.toNat
  { s1 with moves := s1.moves ++ [m] }

/-- A physical frame number of this device. -/
def State.ownFrame (s : State) (frame : Nat) : Bool := frame * 65536 / 2 ^ 44 == s.mgmt.devno

/-- SOLERA_PROMOTE: a page with a live wait-table entry, resident in tier 1 or 2 or absent, begins to move into a
free cask frame of its home die. The source of an absent page is the frame that its not-present leaf keeps
(DEDUCED, log 47). -/
def execSoleraPromote (ctx page frame : Nat) (s : State) : Out :=
  let l := localOf (frame * 65536)
  let d := caskDie l
  match s.leafWord ctx page, s.findWait ctx page with
  | some (slot, e), some w =>
    let resident := entV e
    let st := s.pageState ctx page
    let ok := w.2.state == .pending && s.ownFrame frame && isCask l && s.frameFree frame &&
      !s.moves.any (fun m => m.ctx == ctx && m.page == page) && bits e 3 1 != 0 &&
      (st == .resident && resident && (entTier e == 1 || entTier e == 2) && entHome e == d &&
        !s.frameBusy (entFrame e / 65536) || st == .absent && !resident)
    if !ok then .next s
    else
      let x := s.die (w.1)
      let s1 := s.setDie w.1 { x with promoQ := x.promoQ.filter (fun y => !(y.1 == ctx && y.2 == page)) }
      .next ((s1.takeFrame d frame).beginMove
        { ctx := ctx, page := page, die := d, srcLeaf := BitVec.ofNat 64 e, dst := frame, dstTier := 0
          wasResident := resident, promotion := true } slot)
  | _, _ => .next s

/-- Free cask frames of a die: those not handed out (log 47). -/
def Die.freeFrames (d : Die) : Nat :=
  1572864 - (d.usedFrames.filter (fun f => isCask (localOf (f * 65536)))).length

/-- SOLERA_DEMOTE: while a die's free cask frames lie below its watermark, a resident cask page without a live
entry begins to move to a free module-tier frame. -/
def execSoleraDemote (ctx page frame : Nat) (s : State) : Out :=
  match s.leafWord ctx page with
  | none => .next s
  | some (slot, e) =>
    let d := entHome e
    let ok := s.pageState ctx page == .resident && entV e && bits e 3 1 != 0 && entTier e == 0 &&
      (s.findWait ctx page).isNone && decide ((s.die d).freeFrames < (s.die d).swmark.toNat) &&
      s.ownFrame frame && isModule (localOf (frame * 65536)) && s.mgmt.tier1 && s.frameFree frame &&
      !s.frameBusy (entFrame e / 65536)
    if !ok then .next s
    else
      .next ((s.takeFrame d frame).beginMove
        { ctx := ctx, page := page, die := d, srcLeaf := BitVec.ofNat 64 e, dst := frame, dstTier := 1
          wasResident := true, promotion := false } slot)

/-- Copies the 64 KiB of a frame: unlisted bytes read as zero on both sides. -/
def copyFrame (m : Memory) (src dst : Nat) : Memory :=
  let cells := m.filter (fun c => decide (src ≤ c.1) && decide (c.1 < src + 65536))
  cells.foldl (fun m c => sput 0 m (c.1 - src + dst) c.2) (sclear m dst 65536)

/-- The units of a module-tier frame get the tags of their new bytes. -/
def State.retagFrame (s : State) (dst : Nat) : State :=
  (List.range 16).foldl (fun s i =>
    match s.unitOf (dst + 4096 * i) with
    | some u => s.retag u
    | none => s) s

/-- The leaf that a move installs: the frame, its tier, and the cask's home die. -/
def Move.newLeaf (m : Move) : Nat :=
  let e := m.srcLeaf.toNat
  packFields [(0, 1, 1), (1, 4, bits e 4 1), (5, 2, m.dstTier), (7, 2, m.die), (9, 1, bits e 9 9),
    (16, 40, m.dst)]

/-- The first unit of a move's source that fails both reads. -/
def State.badSource (s : State) (m : Move) : Option Nat :=
  ((List.range 16).map (fun i => entFrame m.srcLeaf.toNat + 4096 * i)).find? (fun p => s.unitFails p)

/-- The units of a move's source that verify on their second read only leave their events to post (22 R408). -/
def State.noteSource (s : State) (m : Move) : State :=
  let us := ((List.range 16).map (fun i => entFrame m.srcLeaf.toNat / 4096 + i)).filter (fun u =>
    (s.unitOf (4096 * u)).isSome && Config.unitError s.fresh u && !s.unitFails (4096 * u))
  { s with retried := s.retried ++ us.map (fun u => (m.ctx, u)) }

/-- The units of a frame that is written whole verify again (22 R407). -/
def State.healFrame (s : State) (dst : Nat) : State :=
  { s with badUnits := s.badUnits.filter (fun u => u / 16 != dst / 65536) }

/-- MOVE_INSTALL: the bytes are copied, the new leaf is present, the source is free and the entry wakes with
success; a source unit that fails both reads marks the page failed (22 R403, R409). -/
def execMoveInstall (ctx page : Nat) (s : State) : Out :=
  match s.moves.find? (fun m => m.ctx == ctx && m.page == page) with
  | none => .next s
  | some m =>
    let src := entFrame m.srcLeaf.toNat
    match s.badSource m with
    | some p =>
      let i := tierTrap 1 (page * 65536 + p % 65536)
      let r : FaultRecord := { info := i, ctx := ctx, core := s.core.num }
      let s1 := (s.noteSource m).unitLost ctx page p i r m.die
      .next { s1 with fresh := s1.fresh + freshStride }
    | none =>
      let s1 := { s.noteSource m with
        mem := copyFrame s.mem src (m.dst * 65536)
        moves := s.moves.filter (fun y => !(y.ctx == ctx && y.page == page)) }
      let s2 := (s1.healFrame (m.dst * 65536)).retagFrame (m.dst * 65536)
      let s3 := match s2.pageSlot ctx page with
        | some a => s2.wrN a m.newLeaf 8
        | none => s2
      let s4 := (s3.freeFrame m.die (src / 65536)).clearPage ctx page
      let s5 := s4.wakePage ctx page true
      .next { s5 with fresh := s5.fresh + freshStride }

/-! ### The module tier (22 R406 to R409) -/

/-- The numbers of the units that some bytes touch. -/
def unitsOf (a n : Nat) : List Nat :=
  if n = 0 then [] else (List.range ((a + n - 1) / 4096 + 1 - a / 4096)).map (fun i => a / 4096 + i)

/-- The indexes of the entries of a table of n that are not zero. -/
def State.usedEntries (s : State) (table n : Nat) : List Nat :=
  sortNats ((s.mem.filter (fun c => decide (table ≤ c.1) && decide (c.1 < table + 8 * n))).map (fun c =>
    (c.1 - table) / 8))

/-- The pages, with their home dies, whose leaf, present or not, in a table of a level places the byte at `p`: the
table maps the addresses from `va` on (18 R319). -/
def State.pagesIn (s : State) (p : Nat) : Nat → Nat → Nat → Nat → List (Nat × Nat)
  | 0, _, _, _ => []
  | fuel + 1, level, table, va =>
    (s.usedEntries table (levelEntries level)).flatMap (fun k =>
      let e := s.rd (table + 8 * k) 8
      let a := va + k * 2 ^ levelShift level
      if level != 3 && (!entV e || entPointer e) then
        if !entV e || s.badPointer level e then [] else s.pagesIn p fuel (level + 1) (entNext e) a
      else if entTier e == 1 && decide (entFrame e ≤ p) && decide (p < entFrame e + 2 ^ levelShift level) then
        [((a + (p - entFrame e)) / 65536, entHome e)]
      else [])

/-- The pages of every context that lie on the unit at `p`: the context, the page, its home die. -/
def State.unitPages (s : State) (p : Nat) : List (Nat × Nat × Nat) :=
  s.contexts.flatMap (fun c => (s.pagesIn p 4 0 c.ptroot.toNat 0).map (fun x => (c.id, x)))

/-- The unit at `p` failed both reads of an access that names no page: the actions of 22 R409 for each page on it. -/
def State.unitDead (s : State) (p : Nat) : State :=
  let lose (t : State) (x : Nat × Nat × Nat) : State :=
    let i := tierTrap 1 (x.2.1 * 65536 + p % 65536)
    t.pageLost x.1 x.2.1 i { info := i, ctx := x.1, core := s.core.num } x.2.2
  let ps := s.unitPages p
  ps.foldl lose ((s.unitEvent 6 ((ps.head?.map (fun x => x.1)).getD 0) p).markBad p)

/-- A unit of the module tier is read: once more when its tag fails; a unit that fails both reads stays bad, and the
pages on it have failed. -/
def State.readUnit (s : State) (u : Nat) : State :=
  let p := u * 4096
  if (s.unitOf p).isNone then s
  else if s.unitFails p then s.unitDead p
  else if Config.unitError s.fresh u then s.unitEvent 5 0 p
  else s

/-- The pages on the units that an access of the device's own found failed are marked (22 R409, log 27). -/
def State.loseDead (s : State) : State :=
  s.deadUnits.foldl (fun s u => s.unitDead (4096 * u)) { s with deadUnits := [] }

/-- The events of the units that verified on a second read, and whose bytes were delivered, are posted (22 R408). -/
def State.postRetries (s : State) : State :=
  s.retried.foldl (fun s x => s.unitEvent 5 x.1 (4096 * x.2)) { s with retried := [] }

/-- MODULE_TIER_READ (22 R408). -/
def execModuleTierRead (addr n : Nat) (s : State) : Out :=
  let s1 := (unitsOf addr n).foldl (fun s u => s.readUnit u) s
  .next { s1 with fresh := s1.fresh + freshStride }

/-- A write covers a whole unit. -/
def coversUnit (a n u : Nat) : Bool := decide (a ≤ u * 4096) && decide (u * 4096 + 4096 ≤ a + n)

/-- The bytes of a write that fall in a unit are written, with the unit's new tag: a partial write verifies the
unit first and is refused where it fails (22 R407). -/
def State.writeUnit (s : State) (a : Nat) (bs : List Byte) (u : Nat) : State :=
  let p := u * 4096
  let lo := max a p
  let part := (bs.drop (lo - a)).take (p + 4096 - lo)
  if (s.unitOf p).isNone || !s.mgmt.tier1 then s
  else if coversUnit a bs.length u then
    { s.wr lo part with badUnits := s.badUnits.filter (fun x => x != u) }
  else if s.unitFails p then s.readUnit u
  else (s.readUnit u).wr lo part

/-- MODULE_TIER_WRITE (22 R407). -/
def execModuleTierWrite (addr : Nat) (bytes : List Byte) (s : State) : Out :=
  let s1 := ((unitsOf addr bytes.length).foldl (fun s u => s.writeUnit addr bytes u) s).tidyMarks
  .next { s1 with fresh := s1.fresh + freshStride }

/-! ### Fining (22 R417) -/

/-- A pool with the physical address of its descriptor. -/
def State.poolDesc (s : State) (ctx num : Nat) : Option (Pool × Nat) :=
  match s.poolNum ctx num with
  | none => none
  | some x => (s.ctxPhys ctx x.desc .read).map (fun p => (x, p))

/-- The engine asks for a pool's descriptor and does not find it: what failed under it is noted (22 R409). -/
def State.poolMet (s : State) (ctx num : Nat) : State :=
  match s.poolNum ctx num with
  | none => s
  | some x => s.ctxMet ctx x.desc

/-- The engine finds a cycle requested in a pool's descriptor (22 R417). -/
def State.poolAsks (s : State) (ctx num : Nat) : Bool :=
  match s.poolDesc ctx num with
  | some x => bit (s.desc x.2 102 1) 1
  | none => false

/-- Changes the control byte of a descriptor: act, req, swp. -/
def State.poolCtl (s : State) (p : Nat) (act req swp : Bool) : State :=
  s.wrN (p + 102) (b2n act + 2 * b2n req + 4 * b2n swp) 1

/-- The block numbers of a tier's table. -/
def State.blockNums (s : State) (p tier : Nat) : List Nat :=
  if s.desc p (8 * tier) 8 = 0 then [] else List.range (s.desc p (32 + 8 * tier) 8)

/-- Changes every block of a pool, tier 0 then tier 1, in increasing number. -/
def State.foldBlocks (s : State) (ctx p : Nat) (f : State → Nat → Nat → Nat → State) : State :=
  [0, 1].foldl (fun s tier =>
    (s.blockNums p tier).foldl (fun s k =>
      match s.blockEntry ctx p tier k with
      | none => s.blockMet ctx p tier k
      | some a => f s tier k a) s) s

/-- A KVSET of a context has not been performed. -/
def State.kvsetPending (s : State) (ctx : Nat) : Bool :=
  s.allWaves.any (fun w => w.ctx == ctx && w.outst.any (fun o => o.kind == .kvset))

/-- FINING_START: req, the marks and logn are cleared, act is set and the mark flag stands at every core; the cores
acknowledge it once every KVSET issued before has been performed (log 48). -/
def execFiningStart (ctx pool : Nat) (s : State) : Out :=
  match s.poolDesc ctx pool with
  | none => .next (s.poolMet ctx pool)
  | some (x, p) =>
    let ctl := s.desc p 102 1
    if (x.phase = 1 ∨ (x.phase = 0 ∧ bit ctl 1)) ∧ !bit ctl 0 ∧ !bit ctl 2 ∧ !s.kvsetPending ctx then
      let s1 := (s.poolCtl p true false false).foldBlocks ctx p (fun s _ _ a => s.setMark a false)
      let s2 := (s1.wrN (p + 84) 0 4).onPool ctx pool (fun x => { x with phase := 2, logRead := 0 })
      .next (s2.onCores (fun c => { c with
        marks := if c.marks.contains (ctx, pool) then c.marks else (ctx, pool) :: c.marks }))
    else .next s

/-- Marks from every table that the root list names. -/
def State.markRoots (s : State) (ctx p pool : Nat) : State :=
  (List.range (s.desc p 92 2)).foldl (fun s i =>
    let root := s.desc p 16 8 + 16 * i
    match s.ctxRd ctx root 8, s.ctxRd ctx (root + 8) 4 with
    | some tab, some n =>
      (List.range n).foldl (fun s j =>
        match s.ctxRd ctx (tab + 8 * j) 8 with
        | some e => s.markEntry ctx p pool e
        | none => s.ctxMet ctx (tab + 8 * j)) s
    | _, _ => (s.ctxMet ctx root).ctxMet ctx (root + 8)) s

/-- Consumes the log up to what it holds now, in order. -/
def State.drainLog (s : State) (ctx p pool : Nat) (x : Pool) : State :=
  let n := s.desc p 84 4
  let s1 := (List.range (n - x.logRead)).foldl (fun s i => s.markLogged ctx p pool (x.logRead + i)) s
  s1.onPool ctx pool (fun x => { x with logRead := n })

/-- FINING_MARK: the root list and every table are read once; then log entries are consumed. -/
def execFiningMark (ctx pool : Nat) (s : State) : Out :=
  match s.poolDesc ctx pool with
  | none => .next (s.poolMet ctx pool)
  | some (x, p) =>
    if x.phase = 2 then
      .next (((s.markRoots ctx p pool).drainLog ctx p pool x).onPool ctx pool (fun x => { x with phase := 3 }))
    else if x.phase = 3 then .next (s.drainLog ctx p pool x)
    else .next s

/-- FINING_CLOSE: once every core acknowledges, the flag falls, act is cleared and the log is consumed to its
end. -/
def execFiningClose (ctx pool : Nat) (s : State) : Out :=
  match s.poolDesc ctx pool with
  | none => .next (s.poolMet ctx pool)
  | some (x, p) =>
    if x.phase = 3 ∧ !s.kvsetPending ctx then
      let s1 := s.onCores (fun c => { c with marks := c.marks.filter (fun m => m != (ctx, pool)) })
      let s2 := (s1.poolCtl p false (bit (s1.desc p 102 1) 1) false).drainLog ctx p pool x
      .next (s2.onPool ctx pool (fun x => { x with phase := 4 }))
    else .next s

/-- An allocated block that no one marked is pushed onto its tier's free stack. -/
def State.sweepBlock (s : State) (p tier k a : Nat) : State :=
  let e := s.rd a 16
  if bits e 127 126 = 1 ∧ !bit e 125 then
    let e1 := packFields [(64, 40, s.desc p (48 + 8 * tier) 8), (0, 56, bits e 55 0)]
    let s1 := (s.wrN a e1 16).wrN (p + 48 + 8 * tier) k 8
    s1.wrN (p + 64 + 8 * tier) (s1.desc p (64 + 8 * tier) 8 + 1) 8
  else s

/-- FINING_SWEEP: unmarked blocks are freed and the cycle number is written. -/
def execFiningSweep (ctx pool : Nat) (s : State) : Out :=
  match s.poolDesc ctx pool with
  | none => .next (s.poolMet ctx pool)
  | some (x, p) =>
    if x.phase = 4 then
      let req := bit (s.desc p 102 1) 1
      let s1 := (s.poolCtl p false req true).foldBlocks ctx p (fun s tier k a => s.sweepBlock p tier k a)
      let s2 := (s1.poolCtl p false req false).wrN (p + 94) ((s1.desc p 94 2 + 1) % 65536) 2
      .next (s2.onPool ctx pool (fun x => { x with phase := 0 }))
    else .next s

end Sys2Proof.Machine
end

