-- ==== Sys2Proof/Machine/Steward.lean ====
section
/-!
DEFINITION. Sys2Proof/Machine/Steward.lean: what the steward does at system software's request: contexts, code
objects, queues, roots and pools (18 R340, R350, 02 R45 to R50, 09 R193, 22 R410), and hardware errors (20 R381).
-/

namespace Sys2Proof.Machine

open Sys2Proof

/-! ### Contexts, queues, roots, pools -/

/-- CONTEXT_CREATE: an identifier from 1 to 4,095 that no context has, a TDT of 1 to 4,096 entries; its matrix
state is that of 06 R133 on every core. -/
def execContextCreate (ctx : Nat) (ptroot tdtbase : DWord) (tdtcnt : Nat) (save spill : DWord) (s : State) : Out :=
  let taken := s.contexts.any (fun c => c.id == ctx && c.created)
  if ctx = 0 ∨ 4096 ≤ ctx ∨ tdtcnt = 0 ∨ 4096 < tdtcnt ∨ taken then .next s
  else
    let c : Context :=
      { id := ctx, ptroot := ptroot, tdtbase := tdtbase, tdtcnt := w32 tdtcnt, ptrootW := ptroot
        tdtbaseW := tdtbase, tdtcntW := w32 tdtcnt, save := save, spill := spill, window := Config.hostWindow ctx }
    .next { s with contexts := s.contexts.filter (fun c => c.id != ctx) ++ [c] }

/-- A context that the steward has created. -/
def State.madeCtx (s : State) (ctx : Nat) : Bool := s.contexts.any (fun c => c.id == ctx && c.created)

/-- QUEUE_CREATE: queue 0 to 255 of a context, with the address of its 32-byte descriptor (09 R193). -/
def execQueueCreate (ctx queue addr : Nat) (s : State) : Out :=
  if !s.madeCtx ctx || decide (256 ≤ queue) || (s.ctxD ctx).queues.any (fun q => q.num == queue) then .next s
  else .next (s.onContext ctx (fun c => { c with queues := c.queues ++ [{ num := queue, desc := addr }] }))

/-- ROOT_INSTALL: up to 64 roots in a context (18 R340). -/
def execRootInstall (ctx : Nat) (cap : Quad) (s : State) : Out :=
  if !s.madeCtx ctx || decide (64 ≤ (s.ctxD ctx).roots.length) then .next s
  else .next (s.onContext ctx (fun c => { c with roots := c.roots ++ [cap] }))

/-- POOL_REGISTER: pool 0 to 63 of a context, with the 128-byte aligned address of its descriptor
(22 R410). -/
def execPoolRegister (ctx pool : Nat) (addr : DWord) (s : State) : Out :=
  if !s.madeCtx ctx || decide (64 ≤ pool) || addr.toNat % 128 != 0 || (s.poolNum ctx pool).isSome then .next s
  else .next (s.onContext ctx (fun c => { c with pools := c.pools ++ [{ num := pool, desc := addr.toNat }] }))

/-! ### Code objects (02 R45 to R50) -/

/-- A directory entry of a code object. -/
structure DirEntry where
  kind   : Nat
  level  : Nat
  legacy : Nat
  off    : Nat
  len    : Nat
  tab    : Nat
  nkern  : Nat
  ok     : Bool
  deriving DecidableEq, Repr

/-- An entry from its 32 bytes: selectable or not (02 R46). -/
def dirEntry (v : Nat) : DirEntry :=
  let kind := bits v 7 0
  let legacy := bits v 31 16
  { kind := kind, level := bits v 15 8, legacy := legacy, off := bits v 127 64, len := bits v 191 128
    tab := bits v 223 192, nkern := bits v 239 224
    ok := bits v 255 240 == 0 && bits v 239 224 != 0 && bits v 63 36 == 0 &&
      (if kind = 2 then legacy == 16 || legacy == 32 || legacy == 64 else decide (kind ≤ 1) && legacy == 0) }

/-- The class of a selectable entry (02 R47): the earliest class wins. -/
def DirEntry.class (d : DirEntry) : Option Nat :=
  if !d.ok then none
  else if d.kind = 0 ∧ d.level = 1 then some 0
  else if d.kind = 1 then some 1
  else if d.kind = 2 ∧ d.level = 1 then some 2
  else none

/-- The entry that the steward selects. -/
def selectEntry (ds : List DirEntry) : Option DirEntry :=
  (ds.find? (fun d => d.class == some 0)).or
    ((ds.find? (fun d => d.class == some 1)).or (ds.find? (fun d => d.class == some 2)))

/-- A number from the bytes of an image. -/
def imgNum (bs : List Byte) (off n : Nat) : Nat := fromBytes ((bs.drop off).take n)

/-- The entry offsets of an image, if its entry table lies in it and each names a clause header. -/
def imgEntries (bs : List Byte) (tab nkern : Nat) : Option (List Nat) :=
  if bs.length < tab + 16 * nkern then none
  else
    (List.range nkern).mapM (fun i =>
      let o := imgNum bs (tab + 16 * i) 8
      if o % 4 = 0 ∧ o + 4 ≤ bs.length ∧ isHeader (w32 (imgNum bs o 4)) then some o else none)

/-- The chosen image of an object at a physical address, with its load base; none where registration fails. That a
size below the header and its directory fails too is the model's (DESIGN CHOICE, log 66): 02 R45 names no such case. -/
def State.chooseImage (s : State) (a : Nat) : Option (DirEntry × Nat × List Byte) :=
  let h := s.rd a 64
  let count := bits h 63 48
  let size := bits h 127 64
  if bits h 31 0 ≠ 0x424F435A ∨ bits h 47 32 ≠ 1 ∨ count = 0 ∨ 16 < count ∨ bits h 511 192 ≠ 0 ∨
      size < 64 + 32 * count then none
  else
    match selectEntry ((List.range count).map (fun i => dirEntry (s.rd (a + 64 + 32 * i) 32))) with
    | none => none
    | some d => if size < d.off + d.len then none else some (d, bits h 191 128, s.rdBytes (a + d.off) d.len)

/-- The first free frame of the device's cask from a frame on. -/
def State.frameFrom (s : State) (k : Nat) : Nat :=
  let at_ (j : Nat) : Nat := s.mgmt.devno * 2 ^ 28 + (k + j) % (0x06000000000 / 65536)
  let n := s.mem.length + (s.dies.map (fun d => d.2.usedFrames.length)).sum
  (((List.range (n + 1)).map at_).find? (fun f => s.frameFree f)).getD (at_ 0)

/-- A physical frame that the steward takes from the cask of its device, at a place of its choice (log 28). -/
def State.newFrame (s : State) (i : Nat) : Nat :=
  s.frameFrom (Config.stewardFrame s.fresh i % (0x06000000000 / 65536)) * 65536

/-- The steward takes a frame and clears it. -/
def State.grantFrame (s : State) (f : Nat) : State :=
  State.takeFrame { s with mem := sclear s.mem f 65536, heap := s.heap + 1 } (caskDie (localOf f)) (f / 65536)

/-- Makes the next table of a walk exist: its address, and the state with a zeroed table where there was none.
`none` where the entry is a leaf or invalid. -/
def State.nextTable (s : State) (level va table : Nat) : Option (Nat × State) :=
  let a := table + 8 * levelIndex level va
  let e := s.rd a 8
  if !entV e then
    let f := s.newFrame s.heap
    some (f, (s.grantFrame f).wrN a (f + 1) 8)
  else if entPointer e && !s.badPointer level e then some (entNext e, s)
  else none

/-- Maps a 64 KiB page of a context with read and execute permission to a frame (02 R48). -/
def State.mapCode (s : State) (ctx va frame : Nat) : Option State :=
  match s.nextTable 0 va (s.ctxD ctx).ptroot.toNat with
  | none => none
  | some (t1, s1) =>
    match s1.nextTable 1 va t1 with
    | none => none
    | some (t2, s2) =>
      match s2.nextTable 2 va t2 with
      | none => none
      | some (t3, s3) =>
        let leaf := packFields [(0, 1, 1), (1, 1, 1), (3, 1, 1), (7, 2, caskDie (localOf frame)),
          (16, 40, frame / 65536)]
        some (s3.wrN (t3 + 8 * levelIndex 3 va) leaf 8)

/-- Page i of an image goes into a frame of its own and is mapped. -/
def State.placePage (s : State) (ctx va : Nat) (bs : List Byte) (i : Nat) : Option State :=
  let f := s.newFrame s.heap
  ((s.grantFrame f).wr f ((bs.drop (65536 * i)).take 65536)).mapCode ctx (va + 65536 * i) f

/-- Places the first pages of an image one after another. -/
def State.placeImage (s : State) (ctx va : Nat) (bs : List Byte) (n : Nat) : Option State :=
  (List.range n).foldl (fun o i => o.bind (fun s => s.placePage ctx va bs i)) (some s)

/-- A context holds a mapping of a page: a present leaf or an invalid one, a mark of the tier map, a move, or a leaf
that is not present now (22 R402). -/
def State.holdsPage (s : State) (ctx page : Nat) : Bool :=
  (match s.walk ctx (65536 * page) with
    | .ok _ => true
    | .error c => c != 2) ||
  (s.ctxD ctx).tiers.any (fun x => x.1 == page) || s.moves.any (fun m => m.ctx == ctx && m.page == page) ||
  (match s.pageEntry ctx page with
    | some a => s.rd a 8 != 0
    | none => false)

/-- A range of a context overlaps a mapping that it holds. -/
def State.rangeMapped (s : State) (ctx va n : Nat) : Bool :=
  (List.range (ceilDiv n 65536)).any (fun i => s.holdsPage ctx (va / 65536 + i))

/-- Registers an object; none where registration fails, which leaves no part of it (02 R47, R48). The entry table of a
translated image stands in the translated bytes at the directory entry's own offset, and the registration fails where
it is not there (DESIGN CHOICE, log 66): 02 R49 is silent on it. -/
def State.registerObj (s : State) (ctx handle a : Nat) : Option State :=
  match s.chooseImage a with
  | none => none
  | some (d, base, img) =>
    if (imgEntries img d.tab d.nkern).isNone then none
    else
      let bs := if d.kind = 1 then Config.translate img else img
      match imgEntries bs d.tab d.nkern with
      | none => none
      | some es =>
        if base % 65536 ≠ 0 ∨ 2 ^ 56 < base + bs.length ∨ s.rangeMapped ctx base bs.length then none
        else
          (s.placeImage ctx base bs (ceilDiv bs.length 65536)).map (fun s1 =>
            s1.onContext ctx (fun c => { c with cobjs := c.cobjs ++
              [{ handle := handle, base := base, length := bs.length, kind := d.kind
                 legacy := if d.kind = 2 then d.legacy else 0, entries := es }] }))

/-- CODE_OBJECT_REGISTER: the object at a physical address is registered under a handle the context does not
use yet. -/
def execCodeObjectRegister (ctx handle addr : Nat) (s : State) : Out :=
  if !s.madeCtx ctx || (s.ctxD ctx).cobjs.any (fun o => o.handle == handle) then .next s
  else
    match s.registerObj ctx handle addr with
    | none => .next s
    | some s1 => .next { s1 with fresh := s1.fresh + freshStride }

/-! ### Hardware errors (20 R381) -/

/-- The core on which a unit stands, with the code of cause group 20 that names the unit. -/
def hwPlace (u : HwUnit) : Option (Nat × Nat) :=
  match u with
  | .core n => some (n, 0x004)
  | .lane n _ => some (n, 0x001)
  | .vatBank n => some (n, 0x002)
  | .memory n => some (n, 0x003)
  | .stack n => some (n, 0x005)
  | .icache n => some (n, 0x006)
  | .link => none
  | .other => none

/-- Whether an instruction can meet an error of the unit: none meets one of a stack spill area (20 R381). -/
def hwMet (u : HwUnit) : Bool :=
  match u with
  | .stack _ => false
  | .core _ => true
  | .lane .. => true
  | .vatBank _ => true
  | .memory _ => true
  | .icache _ => true
  | .link => true
  | .other => true

/-- The detail of cause group 20; the location is a free value (log 49). -/
def State.hwInfo (s : State) (code n wid slot : Nat) : TrapInfo :=
  { group := 20, code := code, d0 := Config.errorPlace s.fresh wid
    d1 := Config.errorPlace (s.fresh + 1) wid, d2 := w32 (n % 256 + 256 * slot) }

/-- An instruction of a wave on core n meets an error; the core and the wave at the issue port stay. -/
def State.meetAt (s : State) (n wid : Nat) (i : TrapInfo) : State :=
  let t := s.atCore n (fun x => (x.focusWave wid).meetError i)
  if s.wave.absent then t else t.focusWave s.wave.wid

/-- A hardware error of code `code` on core n. The instructions that meet it are reported to the steward and their
sets park; where none does, the steward has the record, and a wave whose state the error touches has its group end
failed, with a record (20 R381, 10 R218). -/
def State.hwError (s : State) (met : Bool) (n code : Nat) : State :=
  let ws := (s.wavesOn n).filter (fun w => !w.steward && !w.absent && !w.over && w.dying.isNone)
  let hit := if met then ws.filter (fun w => Config.errorMet s.fresh w.wid) else []
  if hit.isEmpty then
    let s1 := s.onWaves (fun w =>
      if ws.any (fun x => x.wid == w.wid) && Config.errorTouches s.fresh w.wid then
        { w with dying := some {
            info := s.hwInfo code n w.wid w.slot, fibid := (w.fib w.lowest).fibid, pc := w.pc, wctx := w.slot
            core := n, ctx := w.ctx, unhandled := true } }
      else w)
    s1.postSteward (dieOf n) { info := s.hwInfo code n 0 0, core := n }
  else hit.foldl (fun t w => t.meetAt n w.wid (s.hwInfo code n w.wid w.slot)) s

/-- HARDWARE_ERROR: an instruction meets it or the steward alone handles it. Which instructions meet it, which waves
it touches, and where, are free values (log 49). -/
def execHardwareError (u : HwUnit) (s : State) : Out :=
  let s1 := match hwPlace u with
    | none => s
    | some x => s.hwError (hwMet u) x.1 x.2
  .next { s1 with fresh := s.fresh + freshStride }

end Sys2Proof.Machine
end

