-- ==== Sys2Proof/Machine/Package.lean ====
section
/-!
DEFINITION. Sys2Proof/Machine/Package.lean: the package in its system: accesses of the host, of other devices
and of the network, the management window, power states, boot and reset (19 R352 to R371, 01 R16).
-/

namespace Sys2Proof.Machine

open Sys2Proof

/-! ### Accesses from outside (19 R352, R353, R358, R359, R362) -/

/-- The device is in service. -/
def State.inService (s : State) : Bool := s.mgmt.boot == .inService

/-- Changes the Sommelier's registers. -/
def State.onMgmt (s : State) (f : Mgmt → Mgmt) : State := { s with mgmt := f s.mgmt }

/-- An arriving access wakes the package to D0 first; the steward's waves that were saved come back (19 R361, R362). -/
def State.wakeUp (s : State) : State :=
  s.mgmt.parked.foldl (fun t x => t.onCores (fun c =>
    if c.num == x.1 then { c with waves := c.waves ++ [x.2] } else c))
    (s.onMgmt (fun m => { m with power := 0, parked := [] }))

/-- Some byte of a range of local addresses is unassigned (18 R423). -/
def unassignedIn (a n : Nat) : Bool := n != 0 && !(isAssigned a && isAssigned (a + n - 1) &&
  (isCask a == isCask (a + n - 1)) && (isModule a == isModule (a + n - 1)))

/-- Writes bytes at a local address: a unit of the module tier follows 22 R407. -/
def State.busWrite (s : State) (a : Nat) (bs : List Byte) : State :=
  let p := s.mgmt.devno * 2 ^ 44 + a
  (if isModule a then (unitsOf p bs.length).foldl (fun s u => s.writeUnit p bs u) s else s.wr p bs).tidyMarks

/-- A read of a unit of the module tier follows 22 R408; no other read changes anything. -/
def State.busRead (s : State) (a n : Nat) : State :=
  let p := s.mgmt.devno * 2 ^ 44 + a
  if isModule a then (unitsOf p n).foldl (fun s u => s.readUnit u) s else s

/-- How many bytes an access from outside touches. -/
def busSize : BusOp → Nat
  | .read n => n
  | .write bs => bs.length
  | .atomic t _ _ _ => t.bytes
  | .linkError => 0

/-- The home refuses an access: the module tier is absent, or a unit of it that the access does not wholly overwrite
fails both reads (22 R407, R408, R423). -/
def State.busRefused (s : State) (a : Nat) (op : BusOp) : Bool :=
  let p := s.mgmt.devno * 2 ^ 44 + a
  let covered (u : Nat) : Bool := match op with
    | .write bs => coversUnit p bs.length u
    | .read _ => false
    | .atomic .. => false
    | .linkError => false
  isModule a && (!s.mgmt.tier1 || (unitsOf p (busSize op)).any (fun u => s.unitFails (u * 4096) && !covered u))

/-- Performs an access at its home, an atomic indivisibly, with the bytes that it answers. -/
def State.busDo (s : State) (a : Nat) (op : BusOp) : State × List Byte :=
  let old := s.rdBytes (s.mgmt.devno * 2 ^ 44 + a) (busSize op)
  match op with
  | .read n => (s.busRead a n, old)
  | .write bs => (s.busWrite a bs, [])
  | .atomic t o x y =>
    (s.busWrite a (bytesOf (atomChain t o (fromBytes old) [{ data := x, data2 := y }]) t.bytes), old)
  | .linkError => (s, [])

/-- An access that receives an error completion changes no device byte (19 R357). -/
def State.errorReply (s : State) : State := { s with reply := none }

/-- An access at a local address, performed at its home, with what the steward does after it; before boot has put the
device in service it receives an error completion (DESIGN CHOICE, log 51). -/
def State.busAccess (s : State) (a : Nat) (op : BusOp) (k : State → State) : Out :=
  if !s.inService then .next s.errorReply
  else if op = .linkError then .next s.wakeUp.errorReply
  else if unassignedIn a (busSize op) then .fault (.unassignedAddress a)
  else if s.busRefused a op then
    .next { (s.wakeUp.busRead a (busSize op)).errorReply with fresh := s.fresh + freshStride }
  else
    let r := s.wakeUp.busDo a op
    .next { k r.1 with reply := some r.2, fresh := s.fresh + freshStride }

/-- The host's windows of the contexts hold a range of local addresses (19 R352). -/
def State.inWindow (s : State) (a n : Nat) : Bool :=
  s.contexts.any (fun c => c.created && decide (c.window.1 ≤ a) && decide (a + n ≤ c.window.1 + c.window.2))

/-- HOST_ACCESS: an access of the host to the device's memory; one outside every window does not reach it (19 R352,
R357; DEDUCED, log 67). -/
def execHostAccess (addr : Nat) (op : BusOp) (s : State) : Out :=
  if s.inService && !s.inWindow addr (busSize op) then .next s.wakeUp.errorReply
  else s.busAccess addr op (fun t => t)

/-- TRELLIS_ACCESS: an access of another device, performed here (19 R358, 18 R318). An access of the device's
own number, or of one that is unassigned, does not arrive, and none arrives at a standalone device (19 R367). -/
def execTrellisAccess (device addr : Nat) (op : BusOp) (s : State) : Out :=
  if device = s.mgmt.devno ∨ 2304 ≤ device ∨ s.mgmt.standalone = true then .next s
  else s.busAccess addr op (fun t => t)

/-- Boot step 9 was skipped: the Ethernet ports are down (19 R367). -/
def Mgmt.portsDown (m : Mgmt) : Bool := m.paths.getD 8 0 == 2

/-- RDMA_MESSAGE: a write or an atomic is performed, then the steward writes the message's completion entry, a release
at system scope (19 R359). Nothing arrives where the ports are down. -/
def execRdmaMessage (addr : Nat) (op : BusOp) (flag : Option (Nat × DWord)) (s : State) : Out :=
  if s.mgmt.portsDown then .next s
  else
    match flag with
    | none => s.busAccess addr op (fun t => t)
    | some x =>
      if unassignedIn x.1 8 then .fault (.unassignedAddress x.1)
      else s.busAccess addr op (fun t => t.busWrite x.1 (bytesOf x.2.toNat 8))

/-- DEVICE_LEAVES_DOMAIN: every later access to that device's frames is refused (19 R358). -/
def execDeviceLeavesDomain (device : Nat) (s : State) : Out :=
  if device = s.mgmt.devno ∨ s.mgmt.left.contains device then .next s
  else .next { s with mgmt := { s.mgmt with left := device :: s.mgmt.left } }

/-- PORT_HALF_WIDTH: the port runs at half width and an event is posted; `port` holds the I/O die in its low
byte and the port group above it (19 R356, R358). -/
def execPortHalfWidth (port lanes : Nat) (s : State) : Out :=
  if s.mgmt.halfPorts.any (fun x => x.1 == port) then .next s
  else
    .next (State.postEvent
      { s with mgmt := { s.mgmt with halfPorts := s.mgmt.halfPorts ++ [(port, lanes)] } } 4 0 (port % 65536))

/-! ### The management window (19 R355, R356, R360, R371) -/

/-- POWER_CONTROL_WRITE: bits 27:0 are the tolerance, every other bit is ignored (19 R360). -/
def execPowerControlWrite (v : Word) (s : State) : Out :=
  .next (s.wakeUp.onMgmt (fun m => { m with tol := bits v.toNat 27 0 }))

/-- RETRY_WRITE: 1 to 11 request the primary path of a step at the next boot; others are ignored. -/
def execRetryWrite (v : Word) (s : State) : Out :=
  .next (s.wakeUp.onMgmt (fun m =>
    if 1 ≤ v.toNat ∧ v.toNat ≤ 11 then { m with retry := v.toNat } else m))

/-- EVRING_CONFIG_WRITE: evbase or evcap, in effect once the ring is empty. -/
def execEvringConfigWrite (base : Bool) (v : DWord) (s : State) : Out :=
  .next (s.wakeUp.onMgmt (fun m =>
    (if base then { m with evbaseW := v } else { m with evcapW := lo32 v }).settleRing))

/-- EVHEAD_WRITE: entries consumed. -/
def execEvheadWrite (v : Word) (s : State) : Out :=
  .next (s.wakeUp.onMgmt (fun m => Mgmt.settleRing { m with evhead := v }))

/-- Bytes of the nonce. -/
def Mgmt.nonceBytes (m : Mgmt) : List Byte := (List.range m.attlen).map (fun i => sget 0 m.nonce i)

/-- The image entries of a report: 1 to 32 of 68 bytes (19 R371). -/
def imageEntries (xs : List Verified) : List Byte :=
  xs.flatMap (fun x => bytesOf x.kind 2 ++ bytesOf x.svn 2 ++ (List.range 64).map (fun i => x.digest.getD i 0))

/-- The paths of steps 1 to 11 in this boot. -/
def Mgmt.pathBytes (m : Mgmt) : List Byte := (List.range 11).map (fun i => BitVec.ofNat 8 (m.paths.getD i 0))

/-- Replaced cores and retired quads of dies 0 to 3. -/
def State.repairBytes (s : State) : List Byte :=
  (List.range 4).flatMap (fun d =>
    [BitVec.ofNat 8 (s.die d).replaced, BitVec.ofNat 8 (s.die d).quadsRetired])

/-- The report of 19 R371: packed fields, signed by the identity key. -/
def State.attest (s : State) : List Byte :=
  let m := s.mgmt
  let imgs := m.verified.take 32
  let body := [BitVec.ofNat 8 m.attlen, BitVec.ofNat 8 imgs.length] ++ m.nonceBytes ++
    bytesOf m.bootseq.toNat 4 ++ bytesOf m.devno 2 ++ imageEntries imgs ++ m.pathBytes ++ s.repairBytes
  let head := bytesOf (body.length + 2 + 114) 2
  let sig := Config.ed448Sign m.identity (head ++ body)
  head ++ body ++ (List.range 114).map (fun i => sig.getD i 0)

/-- ATTESTATION_REQUEST: a write of attctl. A request with a nonce length of 1 to 64 writes the report and then
sets ready; another length sets refused. Before step 1 has verified the Sommelier's image no report is made (log 26). -/
def execAttestationRequest (v : Word) (s : State) : Out :=
  let len := bits v.toNat 6 0
  let s1 := s.wakeUp.onMgmt (fun m => { m with attlen := len })
  if !bit v.toNat 31 then .next s1
  else if len = 0 ∨ 64 < len then .next (s1.onMgmt (fun m => { m with attready := false, attrefused := true }))
  else if s.mgmt.verified.isEmpty then .next (s1.onMgmt (fun m => { m with attready := false, attrefused := false }))
  else
    .next (s1.onMgmt (fun m =>
      { m with report := putBytes [] 0 s1.attest, attready := true, attrefused := false }))

/-- What bootstat reads: the state of the boot and its step; a device in service runs no step (log 67). -/
def Mgmt.bootstat (m : Mgmt) : Nat :=
  match m.boot with
  | .inService => 0
  | .booting => 2 ^ 30 + m.step
  | .stopped => 2 * 2 ^ 30 + m.step

/-- The registers of the window: offset, width in bytes and value. evbase and evcap read as last written (log 67). -/
def Mgmt.registers (m : Mgmt) : List (Nat × Nat × Nat) :=
  [(0x000, 4, 0x4D47535A), (0x004, 4, 1), (0x008, 4, m.devno), (0x00C, 4, m.bootseq.toNat),
   (0x040, 4, m.power * 2 ^ 30 + m.tol), (0x080, 4, m.bootstat), (0x084, 4, m.retry),
   (0x0C0, 8, m.evbaseW.toNat), (0x0C8, 4, m.evcapW.toNat), (0x0CC, 4, m.evhead.toNat),
   (0x0D0, 4, m.evtail.toNat), (0x0D4, 4, m.evlost.toNat),
   (0x100, 4, m.attlen + b2n m.attrefused * 2 ^ 29 + b2n m.attready * 2 ^ 30)]

/-- A byte of the window; offsets that are not listed read 0. -/
def Mgmt.windowByte (m : Mgmt) (o : Nat) : Byte :=
  if 0x140 ≤ o ∧ o < 0x180 then sget 0 m.nonce (o - 0x140)
  else if 0x200 ≤ o ∧ o < 0x1000 then sget 0 m.report (o - 0x200)
  else
    match m.registers.find? (fun r => decide (r.1 ≤ o) && decide (o < r.1 + r.2.1)) with
    | some r => (bytesOf r.2.2 r.2.1).getD (o - r.1) 0
    | none => 0

/-- MGMT_REGISTER_WRITE: the host's other accesses of the window. A write changes bytes of the nonce; offsets that are
not listed, and read-only ones, ignore writes. A read answers the window's bytes. -/
def execMgmtRegisterWrite (off : Nat) (op : BusOp) (s : State) : Out :=
  let put (bs : List Byte) (n : Memory) (i : Nat) : Memory :=
    if 0x140 ≤ off + i ∧ off + i < 0x180 then sput 0 n (off + i - 0x140) (bs.getD i 0) else n
  let t := s.wakeUp
  match op with
  | .read n => .next { t with reply := some ((List.range n).map (fun i => t.mgmt.windowByte (off + i))) }
  | .write bs =>
    .next { t.onMgmt (fun m => { m with nonce := (List.range bs.length).foldl (put bs) m.nonce }) with
      reply := some [] }
  | .atomic .. => .next t.errorReply
  | .linkError => .next t.errorReply

/-! ### Power states (19 R360 to R363, 01 R16) -/

/-- The device is idle: no user wave, no record waiting, no engine, Solera or fining work, and no access in flight. -/
def State.idle (s : State) : Bool :=
  s.allWaves.all (fun w => (w.steward || w.absent || w.over) && w.outst.isEmpty) && s.nextQueue.isNone &&
  s.moves.isEmpty && s.savedOps.isEmpty && s.retried.isEmpty && s.dies.all (fun d => d.2.promoQ.isEmpty) &&
  s.contexts.all (fun c => c.pools.all (fun p => p.phase == 0 && !s.poolAsks c.id p.num)) &&
  s.allCores.all (fun c => c.arrayQ.isEmpty && c.tileQ.isEmpty && c.blendQ.isEmpty && c.kickQ.isEmpty &&
    c.reqQ.isEmpty && c.window == 0)

/-- The deepest state whose wake time does not exceed the tolerance; 0 holds the device in D0. -/
def deepest (tol : Nat) : Nat :=
  if 400 ≤ tol then 3 else if 40 ≤ tol then 2 else if 2 ≤ tol then 1 else 0

/-- The steward's waves are saved before D2 and leave their cores. -/
def State.saveSteward (s : State) : State :=
  let here := if s.wave.steward && !s.wave.absent then [(s.core.num, s.wave)] else []
  let there := (s.core :: s.cores).flatMap (fun c => (c.waves.filter (fun w => w.steward)).map (fun w => (c.num, w)))
  let t := (s.onCores (fun c => { c with waves := c.waves.filter (fun w => !w.steward) })).onMgmt
    (fun m => { m with parked := m.parked ++ here ++ there })
  if s.wave.steward then { t with wave := {} } else t

/-- POWER_STATE_ENTER: the deepest state that the tolerance allows, while the device is idle. -/
def execPowerStateEnter (d : BitVec 2) (s : State) : Out :=
  if s.inService && s.idle && d.toNat == deepest s.mgmt.tol then
    .next ((if 2 ≤ d.toNat then s.saveSteward else s).onMgmt (fun m => { m with power := d.toNat }))
  else .next s

/-- POWER_WAKE: the package is in D0. -/
def execPowerWake (s : State) : Out := .next s.wakeUp

/-- CLOCK_THROTTLE: the main clock changes; nothing that a program sees does (01 R16). -/
def execClockThrottle (level : Nat) (s : State) : Out :=
  .next (s.onMgmt (fun m => { m with throttle := level }))

/-! ### Reset and boot (19 R355, R366, R367) -/

/-- The device takes a number: its own memory and the host's aperture move with it (19 R358). -/
def State.renumber (s : State) (n : Nat) : State :=
  let old := s.mgmt.devno
  if old = n then s
  else
    let mine := s.mem.filter (fun c => deviceOf c.1 == old)
    let rest := s.mem.filter (fun c => deviceOf c.1 != old && deviceOf c.1 != n)
    { s with
      mem := mine.foldl (fun m c => sput 0 m (n * 2 ^ 44 + localOf c.1) c.2) rest
      mgmt := { s.mgmt with devno := n } }

/-- What is kept when the package loses its volatile state: the nonvolatile store, the repairs, and memory that
is not this device's own (log 4). -/
def State.coldStart (s : State) : State :=
  let t := s.renumber 0
  let own (a : Nat) : Bool := deviceOf a == 0 && !isHost (localOf a)
  let keep (c : Core) : Core := { num := c.num, enabled := c.enabled, retired := c.retired }
  let m : Mgmt := { bootseq := s.mgmt.bootseq + 1, journal := s.mgmt.journal, retryNow := s.mgmt.retry }
  { State.reset with
    core := keep s.core
    cores := s.cores.map keep
    dies := s.dies.map (fun d => (d.1,
      { spareCores := d.2.spareCores, replaced := d.2.replaced, quadsRetired := d.2.quadsRetired }))
    mem := t.mem.filter (fun c => !own c.1)
    mgmt := m
    agenda := s.agenda
    fresh := s.fresh }

/-- RESET_WRITE: the key resets the package and the next boot begins; another value is ignored, but the access wakes
the package (19 R362). -/
def execResetWrite (v : Word) (s : State) : Out :=
  if v = 0x52535421 then .next s.coldStart else .next s.wakeUp

/-- POWER_LOSS: all work stops; the journal keeps a step that had begun (19 R366). -/
def execPowerLoss (s : State) : Out := .next s.coldStart

/-- Writes a record of the journal. -/
def Mgmt.note (m : Mgmt) (path outcome : Nat) (code : Word) : Mgmt :=
  { m with journal := m.journal ++
      [{ boot := m.bootseq.toNat, step := m.step, path := path, outcome := outcome, code := code }] }

/-- A step failed on its last attempt: its last record with path 0 reads failed or begun (19 R367). -/
def Mgmt.failedLast (m : Mgmt) (step : Nat) : Bool :=
  match (m.journal.filter (fun j => j.step == step && j.path == 0)).getLast? with
  | none => false
  | some j => j.outcome != 1

/-- The path of a step in this boot: the fallback of a step that failed, unless a retry was requested before this boot;
step 11 has none. -/
def Mgmt.pathOf (m : Mgmt) (step : Nat) : Nat :=
  if step = 11 ∨ m.retryNow = step ∨ !m.failedLast step then 0
  else if step = 6 ∨ step = 8 ∨ step = 9 then 2
  else 1

/-- The steward's wave of a core: wave context 31, 64 registers per lane, one pass (18 R351). -/
def stewardWave (boot : Nat) (c : Core) (wid : Nat) : Wave :=
  { wid := wid, slot := 31, steward := true, g := c.p
    lanes := List.replicate c.p
      { present := true, run := .running, pc := pc48 (4 * Config.stewardEntry boot c.num), alloc := 64 } }

/-- Boot step 10 loads the steward: context 0 and the waves of cores 0, 48, 96 and 144. -/
def State.loadSteward (s : State) : State :=
  let b := s.mgmt.bootseq.toNat
  let ctx0 : Context := { id := 0, ptroot := Config.stewardTable b, ptrootW := Config.stewardTable b }
  let put (c : Core) : Core :=
    if c.num % 48 = 0 then { c with waves := c.waves ++ [stewardWave b c (s.nextWid + c.num / 48)] } else c
  { s.onCores put with
    contexts := ctx0 :: s.contexts.filter (fun c => c.id != 0)
    nextWid := s.nextWid + 4 }

/-- Boot step 6: every unit of the module tier is zero under the boot's key (22 R406). -/
def State.trainModules (s : State) : State :=
  let lo := s.mgmt.devno * 2 ^ 44 + 0x10000000000
  { s with
    mem := sclear s.mem lo 0x20000000000, unitTags := [], badUnits := [], retried := []
    mgmt := { s.mgmt with tier1 := true } }

/-! ### Firmware (19 R368, R369) -/

/-- The field of n bytes at an offset of an image. -/
def fwPart (img : List Byte) (off n : Nat) : List Byte := (img.drop off).take n

/-- The number in that field. -/
def fwNum (img : List Byte) (off n : Nat) : Nat := fromBytes (fwPart img off n)

/-- The verifier accepts an image of a kind: its header, the signer's key, the signature, the body's digest and the
security version (19 R368). -/
def fwAccepts (kind : Nat) (img : List Byte) : Bool :=
  decide (256 + fwNum img 8 8 ≤ img.length) && fwNum img 0 4 == 0x4957465A && fwNum img 4 2 == kind &&
  fwNum img 251 5 == 0 && shake256 Config.keyDigest.length (fwPart img 16 57) == Config.keyDigest &&
  Config.ed448Verify (fwPart img 16 57) (fwPart img 0 137) (fwPart img 137 114) &&
  shake256 64 (fwPart img 256 (fwNum img 8 8)) == fwPart img 73 64 &&
  decide (Config.minSvn kind ≤ fwNum img 6 2)

/-- What the report holds of an image. -/
def fwEntry (kind : Nat) (img : List Byte) : Verified :=
  { kind := kind, svn := fwNum img 6 2, digest := fwPart img 73 64 }

/-- The images that a boot step verifies on a path, with their kinds: the Sommelier's at step 1, the steward's at step
10; those of the port controllers at steps that the spec does not name (log 26). -/
def stepImages (boot step path : Nat) : List (Nat × List Byte) :=
  if path = 2 then []
  else if step = 1 then [(1, Config.firmware boot 1 path)]
  else if step = 10 then [(2, Config.firmware boot 10 path)]
  else (Config.portImages boot step path).map (fun x => (3, x))

/-- The seed of the identity key of a Sommelier image. -/
def identitySeed (digest : List Byte) : List Byte :=
  shake256 57 (Config.deviceSecret ++ digest ++
    "ZGK-4192 identity".toList.map (fun c => BitVec.ofNat 8 c.toNat))

/-- The images of a step are verified; step 1 derives the identity key and locks the device secret (19 R369). -/
def Mgmt.verify (m : Mgmt) (step path : Nat) : Mgmt :=
  let es := (stepImages m.bootseq.toNat step path).map (fun x => fwEntry x.1 x.2)
  let m1 := { m with verified := m.verified ++ es }
  let img := es.headD { kind := 1, svn := 0, digest := [] }
  if step = 1 then { m1 with identity := identitySeed img.digest, secretLocked := true } else m1

/-- The failure code of a step on a path, if it fails: an image that is not accepted, or a free outcome; a skipped step
cannot fail. -/
def bootOutcome (boot step path : Nat) : Option Word :=
  if path = 2 then none
  else if (stepImages boot step path).all (fun x => fwAccepts x.1 x.2) then Config.bootFailure boot step path
  else some Config.verifyCode

/-- The unit that the test of step 5 found bad. -/
def repairUnit (x : Nat × Option (BitVec 2)) : RetireUnit :=
  match x.2 with
  | some q => .quad x.1 q
  | none => .core x.1

/-- The effect of a step that is done. Step 5 brings in the reserve for what its test finds bad; its fallback keeps the
last good map (19 R364). -/
def State.bootEffect (s : State) (step path : Nat) : State :=
  if step = 5 then
    if path = 0 then (Config.bootRepairs s.mgmt.bootseq.toNat).foldl (fun t x => t.useReserve (repairUnit x)) s else s
  else if step = 6 then
    if path = 2 then s.onMgmt (fun m => { m with tier1 := false }) else s.trainModules
  else if step = 8 then s.renumber (if path = 2 then 0 else Config.deviceNumber s.mgmt.bootseq.toNat % 2304)
  else if step = 10 then s.loadSteward
  else s

/-- A step begins: its record is written before it runs. -/
def State.bootBegin (s : State) : State :=
  let p := s.mgmt.pathOf s.mgmt.step
  s.onMgmt (fun m => { m.note p 0 0 with begun := some p })

/-- A step is done. -/
def State.bootDone (s : State) (p : Nat) : State :=
  let s1 := s.bootEffect s.mgmt.step p
  s1.onMgmt (fun m =>
    let m1 := (m.note p 1 0).verify m.step p
    if m.step = 11 then { m1 with begun := none, boot := .inService, paths := m.paths ++ [p] }
    else { m1 with begun := none, step := m.step + 1, paths := m.paths ++ [p] })

/-- A step has failed: the package resets and the next boot begins, or boot stops where the fallback, or step
11, failed. -/
def State.bootFail (s : State) (p : Nat) (code : Word) : State :=
  let s1 := s.onMgmt (fun m => m.note p 2 code)
  if p ≠ 0 ∨ s.mgmt.step = 11 then s1.onMgmt (fun m => { m with begun := none, boot := .stopped })
  else s1.coldStart

/-- BOOT: the next step of the boot begins, or the step that has begun ends. -/
def execBoot (s : State) : Out :=
  match s.mgmt.boot with
  | .inService => .next s
  | .stopped => .next s
  | .booting =>
    match s.mgmt.begun with
    | none => .next s.bootBegin
    | some p =>
      match bootOutcome s.mgmt.bootseq.toNat s.mgmt.step p with
      | none => .next (s.bootDone p)
      | some code => .next (s.bootFail p code)

end Sys2Proof.Machine
end

