-- ==== Sys2Proof/Machine/Dispatch.lean ====
section
/-!
DEFINITION. Sys2Proof/Machine/Dispatch.lean: one arm per row of spec/opcode_table.json, each one direct
call of that row's own meaning.
-/

namespace Sys2Proof.Machine

open Sys2Proof

/-- What one step of the machine does (02 R19, 95_what_each_step_holds.md). -/
def exec (i : Instr) (s : State) : Host.Outcome State Fault Refusal :=
  match i with
  | .add st f d a b => Sys2Proof.Machine.execAdd st f d a b s
  | .sub st f d a b => Sys2Proof.Machine.execSub st f d a b s
  | .mul st f d a b => Sys2Proof.Machine.execMul st f d a b s
  | .mulhI32 st f d a b => Sys2Proof.Machine.execMulhI32 st f d a b s
  | .mulhN32 st f d a b => Sys2Proof.Machine.execMulhN32 st f d a b s
  | .divI32 st f d a b => Sys2Proof.Machine.execDivI32 st f d a b s
  | .divN32 st f d a b => Sys2Proof.Machine.execDivN32 st f d a b s
  | .remI32 st f d a b => Sys2Proof.Machine.execRemI32 st f d a b s
  | .remN32 st f d a b => Sys2Proof.Machine.execRemN32 st f d a b s
  | .andI st f d a b => Sys2Proof.Machine.execAndI st f d a b s
  | .orI st f d a b => Sys2Proof.Machine.execOrI st f d a b s
  | .xorI st f d a b => Sys2Proof.Machine.execXorI st f d a b s
  | .andn st f d a b => Sys2Proof.Machine.execAndn st f d a b s
  | .shl st f d a b => Sys2Proof.Machine.execShl st f d a b s
  | .shr st f d a b => Sys2Proof.Machine.execShr st f d a b s
  | .sar st f d a b => Sys2Proof.Machine.execSar st f d a b s
  | .rol st f d a b => Sys2Proof.Machine.execRol st f d a b s
  | .minI32 st f d a b => Sys2Proof.Machine.execMinI32 st f d a b s
  | .minN32 st f d a b => Sys2Proof.Machine.execMinN32 st f d a b s
  | .maxI32 st f d a b => Sys2Proof.Machine.execMaxI32 st f d a b s
  | .maxN32 st f d a b => Sys2Proof.Machine.execMaxN32 st f d a b s
  | .clz st f d a => Sys2Proof.Machine.execClz st f d a s
  | .popc st f d a => Sys2Proof.Machine.execPopc st f d a s
  | .brev st f d a => Sys2Proof.Machine.execBrev st f d a s
  | .addsatI32 st f d a b => Sys2Proof.Machine.execAddsatI32 st f d a b s
  | .subsatI32 st f d a b => Sys2Proof.Machine.execSubsatI32 st f d a b s
  | .imad st d a b c => Sys2Proof.Machine.execImad st d a b c s
  | .icmp st f c p a b => Sys2Proof.Machine.execIcmp st f c p a b s
  | .movl st d imm => Sys2Proof.Machine.execMovl st d imm s
  | .movh st d imm => Sys2Proof.Machine.execMovh st d imm s
  | .addi st d imm => Sys2Proof.Machine.execAddi st d imm s
  | .movlS st d imm => Sys2Proof.Machine.execMovlS st d imm s
  | .fadd st f d a b => Sys2Proof.Machine.execFadd st f d a b s
  | .fsub st f d a b => Sys2Proof.Machine.execFsub st f d a b s
  | .fmul st f d a b => Sys2Proof.Machine.execFmul st f d a b s
  | .fmin st f d a b => Sys2Proof.Machine.execFmin st f d a b s
  | .fmax st f d a b => Sys2Proof.Machine.execFmax st f d a b s
  | .fabs st f d a => Sys2Proof.Machine.execFabs st f d a s
  | .fneg st f d a => Sys2Proof.Machine.execFneg st f d a s
  | .fsat st f d a => Sys2Proof.Machine.execFsat st f d a s
  | .fma st d a b c => Sys2Proof.Machine.execFma st d a b c s
  | .fms st d a b c => Sys2Proof.Machine.execFms st d a b c s
  | .fnma st d a b c => Sys2Proof.Machine.execFnma st d a b c s
  | .fnms st d a b c => Sys2Proof.Machine.execFnms st d a b c s
  | .fcmp st f c p a b => Sys2Proof.Machine.execFcmp st f c p a b s
  | .frcp st d a => Sys2Proof.Machine.execFrcp st d a s
  | .frsq st d a => Sys2Proof.Machine.execFrsq st d a s
  | .fsqrt st d a => Sys2Proof.Machine.execFsqrt st d a s
  | .fdiv st d a b => Sys2Proof.Machine.execFdiv st d a b s
  | .fexp2 st d a => Sys2Proof.Machine.execFexp2 st d a s
  | .flog2 st d a => Sys2Proof.Machine.execFlog2 st d a s
  | .frndRn st d a => Sys2Proof.Machine.execFrndRn st d a s
  | .frndRz st d a => Sys2Proof.Machine.execFrndRz st d a s
  | .frndRu st d a => Sys2Proof.Machine.execFrndRu st d a s
  | .frndRd st d a => Sys2Proof.Machine.execFrndRd st d a s
  | .padd st t d a b => Sys2Proof.Machine.execPadd st t d a b s
  | .psub st t d a b => Sys2Proof.Machine.execPsub st t d a b s
  | .pmul st t d a b => Sys2Proof.Machine.execPmul st t d a b s
  | .pmin st t d a b => Sys2Proof.Machine.execPmin st t d a b s
  | .pmax st t d a b => Sys2Proof.Machine.execPmax st t d a b s
  | .pfma st t d a b => Sys2Proof.Machine.execPfma st t d a b s
  | .dadd st d a b => Sys2Proof.Machine.execDadd st d a b s
  | .dsub st d a b => Sys2Proof.Machine.execDsub st d a b s
  | .dmul st d a b => Sys2Proof.Machine.execDmul st d a b s
  | .dmin st d a b => Sys2Proof.Machine.execDmin st d a b s
  | .dmax st d a b => Sys2Proof.Machine.execDmax st d a b s
  | .dabs st d a => Sys2Proof.Machine.execDabs st d a s
  | .dneg st d a => Sys2Proof.Machine.execDneg st d a s
  | .dcmp st c p a b => Sys2Proof.Machine.execDcmp st c p a b s
  | .dfma st d a b c => Sys2Proof.Machine.execDfma st d a b c s
  | .cvt st dst rnd src d a => Sys2Proof.Machine.execCvt st dst rnd src d a s
  | .qnt st d a b => Sys2Proof.Machine.execQnt st d a b s
  | .dqn st d a b => Sys2Proof.Machine.execDqn st d a b s
  | .add64 st d a b => Sys2Proof.Machine.execAdd64 st d a b s
  | .sub64 st d a b => Sys2Proof.Machine.execSub64 st d a b s
  | .cmp64 st c p a b => Sys2Proof.Machine.execCmp64 st c p a b s
  | .lea st h d a b => Sys2Proof.Machine.execLea st h d a b s
  | .shflIdx st d a b => Sys2Proof.Machine.execShflIdx st d a b s
  | .shflUp st d a b => Sys2Proof.Machine.execShflUp st d a b s
  | .shflDown st d a b => Sys2Proof.Machine.execShflDown st d a b s
  | .shflXor st d a b => Sys2Proof.Machine.execShflXor st d a b s
  | .perm st d a b => Sys2Proof.Machine.execPerm st d a b s
  | .voteAny st p q => Sys2Proof.Machine.execVoteAny st p q s
  | .voteAll st p q => Sys2Proof.Machine.execVoteAll st p q s
  | .voteBallot st d q b => Sys2Proof.Machine.execVoteBallot st d q b s
  | .bcast st d a b => Sys2Proof.Machine.execBcast st d a b s
  | .matchL st d a => Sys2Proof.Machine.execMatchL st d a s
  | .xred st o d a => Sys2Proof.Machine.execXred st o d a s
  | .xscanInc st o d a => Sys2Proof.Machine.execXscanInc st o d a s
  | .xscanExc st o d a => Sys2Proof.Machine.execXscanExc st o d a s
  | .xseg st o d a p => Sys2Proof.Machine.execXseg st o d a p s
  | .pand st d a b => Sys2Proof.Machine.execPand st d a b s
  | .por st d a b => Sys2Proof.Machine.execPor st d a b s
  | .pxor st d a b => Sys2Proof.Machine.execPxor st d a b s
  | .pandn st d a b => Sys2Proof.Machine.execPandn st d a b s
  | .pnot st d a => Sys2Proof.Machine.execPnot st d a s
  | .pmov st d a => Sys2Proof.Machine.execPmov st d a s
  | .whenP st p sense k => Sys2Proof.Machine.execWhenP st p sense k s
  | .sel st p d a b => Sys2Proof.Machine.execSel st p d a b s
  | .width st d a => Sys2Proof.Machine.execWidth st d a s
  | .vxld st d a => Sys2Proof.Machine.execVxld st d a s
  | .vxst st d a => Sys2Proof.Machine.execVxst st d a s
  | .ld st t sc d c x k => Sys2Proof.Machine.execLd st t sc d c x k s
  | .ldnr st t sc d c x k => Sys2Proof.Machine.execLdnr st t sc d c x k s
  | .store st t sc d c x k => Sys2Proof.Machine.execStore st t sc d c x k s
  | .vldN32 st d v x k => Sys2Proof.Machine.execVldN32 st d v x k s
  | .vldN64 st d v x k => Sys2Proof.Machine.execVldN64 st d v x k s
  | .vldCap st d v x k => Sys2Proof.Machine.execVldCap st d v x k s
  | .vstN32 st d v x k => Sys2Proof.Machine.execVstN32 st d v x k s
  | .vstN64 st d v x k => Sys2Proof.Machine.execVstN64 st d v x k s
  | .vstCap st d v x k => Sys2Proof.Machine.execVstCap st d v x k s
  | .vldsN32 st d v pair k => Sys2Proof.Machine.execVldsN32 st d v pair k s
  | .vstN8 st d v x k => Sys2Proof.Machine.execVstN8 st d v x k s
  | .atom st t o sc d4 c pair k => Sys2Proof.Machine.execAtom st t o sc d4 c pair k s
  | .ared st t o sc d4 c pair k => Sys2Proof.Machine.execAred st t o sc d4 c pair k s
  | .fence st sc => Sys2Proof.Machine.execFence st sc s
  | .ldaN32 st sc d c x k => Sys2Proof.Machine.execLdaN32 st sc d c x k s
  | .ldaN64 st sc d c x k => Sys2Proof.Machine.execLdaN64 st sc d c x k s
  | .stlN32 st sc d c x k => Sys2Proof.Machine.execStlN32 st sc d c x k s
  | .stlN64 st sc d c x k => Sys2Proof.Machine.execStlN64 st sc d c x k s
  | .ifence st sc => Sys2Proof.Machine.execIfence st sc s
  | .dfence st sc => Sys2Proof.Machine.execDfence st sc s
  | .gathN32 st sc d q x k => Sys2Proof.Machine.execGathN32 st sc d q x k s
  | .gathN64 st sc d q x k => Sys2Proof.Machine.execGathN64 st sc d q x k s
  | .scatN32 st sc d q x k => Sys2Proof.Machine.execScatN32 st sc d q x k s
  | .scatN64 st sc d q x k => Sys2Proof.Machine.execScatN64 st sc d q x k s
  | .cnarrow st d4 a4 b4 => Sys2Proof.Machine.execCnarrow st d4 a4 b4 s
  | .cperm st d4 a4 b => Sys2Proof.Machine.execCperm st d4 a4 b s
  | .cgetBase st d a4 => Sys2Proof.Machine.execCgetBase st d a4 s
  | .cgetLen st d a4 => Sys2Proof.Machine.execCgetLen st d a4 s
  | .cgetPerm st d a4 => Sys2Proof.Machine.execCgetPerm st d a4 s
  | .cgetTid st d a4 => Sys2Proof.Machine.execCgetTid st d a4 s
  | .cgetTag st d a4 => Sys2Proof.Machine.execCgetTag st d a4 s
  | .cmov st d4 a4 srcV dstS => Sys2Proof.Machine.execCmov st d4 a4 srcV dstS s
  | .vmap st sc d c pair k => Sys2Proof.Machine.execVmap st sc d c pair k s
  | .vsync st sc d k => Sys2Proof.Machine.execVsync st sc d k s
  | .vunmap st sc d k => Sys2Proof.Machine.execVunmap st sc d k s
  | .preq st d c x k => Sys2Proof.Machine.execPreq st d c x k s
  | .pwait st d => Sys2Proof.Machine.execPwait st d s
  | .pcancel st d k => Sys2Proof.Machine.execPcancel st d k s
  | .promo st d c x k => Sys2Proof.Machine.execPromo st d c x k s
  | .mld st j c pair k => Sys2Proof.Machine.execMld st j c pair k s
  | .cflush st c x k => Sys2Proof.Machine.execCflush st c x k s
  | .kvalloc st sc d c x k => Sys2Proof.Machine.execKvalloc st sc d c x k s
  | .kvset st sc d c x k => Sys2Proof.Machine.execKvset st sc d c x k s
  | .binit st sc d v x k => Sys2Proof.Machine.execBinit st sc d v x k s
  | .barr st sc d v x k => Sys2Proof.Machine.execBarr st sc d v x k s
  | .bexp st sc d v x k => Sys2Proof.Machine.execBexp st sc d v x k s
  | .bwait st sc d v x => Sys2Proof.Machine.execBwait st sc d v x s
  | .btest st sc d v x k => Sys2Proof.Machine.execBtest st sc d v x k s
  | .kick st a v e => Sys2Proof.Machine.execKick st a v e s
  | .ofence st => Sys2Proof.Machine.execOfence st s
  | .blendStat st a4 e => Sys2Proof.Machine.execBlendStat st a4 e s
  | .blendAcc st a4 e => Sys2Proof.Machine.execBlendAcc st a4 e s
  | .rank st a4 b v e => Sys2Proof.Machine.execRank st a4 b v e s
  | .unrank st a v e => Sys2Proof.Machine.execUnrank st a v e s
  | .attld st a t e => Sys2Proof.Machine.execAttld st a t e s
  | .ldstat st a4 e => Sys2Proof.Machine.execLdstat st a4 e s
  | .ldstatSp st a4 j e => Sys2Proof.Machine.execLdstatSp st a4 j e s
  | .swap st => Sys2Proof.Machine.execSwap st s
  | .mma st a2 t v e => Sys2Proof.Machine.execMma st a2 t v e s
  | .mmar st a2 t e => Sys2Proof.Machine.execMmar st a2 t e s
  | .tclr st t => Sys2Proof.Machine.execTclr st t s
  | .tclrFill st a t => Sys2Proof.Machine.execTclrFill st a t s
  | .tmovVat st a2 t e => Sys2Proof.Machine.execTmovVat st a2 t e s
  | .tmovV st a t v e => Sys2Proof.Machine.execTmovV st a t v e s
  | .trowMax st t v e => Sys2Proof.Machine.execTrowMax st t v e s
  | .trowSum st t v e => Sys2Proof.Machine.execTrowSum st t v e s
  | .trowRescale st t v e => Sys2Proof.Machine.execTrowRescale st t v e s
  | .trowNorm st t v e => Sys2Proof.Machine.execTrowNorm st t v e s
  | .relset st a4 b4 slot e => Sys2Proof.Machine.execRelset st a4 b4 slot e s
  | .lblset st a4 e => Sys2Proof.Machine.execLblset st a4 e s
  | .lsum st a4 e => Sys2Proof.Machine.execLsum st a4 e s
  | .ltest st a2 p slot e => Sys2Proof.Machine.execLtest st a2 p slot e s
  | .brp st p sense o => Sys2Proof.Machine.execBrp st p sense o s
  | .bra st o => Sys2Proof.Machine.execBra st o s
  | .brx st a2 => Sys2Proof.Machine.execBrx st a2 s
  | .brt st c b => Sys2Proof.Machine.execBrt st c b s
  | .callx st a2 => Sys2Proof.Machine.execCallx st a2 s
  | .call st o => Sys2Proof.Machine.execCall st o s
  | .ret st => Sys2Proof.Machine.execRet st s
  | .join st p im => Sys2Proof.Machine.execJoin st p im s
  | .fork st p a2 b => Sys2Proof.Machine.execFork st p a2 b s
  | .spawn st p a2 b => Sys2Proof.Machine.execSpawn st p a2 b s
  | .endF st => Sys2Proof.Machine.execEndF st s
  | .launch st p a b => Sys2Proof.Machine.execLaunch st p a b s
  | .yieldW st => Sys2Proof.Machine.execYieldW st s
  | .waitd st m => Sys2Proof.Machine.execWaitd st m s
  | .wset st im => Sys2Proof.Machine.execWset st im s
  | .wslide st im => Sys2Proof.Machine.execWslide st im s
  | .srd st d r => Sys2Proof.Machine.execSrd st d r s
  | .swr st d r => Sys2Proof.Machine.execSwr st d r s
  | .cnt st d c => Sys2Proof.Machine.execCnt st d c s
  | .trap st d c => Sys2Proof.Machine.execTrap st d c s
  | .tret st => Sys2Proof.Machine.execTret st s
  | .brk st => Sys2Proof.Machine.execBrk st s
  | .tlbiPage st sc a2 b => Sys2Proof.Machine.execTlbiPage st sc a2 b s
  | .tlbiCtx st sc b => Sys2Proof.Machine.execTlbiCtx st sc b s
  | .tlbiAll st sc => Sys2Proof.Machine.execTlbiAll st sc s
  | .wtwake st a b => Sys2Proof.Machine.execWtwake st a b s
  | .swrSkipcnt st d => Sys2Proof.Machine.execSwrSkipcnt st d s
  | .swrTimer st d => Sys2Proof.Machine.execSwrTimer st d s
  | .swrTctl st d => Sys2Proof.Machine.execSwrTctl st d s
  | .swrSlim st d => Sys2Proof.Machine.execSwrSlim st d s
  | .swrFpctl st d => Sys2Proof.Machine.execSwrFpctl st d s
  | .swrFpstat st d => Sys2Proof.Machine.execSwrFpstat st d s
  | .srdCounter st d c => Sys2Proof.Machine.execSrdCounter st d c s
  | .sfqheadWrite st d => Sys2Proof.Machine.execSfqheadWrite st d s
  | .clauseDecode => Sys2Proof.Machine.execClauseDecode s
  | .detStep => Sys2Proof.Machine.execDetStep s
  | .interlockResult k => Sys2Proof.Machine.execInterlockResult k s
  | .accessComplete k => Sys2Proof.Machine.execAccessComplete k s
  | .engineCommandComplete u => Sys2Proof.Machine.execEngineCommandComplete u s
  | .mmaChunk => Sys2Proof.Machine.execMmaChunk s
  | .timerExpire => Sys2Proof.Machine.execTimerExpire s
  | .groupFail => Sys2Proof.Machine.execGroupFail s
  | .tlbiAck core => Sys2Proof.Machine.execTlbiAck core s
  | .launchAccept ctx queue => Sys2Proof.Machine.execLaunchAccept ctx queue s
  | .groupStart launch core => Sys2Proof.Machine.execGroupStart launch core s
  | .clusterStart launch cluster => Sys2Proof.Machine.execClusterStart launch cluster s
  | .groupEnd group => Sys2Proof.Machine.execGroupEnd group s
  | .binTimeout launch entry => Sys2Proof.Machine.execBinTimeout launch entry s
  | .cooperLaunch => Sys2Proof.Machine.execCooperLaunch s
  | .binSteal core => Sys2Proof.Machine.execBinSteal core s
  | .stealQueuePost launch entry => Sys2Proof.Machine.execStealQueuePost launch entry s
  | .preemptRequest core => Sys2Proof.Machine.execPreemptRequest core s
  | .powerStateEnter d => Sys2Proof.Machine.execPowerStateEnter d s
  | .preemptAck core => Sys2Proof.Machine.execPreemptAck core s
  | .restore ctx seq core => Sys2Proof.Machine.execRestore ctx seq core s
  | .followOnEntry => Sys2Proof.Machine.execFollowOnEntry s
  | .decanterRequestBegin => Sys2Proof.Machine.execDecanterRequestBegin s
  | .decanterSegment => Sys2Proof.Machine.execDecanterSegment s
  | .soleraPromote ctx page frame => Sys2Proof.Machine.execSoleraPromote ctx page frame s
  | .moveInstall ctx page => Sys2Proof.Machine.execMoveInstall ctx page s
  | .finingStart ctx pool => Sys2Proof.Machine.execFiningStart ctx pool s
  | .finingMark ctx pool => Sys2Proof.Machine.execFiningMark ctx pool s
  | .finingClose ctx pool => Sys2Proof.Machine.execFiningClose ctx pool s
  | .finingSweep ctx pool => Sys2Proof.Machine.execFiningSweep ctx pool s
  | .boot => Sys2Proof.Machine.execBoot s
  | .issueStarvationPromote wid => Sys2Proof.Machine.execIssueStarvationPromote wid s
  | .vatStarvationPromote r => Sys2Proof.Machine.execVatStarvationPromote r s
  | .homeRefusal k why => Sys2Proof.Machine.execHomeRefusal k why s
  | .boundaryTrap => Sys2Proof.Machine.execBoundaryTrap s
  | .hardwareError u => Sys2Proof.Machine.execHardwareError u s
  | .collectorWindowClose => Sys2Proof.Machine.execCollectorWindowClose s
  | .contextCreate ctx ptroot tdtbase tdtcnt save spill => Sys2Proof.Machine.execContextCreate ctx ptroot tdtbase tdtcnt save spill s
  | .codeObjectRegister ctx handle addr => Sys2Proof.Machine.execCodeObjectRegister ctx handle addr s
  | .queueCreate ctx queue addr => Sys2Proof.Machine.execQueueCreate ctx queue addr s
  | .rootInstall ctx cap => Sys2Proof.Machine.execRootInstall ctx cap s
  | .poolRegister ctx pool addr => Sys2Proof.Machine.execPoolRegister ctx pool addr s
  | .racking group core => Sys2Proof.Machine.execRacking group core s
  | .soleraDemote ctx page frame => Sys2Proof.Machine.execSoleraDemote ctx page frame s
  | .moduleTierRead addr n => Sys2Proof.Machine.execModuleTierRead addr n s
  | .moduleTierWrite addr bytes => Sys2Proof.Machine.execModuleTierWrite addr bytes s
  | .hostAccess addr op => Sys2Proof.Machine.execHostAccess addr op s
  | .trellisAccess device addr op => Sys2Proof.Machine.execTrellisAccess device addr op s
  | .rdmaMessage addr op flag => Sys2Proof.Machine.execRdmaMessage addr op flag s
  | .portHalfWidth port lanes => Sys2Proof.Machine.execPortHalfWidth port lanes s
  | .powerControlWrite v => Sys2Proof.Machine.execPowerControlWrite v s
  | .retryWrite v => Sys2Proof.Machine.execRetryWrite v s
  | .resetWrite v => Sys2Proof.Machine.execResetWrite v s
  | .evringConfigWrite base v => Sys2Proof.Machine.execEvringConfigWrite base v s
  | .evheadWrite v => Sys2Proof.Machine.execEvheadWrite v s
  | .attestationRequest v => Sys2Proof.Machine.execAttestationRequest v s
  | .mgmtRegisterWrite off op => Sys2Proof.Machine.execMgmtRegisterWrite off op s
  | .powerWake => Sys2Proof.Machine.execPowerWake s
  | .clockThrottle level => Sys2Proof.Machine.execClockThrottle level s
  | .coreRetire u => Sys2Proof.Machine.execCoreRetire u s
  | .powerLoss => Sys2Proof.Machine.execPowerLoss s
  | .deviceLeavesDomain device => Sys2Proof.Machine.execDeviceLeavesDomain device s

end Sys2Proof.Machine
end

