-- ==== Sys2Proof/Machine/Schedule.lean ====
section
/-!
DEFINITION. Sys2Proof/Machine/Schedule.lean: which of the device's agents moves next (09 R199, R200, 13 R273,
18 R334, 21 R389). The spec fixes few of these choices: `agenda` may place any event at any step, and what
follows is the order the model takes otherwise (DESIGN CHOICE, log 52).
-/

namespace Sys2Proof.Machine

open Sys2Proof

/-! ### Events -/

/-- What a row of the table is: an instruction word, an event inside the package, or one that comes from outside its
cores or that the Sommelier makes, which no power state holds back. -/
inductive RowKind where
  | word | inside | outside
  deriving DecidableEq, Repr

/-- The kind of each row. -/
def rowKind : Instr → RowKind
  | .clauseDecode | .issueStarvationPromote _ | .vatStarvationPromote _ | .detStep | .interlockResult _ => .inside
  | .accessComplete _ | .engineCommandComplete _ | .mmaChunk | .homeRefusal .. | .timerExpire => .inside
  | .boundaryTrap | .contextCreate .. | .codeObjectRegister .. | .queueCreate .. | .rootInstall .. => .inside
  | .poolRegister .. | .launchAccept .. | .groupStart .. | .clusterStart .. | .groupEnd _ | .groupFail => .inside
  | .binTimeout .. | .cooperLaunch | .binSteal _ | .stealQueuePost .. | .racking .. | .preemptRequest _ => .inside
  | .preemptAck _ | .restore .. | .tlbiAck _ | .followOnEntry | .decanterRequestBegin => .inside
  | .decanterSegment | .collectorWindowClose | .soleraPromote .. | .soleraDemote .. | .moveInstall .. => .inside
  | .finingStart .. | .finingMark .. | .finingClose .. | .finingSweep .. | .coreRetire _ => .inside
  | .hardwareError _ | .moduleTierRead .. | .moduleTierWrite .. | .hostAccess .. | .trellisAccess .. => .outside
  | .rdmaMessage .. | .portHalfWidth .. | .powerControlWrite _ | .retryWrite _ | .resetWrite _ => .outside
  | .evringConfigWrite .. | .evheadWrite _ | .attestationRequest _ | .mgmtRegisterWrite .. => .outside
  | .powerStateEnter _ | .powerWake | .clockThrottle _ | .boot | .powerLoss | .deviceLeavesDomain _ => .outside
  | .add .. | .sub .. | .mul .. | .mulhI32 .. | .mulhN32 .. | .divI32 .. | .divN32 .. | .remI32 .. => .word
  | .remN32 .. | .andI .. | .orI .. | .xorI .. | .andn .. | .shl .. | .shr .. | .sar .. | .rol .. => .word
  | .minI32 .. | .minN32 .. | .maxI32 .. | .maxN32 .. | .clz .. | .popc .. | .brev .. | .addsatI32 .. => .word
  | .subsatI32 .. | .imad .. | .icmp .. | .movl .. | .movh .. | .addi .. | .movlS .. | .fadd .. => .word
  | .fsub .. | .fmul .. | .fmin .. | .fmax .. | .fabs .. | .fneg .. | .fsat .. | .fma .. | .fms .. => .word
  | .fnma .. | .fnms .. | .fcmp .. | .frcp .. | .frsq .. | .fsqrt .. | .fdiv .. | .fexp2 .. | .flog2 .. => .word
  | .frndRn .. | .frndRz .. | .frndRu .. | .frndRd .. | .padd .. | .psub .. | .pmul .. | .pmin .. => .word
  | .pmax .. | .pfma .. | .dadd .. | .dsub .. | .dmul .. | .dmin .. | .dmax .. | .dabs .. | .dneg .. => .word
  | .dcmp .. | .dfma .. | .cvt .. | .qnt .. | .dqn .. | .add64 .. | .sub64 .. | .cmp64 .. | .lea .. => .word
  | .shflIdx .. | .shflUp .. | .shflDown .. | .shflXor .. | .perm .. | .voteAny .. | .voteAll .. => .word
  | .voteBallot .. | .bcast .. | .matchL .. | .xred .. | .xscanInc .. | .xscanExc .. | .xseg .. => .word
  | .pand .. | .por .. | .pxor .. | .pandn .. | .pnot .. | .pmov .. | .whenP .. | .sel .. | .width .. => .word
  | .vxld .. | .vxst .. | .ld .. | .ldnr .. | .store .. | .vldN32 .. | .vldN64 .. | .vldCap .. => .word
  | .vstN32 .. | .vstN64 .. | .vstCap .. | .vldsN32 .. | .vstN8 .. | .atom .. | .ared .. | .fence .. => .word
  | .ldaN32 .. | .ldaN64 .. | .stlN32 .. | .stlN64 .. | .ifence .. | .dfence .. | .gathN32 .. => .word
  | .gathN64 .. | .scatN32 .. | .scatN64 .. | .cnarrow .. | .cperm .. | .cgetBase .. | .cgetLen .. => .word
  | .cgetPerm .. | .cgetTid .. | .cgetTag .. | .cmov .. | .vmap .. | .vsync .. | .vunmap .. | .preq .. => .word
  | .pwait .. | .pcancel .. | .promo .. | .mld .. | .cflush .. | .kvalloc .. | .kvset .. | .binit .. => .word
  | .barr .. | .bexp .. | .bwait .. | .btest .. | .kick .. | .ofence .. | .blendStat .. | .blendAcc .. => .word
  | .rank .. | .unrank .. | .attld .. | .ldstat .. | .ldstatSp .. | .swap .. | .mma .. | .mmar .. => .word
  | .tclr .. | .tclrFill .. | .tmovVat .. | .tmovV .. | .trowMax .. | .trowSum .. | .trowRescale .. => .word
  | .trowNorm .. | .relset .. | .lblset .. | .lsum .. | .ltest .. | .brp .. | .bra .. | .brx .. | .brt .. => .word
  | .callx .. | .call .. | .ret .. | .join .. | .fork .. | .spawn .. | .endF .. | .launch .. | .yieldW .. => .word
  | .waitd .. | .wset .. | .wslide .. | .srd .. | .swr .. | .cnt .. | .trap .. | .tret .. | .brk .. => .word
  | .tlbiPage .. | .tlbiCtx .. | .tlbiAll .. | .wtwake .. | .swrSkipcnt .. | .swrTimer .. | .swrTctl .. => .word
  | .swrSlim .. | .swrFpctl .. | .swrFpstat .. | .srdCounter .. | .sfqheadWrite .. => .word

/-- The rows of the table that are events and no instruction words. -/
def isEvent (i : Instr) : Bool := rowKind i != .word

/-- Whether an event may happen now: in D1 to D3 the cores, the engines and the steward stand still (19 R361). -/
def State.mayHappen (s : State) (i : Instr) : Bool :=
  isEvent i && (s.mgmt.power == 0 || rowKind i == .outside)

/-- The events of a list whose condition holds. -/
def enabled (xs : List (Bool × Instr)) : List Instr := xs.filterMap (fun x => if x.1 then some x.2 else none)

/-! ### Events of the core at the issue port -/

/-- A token whose wait-table entry is still pending. -/
def State.waits (s : State) (ctx : Nat) (tok : Option Word) : Bool :=
  match tok with
  | none => false
  | some t =>
    match s.tokenEntry ctx t with
    | none => false
    | some x => x.2.state == .pending

/-- What the Vat's requesters on the core at the issue port can do now, in the order in which they take the Vat: the
matrix array before the decanter before the load-store unit, unless another takes first place (01 R11). DESIGN CHOICE
(log 52): the tile port, which R11 does not name, takes the Vat as the array does. On a core that runs a deterministic
launch its steps alone move the units (09 R209). -/
def State.vatEvents (s : State) : List Instr :=
  let c := s.core
  let arr := match c.arrayQ with
    | [] => false
    | a :: _ => !s.waits (s.groupD (a.group.getD 0)).ctx a.token
  let chunk := match c.arrayQ with
    | [] => false
    | a :: _ => a.chunked && decide (a.chunks < a.chunkCount)
  let array := enabled [(arr && chunk, .mmaChunk), (arr && !chunk, .engineCommandComplete .array),
    (!c.tileQ.isEmpty, .engineCommandComplete .tilePort)]
  let dec := match c.curReq with
    | none => []
    | some x =>
      enabled [(!x.2.valid && !s.rqEarly x.2 && !s.waits (s.rqCtx x.2) x.2.token, .decanterRequestBegin),
        (x.2.valid && !s.waits (s.rqCtx x.2) x.2.token, .decanterSegment)]
  let decanter := dec ++ enabled [(c.reqQ.any (fun q => q.done && !s.waits (s.rqCtx q) q.token), .followOnEntry)]
  let lsu := match s.firstReady with
    | none => []
    | some k => [.accessComplete k]
  if (s.detOn c.num).isSome then (if s.wave.steward then lsu else []) else
   match c.first with
    | none => array ++ decanter ++ lsu
    | some .array => array ++ decanter ++ lsu
    | some .decanter => decanter ++ array ++ lsu
    | some .loadStore => lsu ++ array ++ decanter

/-- What else the wave at the issue port and the units of its core can complete now. -/
def State.unitEvents (s : State) : List Instr :=
  let c := s.core
  if (s.detOn c.num).isSome then enabled [(s.wave.steward && !s.wave.interlocks.isEmpty, .interlockResult 0)]
  else
    enabled
      [(!s.wave.interlocks.isEmpty, .interlockResult 0),
       (c.blendQ.head?.any (fun b => b.earlier == 0 && !c.engBefore b.wid b.stamp (fun _ => true)),
         .engineCommandComplete .blend),
       (c.kickQ.head?.any (fun b => b.left == 0), .engineCommandComplete .kick)]

/-- A user wave of a core that is being pre-empted does not issue (21 R389). -/
def State.blocked (s : State) : Bool := !s.wave.steward && s.core.preempt != .none

/-- A deterministic launch on the core may take a step, or must complete the one that is open (09 R209, R210). -/
def State.mayDetStep (s : State) : Bool :=
  (s.detOn s.core.num).isSome && (s.core.preempt == .none || s.inStep s.core.num)

/-- The wave at the issue port may go on: nothing it met has held it, and its turn is not over. -/
def State.canGo (s : State) : Bool :=
  !s.wave.absent && !s.wave.stalled && !s.wave.turnDone && !s.wave.det && !s.blocked

/-- The TIMER of the wave at the issue port may expire now (20 R379). -/
def State.timerReady (s : State) : Bool :=
  !s.wave.absent && !s.wave.det && !s.blocked && bit s.wave.tctl.toNat 0 && s.wave.timer != 0 &&
  Config.timerDue s.fresh

/-- A bin of the core at the issue port has room for an overflow item. -/
def State.canRefill (s : State) : Bool :=
  s.launches.any (fun x => s.refills x && x.ovf.any (fun i => (s.core.refillOne x.id x.bintmo i).isSome))

/-- The events of the core at the issue port. -/
def State.coreEvents (s : State) : List Instr :=
  let c := s.core
  enabled
    [(s.mayDetStep, .detStep), (s.timerReady, .timerExpire)] ++
  s.unitEvents ++
  enabled
    [((s.detOn c.num).isNone && (s.dueOn c || s.canRefill), .cooperLaunch),
     (c.preempt != .none && s.allStopped c.preempt.cores, .preemptAck c.num)] ++
  (c.bins.filter (fun b => !s.binDue c b && !(s.launchOf b.launch).det)).map (fun b =>
    .binTimeout b.launch (BitVec.ofNat 64 b.entry)) ++
  (c.bins.filter (fun b => s.binDue c b && !s.binFits b && !b.posted && !(s.launchOf b.launch).det)).map (fun b =>
    .stealQueuePost b.launch (BitVec.ofNat 64 b.entry))

/-! ### Events of the device -/

/-- Ended task waves are still on a core, or a launch has nothing left. -/
def State.canSweep (s : State) : Bool :=
  s.allWaves.any (fun w => !w.absent && !w.steward && w.group.isNone && w.over) ||
  s.launches.any (fun x => !x.complete && !s.workLeft x && x.ended == x.started &&
    (x.started == x.groups || x.stopped))

/-- The first core on which a launch may start its next group, or its next cluster of groups. -/
def State.placeFor (s : State) (x : Launch) : Option Nat := x.somewhere (fun n => s.mayStart x n x.batch)

/-- The launches that may start a group, with the event. -/
def State.startEvents (s : State) : List Instr :=
  (s.launches.filter (fun x => !x.complete && !x.stopped && decide (x.started < x.groups))).filterMap (fun x =>
    (s.placeFor x).map (fun n => if x.csize = 0 then .groupStart x.id n else .clusterStart x.id n))

/-- Images that a core of the device can take back. -/
def State.restoreEvents (s : State) : List Instr :=
  s.contexts.flatMap (fun c => c.images.filterMap (fun i =>
    if s.yields (s.imageClass i) then none
    else ((List.range coreCount).find? (fun n => s.imageReady c.id i n)).map (fun n => .restore c.id i.seq n)))

/-- Pre-emptions that free room for an eligible class-0 launch: of the first place whose user work is all of lower
classes (09 R207). -/
def State.victimEvents (s : State) : List Instr :=
  (s.launches.filter (fun x => s.eligible x && !s.roomFor x)).flatMap (fun x =>
    match x.somewhere (fun n => s.victim x n) with
    | none => []
    | some n =>
      let cores := if x.csize = 0 then [n] else (List.range x.csize).map (fun i => 4 * n + i)
      enabled (cores.map (fun n =>
        (s.allCores.any (fun c => c.num == n && c.preempt == .none && !s.canTake x x.batch n), .preemptRequest n))))

/-- A core that can steal a bin now (09 R204). -/
def State.stealEvents (s : State) : List Instr :=
  if s.allCores.all (fun c => c.bins.isEmpty) then []
  else (s.allCores.filter (fun c => (s.stealFrom c).isSome)).map (fun c => .binSteal c.num)

/-- TLBIs that a core may acknowledge. -/
def State.ackEvents (s : State) : List Instr :=
  (s.allCores.filter (fun c => c.tlbiPend.any (fun t => !t.blockedBy c (s.wavesOn c.num ++ s.savedFrom c.num)))).map (fun c =>
    .tlbiAck c.num)

/-- Pool work: a started cycle marks, closes and sweeps; one that is low or requested starts (22 R417). -/
def State.poolEvents (s : State) : List Instr :=
  s.contexts.flatMap (fun c => c.pools.filterMap (fun p =>
    if p.phase = 2 then some (.finingMark c.id p.num)
    else if p.phase = 3 then some (if s.kvsetPending c.id then .finingMark c.id p.num else .finingClose c.id p.num)
    else if p.phase = 4 then some (.finingSweep c.id p.num)
    else if p.phase = 1 || p.phase = 0 && s.poolAsks c.id p.num then some (.finingStart c.id p.num)
    else none))

/-- A free cask frame of a die: the lowest that is not in use. -/
def State.someFrame (s : State) (die : Nat) : Option Nat :=
  let lo := s.mgmt.devno * 2 ^ 28 + die * 1572864
  let n := s.mem.length + (s.dies.map (fun d => d.2.usedFrames.length)).sum
  ((List.range (n + 1)).map (fun i => lo + i)).find? (fun f => s.frameFree f)

/-- Moves that can end, and promotions that wait in a die's queue (22 R403, R405). -/
def State.moveEvents (s : State) : List Instr :=
  s.moves.map (fun m => .moveInstall m.ctx m.page) ++
  s.dies.flatMap (fun d => d.2.promoQ.filterMap (fun x =>
    match s.leafWord x.1 x.2 with
    | none => none
    | some e => (s.someFrame (entHome e.2)).map (fun f => .soleraPromote x.1 x.2 f)))

/-- The events of the device outside the core at the issue port. -/
def State.deviceEvents (s : State) : List Instr :=
  s.ackEvents ++ (s.groups.filter (fun g => s.canEnd g)).map (fun g => .groupEnd g.id) ++
  enabled [(s.canSweep, .groupEnd 0)] ++
  (match s.nextQueue with
    | none => []
    | some k => [.launchAccept k.2.1 k.2.2]) ++
  enabled [(s.mgmt.tol != 0 && s.idle && deepest s.mgmt.tol != 0,
    .powerStateEnter (BitVec.ofNat 2 (deepest s.mgmt.tol)))] ++
  s.startEvents ++ s.restoreEvents ++ s.victimEvents ++ s.moveEvents ++ s.poolEvents ++ s.stealEvents ++
  enabled [(!s.savedOps.isEmpty, .accessComplete s.wave.outst.length)]

/-! ### Turns -/

/-- A core has waves or work. -/
def Core.busy (c : Core) : Bool :=
  !c.waves.isEmpty || !c.arrayQ.isEmpty || !c.tileQ.isEmpty || !c.blendQ.isEmpty || !c.kickQ.isEmpty ||
  !c.reqQ.isEmpty || !c.bins.isEmpty || c.preempt != .none

/-- The next busy core comes to the issue port; the present one goes to the end of the line. -/
def State.nextCore (s : State) : State :=
  let s1 := s.parkWave
  match s1.cores.find? Core.busy with
  | none => s1
  | some c => { s1 with core := c, cores := s1.cores.filter (fun x => x.num != c.num) ++ [s1.core] }

/-- The wave that comes before all others by a test and by seniority (09 R199). -/
def senior (p : Wave → Bool) : List Wave → Option Wave
  | [] => none
  | w :: ws =>
    match senior p ws with
    | none => if p w then some w else none
    | some x => if p w && w.seniorTo x then some w else some x

/-- How often a wave that could issue is passed over before it comes first (09 R199). -/
def passLimit : Nat := 32

/-- A wave counts as ready for a turn: an ended or parked wave does not, and one that a word held does once it has
stood so for as many turns, when the word is tried again (log 52). -/
def Wave.ready (w : Wave) : Bool :=
  w.couldIssue || w.dying.isSome || (w.stalled && decide (passLimit ≤ w.heldFor))

/-- The wave of a core that has the next turn: one that was passed over 32 times before any other, and otherwise the
ready wave that has been resident longest, in the lowest wave context among equals (09 R199). Where no wave is ready
the first in line comes, so that its units and its events go on. -/
def Core.nextWave (c : Core) : Option Wave :=
  (senior (fun w => w.couldIssue && decide (passLimit ≤ w.passed)) c.waves).or
    ((senior Wave.ready c.waves).or c.waves.head?)

/-- Another wave has taken the turn: a wave that was ready has been passed over once more, one that was not ready has
not (09 R199), and one that a word holds has stood so for one more turn. -/
def Wave.waitTurn (w : Wave) : Wave :=
  { w with
    passed := if w.couldIssue then w.passed + 1 else 0
    heldFor := if w.stalled then w.heldFor + 1 else 0 }

/-- The next wave of the core comes to the issue port, with a new turn; the others wait for theirs. -/
def State.takeWave (s : State) : State :=
  match s.core.nextWave with
  | none => s
  | some w =>
    { s with
      wave := { w with stalled := false, turnDone := false, passed := 0, heldFor := 0 }
      core := { s.core with waves := (s.core.waves.filter (fun x => x.wid != w.wid)).map Wave.waitTurn } }

/-- The turn passes to the next wave. -/
def State.rotate (s : State) : State := s.nextCore.takeWave

/-- The first of the Vat's requesters that can use the Vat is served; a first place out of turn lasts for one of them
(01 R11). -/
def State.serve (s : State) : List Instr → Out
  | [] => .next s
  | e :: es =>
    match exec e s with
    | .next t => if t.progress == s.progress then t.serve es else .next (t.onCore (fun c => { c with first := none }))
    | .fault f => .fault f
    | .refused r => .refused r

/-- What the device does at every turn: the events of second reads that verified are posted (22 R408), and the losses of
pages go on (22 R409). -/
def State.chores (s : State) : State := s.postRetries.loseDead.settleLosses

/-- The wave at the issue port cannot go on: the chores of a turn are done; by turns an event happens, the Vat's
requesters counting as one, and the turn passes. -/
def State.between (s : State) : Out :=
  let t : State := { s.chores with turn := s.turn + 1 }
  let vat := s.vatEvents
  let es := s.coreEvents ++ s.deviceEvents
  let k := s.turn / 2 % max 1 (es.length + (if vat.isEmpty then 0 else 1))
  if s.turn % 2 = 0 then
    match es[k]? with
    | none => t.serve vat
    | some e => exec e t
  else .next t.rotate

/-- The instruction that the issue set stands at: the clause was decoded whole, so it decodes (02 R27). -/
def State.issueNext (s : State) : Out :=
  match decodeWord s.wave.wordHere with
  | .ok i => exec i s
  | .error _ => exec .clauseDecode (s.onWave (fun w => { w with cur := none }))

/-- What the device does next when nothing comes from outside. In D1 to D3 its cores stand still until something wakes
it (19 R361, R362). -/
def State.advance (s : State) : Out :=
  if s.mgmt.boot = .booting then exec .boot s
  else if s.mgmt.boot = .stopped then .next s
  else if s.mgmt.power ≠ 0 then .next { s with turn := s.turn + 1 }
  else if s.wave.dying.isSome then exec .groupFail s
  else if s.canGo && s.wave.cur.isSome then s.issueNext
  else if s.canGo && s.wave.choosePc.isSome then exec .clauseDecode s
  else s.between

end Sys2Proof.Machine
end

