-- ==== Sys2Proof/Machine/Step.lean ====
section
/-!
DEFINITION. Sys2Proof/Machine/Step.lean: one step of the device, and placing an instruction where the next
step takes it.
-/

namespace Sys2Proof.Machine

open Sys2Proof

/-- One step: an event of the agenda whose time has come and which may happen, or what the device does next. -/
def step (s : State) : Host.Outcome State Fault Refusal :=
  match s.agenda with
  | [] => s.advance
  | (0, e) :: rest => if s.mayHappen e then exec e { s with agenda := rest } else .next { s with agenda := rest }
  | (n + 1, e) :: rest => State.advance { s with agenda := (n, e) :: rest }

/-! ### Placing an instruction (log 53) -/

/-- The virtual address of the header of the placed clause; the low GiB maps to itself. -/
def placeAt : Nat := 0x30000

/-- The words of the placed clause: a control transfer stands alone, any other word first of 15. -/
def placedWords (w : Word) : List Word :=
  match decodeWord w with
  | .ok i => if i.isTransfer then [w] else w :: List.replicate 14 0
  | .error _ => [w]

/-- The placed clause, of class 5. -/
def placedClause (w : Word) : ClauseBuf :=
  { addr := placeAt, hdr := w32 (15 * 2 ^ 28 + (placedWords w).length * 2 ^ 24 + 5 * 2 ^ 21)
    words := placedWords w }

/-- Memory holds the clause, and two tables that map the low GiB of a context to itself, readable and
executable. -/
def State.placeBytes (s : State) (c : ClauseBuf) : State :=
  let base := s.mgmt.devno * 2 ^ 44
  let s1 := (s.wrN (base + 0x10000) (base + 0x20001) 8).wrN (base + 0x20000) (base + 0x0B) 8
  s1.wr (base + placeAt) ((c.hdr :: c.words).flatMap (fun x => bytesOf x.toNat 4))

/-- A context number that no context has. -/
def State.newCtx (s : State) : Nat := (s.contexts.map (fun c => c.id)).foldl max 0 + 1

/-- A wave of one fibre inside the placed clause, at its first word; a word that only the steward's mode admits
stands in a wave of the steward. -/
def State.placeWave (s : State) (w : Word) : State :=
  let ctx := s.newCtx
  let root : DWord := BitVec.ofNat 64 (s.mgmt.devno * 2 ^ 44 + 0x10000)
  let f : Fibre := { present := true, run := .running, pc := placeAt + 4, alloc := 128, inSet := true }
  let v : Wave :=
    { wid := s.nextWid, ctx := ctx, launch := s.nextLaunch, group := some s.nextGroup, g := 1
      steward := Sys2Proof.stewardOnly w, lanes := [f], cur := some (placedClause w) }
  { s with
    wave := v
    contexts := { id := ctx, ptroot := root, ptrootW := root } :: s.contexts
    launches := s.launches ++ [{ id := s.nextLaunch, ctx := ctx, entry := placeAt, win := 128, started := 1 }]
    groups := s.groups ++ [{ id := s.nextGroup, launch := s.nextLaunch, ctx := ctx, core := s.core.num
                             size := 65536, waves := 1 }]
    nextWid := s.nextWid + 1
    nextGroup := s.nextGroup + 1
    nextLaunch := s.nextLaunch + 1 }

/-- The state with an instruction where the next step takes it: the device in service, a context that maps the
instruction's clause, and a wave at the issue port with that clause decoded. -/
def State.withFetchWord (s : State) (_nbits w : Nat) : State :=
  let x : Word := BitVec.ofNat 32 w
  let s1 : State := { s with agenda := [], mgmt := { s.mgmt with boot := .inService, power := 0 } }
  let s2 := s1.parkWave.onCore (fun c => { c with preempt := .none })
  ((s2.claim s2.newCtx).placeBytes (placedClause x)).placeWave x

end Sys2Proof.Machine
end

