-- ==== Sys2Proof/Safety.lean ====
section
/-!
DEFINITION. Sys2Proof/Safety.lean: the canonical form of memory, the invariant of the state, and what counts
as a safe run in the terms that claims use.
-/

namespace Sys2Proof

/-! ### Families of words -/

/-- The words that work inside one wave: integer, floating-point, packed, 64-bit, predicate and cross-lane words,
window moves and waits. -/
def Instr.waveOnly : Instr → Bool
  | .add .. | .sub .. | .mul .. | .mulhI32 .. | .mulhN32 .. | .divI32 .. | .divN32 .. | .remI32 .. => true
  | .remN32 .. | .andI .. | .orI .. | .xorI .. | .andn .. | .shl .. | .shr .. | .sar .. | .rol .. => true
  | .minI32 .. | .minN32 .. | .maxI32 .. | .maxN32 .. | .clz .. | .popc .. | .brev .. => true
  | .addsatI32 .. | .subsatI32 .. | .imad .. | .icmp .. | .movl .. | .movh .. | .addi .. | .movlS .. => true
  | .fadd .. | .fsub .. | .fmul .. | .fmin .. | .fmax .. | .fabs .. | .fneg .. | .fsat .. => true
  | .fma .. | .fms .. | .fnma .. | .fnms .. | .fcmp .. | .frcp .. | .frsq .. | .fsqrt .. | .fdiv .. => true
  | .fexp2 .. | .flog2 .. | .frndRn .. | .frndRz .. | .frndRu .. | .frndRd .. => true
  | .padd .. | .psub .. | .pmul .. | .pmin .. | .pmax .. | .pfma .. => true
  | .dadd .. | .dsub .. | .dmul .. | .dmin .. | .dmax .. | .dabs .. | .dneg .. | .dcmp .. | .dfma .. => true
  | .cvt .. | .add64 .. | .sub64 .. | .cmp64 .. | .lea .. => true
  | .shflIdx .. | .shflUp .. | .shflDown .. | .shflXor .. | .perm .. | .bcast .. => true
  | .voteAny .. | .voteAll .. | .voteBallot .. | .matchL .. => true
  | .xred .. | .xscanInc .. | .xscanExc .. | .xseg .. => true
  | .pand .. | .por .. | .pxor .. | .pandn .. | .pnot .. | .pmov .. | .whenP .. | .sel .. => true
  | .width .. | .vxld .. | .vxst .. | .cmov .. => true
  | .cgetBase .. | .cgetLen .. | .cgetPerm .. | .cgetTid .. | .cgetTag .. => true
  | .yieldW .. | .waitd .. | .wset .. | .wslide .. | .swrSlim .. | .join .. | .trap .. | .brk .. => true
  | .qnt .. | .dqn .. | .ld .. | .ldnr .. | .store .. | .vldN32 .. | .vldN64 .. | .vldCap .. | .vstN32 .. => false
  | .vstN64 .. | .vstCap .. | .vldsN32 .. | .vstN8 .. | .atom .. | .ared .. | .fence .. | .ldaN32 .. => false
  | .ldaN64 .. | .stlN32 .. | .stlN64 .. | .ifence .. | .dfence .. | .gathN32 .. | .gathN64 .. | .scatN32 .. => false
  | .scatN64 .. | .cnarrow .. | .cperm .. | .vmap .. | .vsync .. | .vunmap .. | .preq .. | .pwait .. => false
  | .pcancel .. | .promo .. | .mld .. | .cflush .. | .kvalloc .. | .kvset .. | .binit .. | .barr .. | .bexp .. => false
  | .bwait .. | .btest .. | .kick .. | .ofence .. | .blendStat .. | .blendAcc .. | .rank .. | .unrank .. => false
  | .attld .. | .ldstat .. | .ldstatSp .. | .swap .. | .mma .. | .mmar .. | .tclr .. | .tclrFill .. => false
  | .tmovVat .. | .tmovV .. | .trowMax .. | .trowSum .. | .trowRescale .. | .trowNorm .. | .relset .. => false
  | .lblset .. | .lsum .. | .ltest .. | .brp .. | .bra .. | .brx .. | .brt .. | .callx .. | .call .. | .ret .. => false
  | .fork .. | .spawn .. | .endF .. | .launch .. | .srd .. | .swr .. | .cnt .. | .tret .. | .tlbiPage .. => false
  | .tlbiCtx .. | .tlbiAll .. | .wtwake .. | .swrSkipcnt .. | .swrTimer .. | .swrTctl .. | .swrFpctl .. => false
  | .swrFpstat .. | .srdCounter .. | .sfqheadWrite .. | .clauseDecode | .detStep | .interlockResult .. => false
  | .accessComplete .. | .engineCommandComplete .. | .mmaChunk | .timerExpire | .groupFail | .tlbiAck .. => false
  | .launchAccept .. | .groupStart .. | .clusterStart .. | .groupEnd .. | .binTimeout .. | .cooperLaunch => false
  | .binSteal .. | .stealQueuePost .. | .preemptAck .. | .restore .. | .followOnEntry | .decanterRequestBegin => false
  | .decanterSegment | .soleraPromote .. | .moveInstall .. | .finingStart .. | .finingMark .. => false
  | .finingClose .. | .finingSweep .. | .boot | .issueStarvationPromote .. | .vatStarvationPromote .. => false
  | .homeRefusal .. | .boundaryTrap | .hardwareError .. | .collectorWindowClose | .contextCreate .. => false
  | .codeObjectRegister .. | .queueCreate .. | .rootInstall .. | .poolRegister .. | .racking .. => false
  | .preemptRequest .. | .soleraDemote .. | .moduleTierRead .. | .moduleTierWrite .. | .hostAccess .. => false
  | .trellisAccess .. | .rdmaMessage .. | .portHalfWidth .. | .powerControlWrite .. | .retryWrite .. => false
  | .resetWrite .. | .evringConfigWrite .. | .evheadWrite .. | .attestationRequest .. | .mgmtRegisterWrite .. => false
  | .powerStateEnter .. | .powerWake | .clockThrottle .. | .coreRetire .. | .powerLoss => false
  | .deviceLeavesDomain .. => false

end Sys2Proof

namespace Sys2Proof.Machine

open Sys2Proof

/-- Addresses strictly rise, and no entry holds what an unlisted address reads as. -/
def Memory.wf (m : Memory) : Bool := swf 0 m

/-- The memory of a state is in canonical form. -/
abbrev State.MemWf (s : State) : Prop := s.mem.wf = true

/-- The device accepts work: the last boot reached step 11 (19 R355). -/
abbrev State.Serving (s : State) : Prop := s.mgmt.boot = .inService

/-! ### A word that nothing holds and nothing stops -/

/-- The state once the clause's wait mask has been met (02 R36). -/
def State.met (s : State) : State := s.onWave Wave.meetMask

/-- Some fibre is active, no counter of the wait mask, TLBI or interlock holds the word, the registers it names
lie in the allocation (03 R52), and the checking scoreboard, if it is on, raises nothing (02 R34, 06 R141). -/
structure State.Ready (s : State) (u : Uses) : Prop where
  active : s.wave.anyActive = true
  free   : s.held u = false
  room   : s.met.wave.rangeFault u = none
  sched  : s.met.wave.checking = true → s.met.wave.schedFault u = none
  lent   : s.met.wave.checking = true → s.met.wave.lentFault u = none

/-- As `Ready`, for a word whose own check table holds the allocation (13 R271, 14 R298). -/
structure State.Open (s : State) (u : Uses) : Prop where
  active : s.wave.anyActive = true
  free   : s.held u = false
  sched  : s.met.wave.checking = true → s.met.wave.schedFault u = none
  lent   : s.met.wave.checking = true → s.met.wave.lentFault u = none

/-- The state after a word has written `val` to a destination, visible `lat` slots later, has merged `fl` into
FPSTAT and has retired. -/
def State.wrote (s : State) (st : Stall) (lat : Nat) (d : Dest) (val : Nat → DWord) (fl : Word := 0) :
    State :=
  (s.met.onWave (fun w => (w.writeDest lat d (fun l => { val := val l })).mergeFlags fl)).finish st true

/-- The flags that the active lanes would raise enable no arithmetic trap (04 R86). -/
def State.Calm (s : State) (fl : Nat → Word) : Prop :=
  ∀ l ∈ s.wave.activeLanes,
    ¬ (bit s.wave.fpctl.toNat 8 = true ∧ bit (fl l).toNat 0 = true) ∧
    ¬ (bit s.wave.fpctl.toNat 9 = true ∧ bit (fl l).toNat 6 = true)

/-- The OR of the flags of the active lanes (04 R84). -/
def State.flagsOf (s : State) (fl : Nat → Word) : Word := (s.wave.activeLanes.map fl).foldl (· ||| ·) 0

/-! ### What a word leaves as it was -/

/-- The registers, predicates, tags, window, stack and identifiers of a fibre are the same. -/
structure Fibre.SameFile (f g : Fibre) : Prop where
  v      : g.v = f.v
  vtags  : g.vtags = f.vtags
  preds  : g.preds = f.preds
  base   : g.base = f.base
  alloc  : g.alloc = f.alloc
  frames : g.frames = f.frames
  slim   : g.slim = f.slim
  fibid  : g.fibid = f.fibid
  lvl    : g.lvl = f.lvl

/-- Every fibre's registers, the S registers and their tags, and the wave's special registers are the same. -/
structure Wave.SameFile (w v : Wave) : Prop where
  lanes  : ∀ l, (w.fib l).SameFile (v.fib l)
  s      : v.s = w.s
  stags  : v.stags = w.stags
  fp     : v.fpctl = w.fpctl ∧ v.fpstat = w.fpstat
  time   : v.timer = w.timer ∧ v.tctl = w.tctl
  traps  : v.tvec = w.tvec ∧ v.tpc = w.tpc ∧ v.tcause = w.tcause ∧ v.tdet0 = w.tdet0 ∧ v.tdet1 = w.tdet1
    ∧ v.tdet2 = w.tdet2 ∧ v.handler = w.handler
  grant  : v.g = w.g ∧ v.chk = w.chk ∧ v.wchg = w.wchg ∧ v.sctx = w.sctx

/-- Where the word's operands can be read and NV is enabled, the lowest active lane whose result raises NV takes the
trap, its flags `fl` and its operands `a` and `b` in the detail, and no lane writes. -/
def State.TrapsNv (s : State) (u : Uses) (fl : Nat → Word) (a b : Nat → Word) (out : Out) : Prop :=
  ∀ l, s.Ready u → bit s.wave.fpctl.toNat 8 = true →
    s.wave.activeLanes.find? (fun l => bit (fl l).toNat 0) = some l →
    (∀ k ∈ s.wave.activeLanes, bit (fl k).toNat 6 = false) →
    out = s.met.trapHere
      { group := 3, code := 1, d0 := w32 (l % 256 + (fl l).toNat % 256 * 256), d1 := a l, d2 := b l } l

/-! ### Issuing an access (13 R271, R273) -/

/-- The word is issued with `o` as the newest outstanding access: the access's counter has risen, RETCNT has not,
the set stands at the next word, and no register, special register or byte of memory has changed. -/
def State.Issues (s : State) (o : MemOp) (out : Out) : Prop :=
  ∃ t, out = .next t ∧ s.wave.SameFile t.wave ∧ t.mem = s.mem ∧ t.contexts = s.contexts
    ∧ t.wave.outst.length = s.wave.outst.length + 1 ∧ t.wave.outst.getLast? = some o
    ∧ (∀ c, t.wave.ctr c = s.wave.ctr c + (if c = o.ctr then 1 else 0))
    ∧ t.wave.retcnt = s.wave.retcnt
    ∧ ∀ l, l < s.wave.lanes.length → (s.wave.fib l).inSet = true → (t.wave.fib l).pc = pc48 ((s.wave.fib l).pc + 4)

/-- A global access of a lane passes checks 4 to 12 of 13 R271 but for the stamps of check 11, and its address
translates to `pa`. -/
structure State.Admits (s : State) (g : GlobalUse) (x : LaneUse) (pa : Nat) : Prop where
  tag    : x.cap.tag = true
  perm   : Nat.land (capPerm x.cap.cap) (g.need ||| pGlobal) = g.need ||| pGlobal
  bounds : x.off + g.w ≤ capLen x.cap.cap
  align  : (capBase x.cap.cap + x.off) % g.w = 0
  top    : capBase x.cap.cap + x.off < 2 ^ 56
  page   : (s.translate s.wave.ctx (capBase x.cap.cap + x.off) g.acc = .ok pa
      ∧ (g.acc = .read ∨ g.acc = .rmw → s.unitFails pa = false))
    ∨ (g.nonres = true ∧ s.translate s.wave.ctx (capBase x.cap.cap + x.off) g.acc = .error 2 ∧ pa = 0)

/-- The cellar reservations that the pages of the active lanes below take leave a lane's page its room
(01 R13, 18 R323). -/
def State.RoomFor (s : State) (g : GlobalUse) (y : Nat → LaneUse) (l : Nat) : Prop :=
  (s.reserveAll s.wave.ctx ((s.wave.activeLanes.filter (fun i => decide (i < l))).map (fun i => (y i).addr))).translate
    s.wave.ctx (y l).addr g.acc = s.translate s.wave.ctx (y l).addr g.acc

/-- Where every active fibre passes the checks, a word that uses global memory as `g` says is issued, with one
request per active fibre. -/
def State.IssuesGlobal (s : State) (u : Uses) (g : GlobalUse) (y : Nat → LaneUse) (out : Out) : Prop :=
  ∀ pa : Nat → Nat, s.Open u → s.wave.ctr g.ctr < 63 →
    (∀ l ∈ s.wave.activeLanes, (s.wave.fib l).beyond (u.wv ++ u.rv) = none ∧ s.met.Admits g (y l) (pa l)
      ∧ s.met.stampCheck (s.wave.activeLanes.map (fun i => (y i).touch g i)) ((y l).touch g l) = none
      ∧ s.met.RoomFor g y l) →
    s.Issues
      { kind := g.kind, w := g.w, sc := g.sc, ctr := g.ctr, pc := s.wave.pc, acquire := g.acquire,
        release := g.release, nt := g.nt, gather := g.gather, stamp := s.fresh,
        reqs := s.wave.activeLanes.map (fun l =>
          { lane := l, virt := capBase (y l).cap.cap + (y l).off, phys := pa l, dst := (y l).dst,
            fibid := (s.wave.fib l).fibid, data := (y l).data, data2 := (y l).data2 }) } out

/-- A Vat access of a lane, among the accesses `all` of its issue, passes checks 2 and 7 to 9 of 13 R271, and the
granules it would fill translate; where it fills one, no earlier access of an active fibre is outstanding, which the
fill would wait for (12 R257). -/
structure State.AdmitsVat (s : State) (v : VatTarget) (gid l off n align : Nat) (all : List Touch) : Prop where
  inGroup : s.wave.group.isSome = true
  target  : s.target v = some gid
  aligned : off % align = 0
  bounds  : off + n ≤ (s.groupD gid).size
  fills   : s.fillCheck gid l all = none
  order   : s.fillAddrs gid off n = [] ∨ s.accessBusy = false

/-- The state once the granules that accesses of a Vat touch are filled, the loads of the fills stamped (12 R268). -/
def State.filled (s : State) (gid : Nat) (all : List Touch) : State :=
  (s.recordStamps (s.fillTouches gid all)).fillAll gid all

/-- Where every active fibre passes the checks, a word that uses a Vat as `g` says is issued, with one request for
each of `lanes`, on the state with the granules that it touches filled. -/
def State.IssuesVat (s : State) (u : Uses) (g : VatUse) (v : VatTarget) (lanes : List Nat) (off : Nat → Nat)
    (req : Nat → LaneReq) (out : Out) : Prop :=
  ∀ gid : Nat, s.Open u → s.wave.ctr g.ctr < 63 →
    (∀ l ∈ s.wave.activeLanes, (s.wave.fib l).beyond (u.wv ++ u.rv) = none
      ∧ s.met.AdmitsVat v gid l (off l) g.w g.w (lanes.map (fun i => vatTouch gid g (off i) i))
      ∧ s.met.stampCheck (lanes.map (fun i => vatTouch gid g (off i) i)) (vatTouch gid g (off l) l) = none) →
    (s.met.filled gid (lanes.map (fun i => vatTouch gid g (off i) i))).Issues
      { kind := g.kind, space := .vat gid, w := g.w, ctr := g.ctr, pc := s.wave.pc, stamp := s.fresh,
        reqs := lanes.map (fun l =>
          { req l with lane := l, virt := off l, phys := off l, fibid := (s.wave.fib l).fibid }) } out

/-! ### Performing an access (13 R273) -/

/-- The k-th outstanding access of the issuing wave is `o`, no earlier access, of the wave or of an engine, must be
performed before it, and its home refuses none of its requests. -/
structure State.Performs (s : State) (k : Nat) (o : MemOp) : Prop where
  which : s.wave.outst[k]? = some o
  turn  : s.mayPerform k = true
  free  : s.logWait o = false
  taken : ∀ q ∈ o.reqs, s.reqRefused o q = none

/-- The k-th access has left the wave: its counter is one lower and its instruction has retired. -/
structure State.Completed (s t : State) (k : Nat) (o : MemOp) : Prop where
  outst  : t.wave.outst = s.wave.outst.eraseIdx k
  ctr    : ∀ c, t.wave.ctr c = s.wave.ctr c - (if c = o.ctr then 1 else 0)
  retcnt : t.wave.retcnt = s.wave.retcnt + 1

/-- The byte at an address of an access's space. -/
def State.byteIn (s : State) (p : Space) (a : Nat) : Byte :=
  match p with
  | .global => s.rdByte a
  | .vat gid => (s.groupD gid).rdByte a

/-- The n bytes at an address of an access's space, little-endian. -/
def State.valueIn (s : State) (p : Space) (a n : Nat) : Nat :=
  match p with
  | .global => s.rd a n
  | .vat gid => (s.groupD gid).rd a n

/-- The group whose Vat a space names is on the device. -/
def State.hasSpace (s : State) (p : Space) : Prop :=
  match p with
  | .global => True
  | .vat gid => ∃ g ∈ s.groups, g.id = gid

/-! ### Queueing a command of the array (06 R134) -/

/-- The word puts a command with the operation `op` at the end of the array's queue: the matrix state, every register
and every byte of memory stay as they were, and so do the groups, but for the granules of mapped regions that the word
itself reads and so fills, which `f` has filled; with a counter it rises and the word retires later. -/
def State.Queues (s : State) (op : ArrayOp) (ctr : Option Nat) (out : Out) (f : State := s) : Prop :=
  ∃ t c, out = .next t ∧ f.wave.SameFile t.wave ∧ t.mem = s.mem ∧ t.contexts = f.contexts ∧ t.groups = f.groups
    ∧ t.core.mat = s.core.mat ∧ t.core.arrayQ = s.core.arrayQ ++ [c]
    ∧ c.op = op ∧ c.wid = s.wave.wid ∧ c.group = s.wave.group ∧ c.ctr = ctr ∧ c.pc = s.wave.pc ∧ c.chunks = 0
    ∧ (∀ k, t.wave.ctr k = s.wave.ctr k + (if ctr = some k then 1 else 0))
    ∧ t.wave.retcnt = f.wave.retcnt + (if ctr.isNone then 1 else 0)

/-- A command of the wave `wid`, issued at `stamp`, has completed with the results `xs` (file, lane, register, word):
each stands in its register unless a later instruction has written that or its fibre has ended, and no other register
of the wave at the issue port has changed. -/
structure State.Lands (s t : State) (wid stamp : Nat) (xs : List (RegFile × Nat × Nat × Word)) : Prop where
  results : wid = s.wave.wid → ∀ x ∈ xs, (∀ y ∈ xs, (y.1, y.2.1, y.2.2.1) = (x.1, x.2.1, x.2.2.1) → y = x) →
    x.2.1 < s.wave.lanes.length → (x.1 = .p → x.2.2.1 ≠ 0) →
    t.wave.held x.1 x.2.1 x.2.2.1 = if s.wave.engW.contains (stamp, x.1, x.2.1, x.2.2.1) && (s.wave.fib x.2.1).alive
      then x.2.2.2 else s.wave.held x.1 x.2.1 x.2.2.1
  others  : ∀ f l r, (wid = s.wave.wid → ∀ x ∈ xs, (x.1, x.2.1, x.2.2.1) ≠ (f, l, r)) → (f = .p → r ≠ 14) →
    t.wave.held f l r = s.wave.held f l r
  pending : wid = s.wave.wid → xs ≠ [] → t.wave.engW = s.wave.engW.filter (fun e => e.1 != stamp)

/-- The front command of the array that completes: no follow-on of a copy request, waiting on no page, and, if it loads
memory or writes a Vat, after the earlier accesses of its fibre (12 R252). -/
structure State.Front (s : State) (c : ArrayCmd) (rest : List ArrayCmd) : Prop where
  queue   : s.core.arrayQ = c :: rest
  own     : c.follow = none
  free    : c.token = none
  turn    : (c.op.vatWrites || c.op.isLoad) = true → s.cmdFollows c = false

/-- A unit's command with a counter has completed since the state `b`: its wave's counter is one lower, and its
instruction has retired. -/
def State.Signals (b t : State) (wid : Nat) (ctr : Option Nat) : Prop :=
  (∀ k, ctr = some k → wid = b.wave.wid →
    t.wave.ctr k = b.wave.ctr k - 1 ∧ (b.wave.hasParked = false → t.wave.retcnt = b.wave.retcnt + 1))
  ∧ (ctr = none → b.wave.hasParked = false → t.wave.retcnt = b.wave.retcnt)

/-! ### Outcomes -/

/-- An outcome that neither stops with a fault nor is refused. -/
def Completes (o : Host.Outcome State Fault Refusal) : Prop := ∃ t, o = .next t

/-- A run of k steps that meets no fault and no refusal. -/
def SafeFor (k : Nat) (s : State) : Prop := Completes (Host.Core.run core k s)

end Sys2Proof.Machine
end

