-- ==== Sys2Proof/Certificates/Slice0/Obligations.lean ====
section
/-!
DEFINITION. Sys2Proof/Certificates/Slice0/Obligations.lean: what the spec's rules say of the machine, stated for
the provers.
-/

open Sys2Proof Sys2Proof.Machine

/-! ### Integer words -/

/-- 05 R101: each integer word that cannot divide writes the result of the table, from its operands as the form reads
them, imm6 widened as the last column says; CLZ counts leading zeros, POPC counts ones, BREV reverses the bits. -/
def Obligations.IntResult : Prop :=
  (∀ (s : State) (st : Stall) (f : IntForm) (d a b : Reg),
      s.Ready ((f.dest d).uses.plus (f.reads a b)) →
      let x (l : Nat) : Word := f.opA a s.met l
      let y (l : Nat) : Word := f.opB false b s.met l
      let z (l : Nat) : Word := f.opB true b s.met l
      let res (v : Nat → Word) : Out := .next (s.wrote st 4 (f.dest d) (fun l => (v l).setWidth 64))
      exec (.add st f d a b) s = res (fun l => x l + y l)
      ∧ exec (.sub st f d a b) s = res (fun l => x l - y l)
      ∧ exec (.mul st f d a b) s = res (fun l => x l * y l)
      ∧ exec (.mulhI32 st f d a b) s = res (fun l => BitVec.ofInt 32 ((x l).toInt * (y l).toInt / 2 ^ 32))
      ∧ exec (.mulhN32 st f d a b) s = res (fun l => BitVec.ofNat 32 ((x l).toNat * (z l).toNat / 2 ^ 32))
      ∧ exec (.andI st f d a b) s = res (fun l => x l &&& y l)
      ∧ exec (.orI st f d a b) s = res (fun l => x l ||| y l)
      ∧ exec (.xorI st f d a b) s = res (fun l => x l ^^^ y l)
      ∧ exec (.andn st f d a b) s = res (fun l => x l &&& ~~~ y l)
      ∧ exec (.shl st f d a b) s = res (fun l => x l <<< ((z l).toNat % 32))
      ∧ exec (.shr st f d a b) s = res (fun l => x l >>> ((z l).toNat % 32))
      ∧ exec (.sar st f d a b) s = res (fun l => (x l).sshiftRight ((z l).toNat % 32))
      ∧ exec (.rol st f d a b) s = res (fun l => (x l).rotateLeft ((z l).toNat % 32))
      ∧ exec (.minI32 st f d a b) s = res (fun l => if (x l).toInt < (y l).toInt then x l else y l)
      ∧ exec (.minN32 st f d a b) s = res (fun l => if x l < z l then x l else z l)
      ∧ exec (.maxI32 st f d a b) s = res (fun l => if (x l).toInt < (y l).toInt then y l else x l)
      ∧ exec (.maxN32 st f d a b) s = res (fun l => if x l < z l then z l else x l)
      ∧ exec (.addsatI32 st f d a b) s
          = res (fun l => BitVec.ofInt 32 (max (-2147483648) (min 2147483647 ((x l).toInt + (y l).toInt))))
      ∧ exec (.subsatI32 st f d a b) s
          = res (fun l => BitVec.ofInt 32 (max (-2147483648) (min 2147483647 ((x l).toInt - (y l).toInt)))))
  ∧ (∀ (s : State) (st : Stall) (f : IntForm) (d a : Reg),
      s.Ready ((f.dest d).uses.plus (f.reads1 a)) →
      let x (l : Nat) : Word := f.opA a s.met l
      let res (v : Nat → Word) : Out := .next (s.wrote st 4 (f.dest d) (fun l => (v l).setWidth 64))
      exec (.clz st f d a) s = res (fun l => (x l).clz)
      ∧ exec (.popc st f d a) s = res (fun l => (x l).cpop)
      ∧ exec (.brev st f d a) s = res (fun l => (x l).reverse))

/-- 05 R102: division. With a zero divisor in an active lane the word raises IDZ, or with FPCTL.IDZE (bit 9) set
takes the trap of cause group 3 for the lowest such lane, and then no lane writes. -/
def Obligations.DivResult : Prop :=
  ∀ (s : State) (st : Stall) (f : IntForm) (d a b : Reg),
    s.Ready ((f.dest d).uses.plus (f.reads a b)) →
    let x (l : Nat) : Word := f.opA a s.met l
    let y (l : Nat) : Word := f.opB false b s.met l
    let z (l : Nat) : Word := f.opB true b s.met l
    let zero (v : Nat → Word) : Bool := s.wave.activeLanes.any (fun l => v l == 0)
    let res (v : Nat → Word) (q : Nat → Word) : Out :=
      .next (s.wrote st 4 (f.dest d) (fun l => (q l).setWidth 64) (if zero v then 64 else 0))
    let trap (v : Nat → Word) (l : Nat) : Out :=
      s.met.trapHere { group := 3, code := 2, d0 := w32 (l % 256 + 64 * 256), d1 := x l, d2 := v l } l
    (¬ (s.wave.fpctl.getLsbD 9 = true ∧ zero y = true) →
      exec (.divI32 st f d a b) s
        = res y (fun l => if y l = 0 then 0xFFFFFFFF else BitVec.ofInt 32 ((x l).toInt.tdiv (y l).toInt))
      ∧ exec (.remI32 st f d a b) s
        = res y (fun l => if y l = 0 then x l else BitVec.ofInt 32 ((x l).toInt.tmod (y l).toInt)))
    ∧ (¬ (s.wave.fpctl.getLsbD 9 = true ∧ zero z = true) →
      exec (.divN32 st f d a b) s = res z (fun l => if z l = 0 then 0xFFFFFFFF else x l / z l)
      ∧ exec (.remN32 st f d a b) s = res z (fun l => if z l = 0 then x l else x l % z l))
    ∧ (s.wave.fpctl.getLsbD 9 = true →
      (∀ l, s.wave.activeLanes.find? (fun l => y l == 0) = some l →
        exec (.divI32 st f d a b) s = trap y l ∧ exec (.remI32 st f d a b) s = trap y l)
      ∧ (∀ l, s.wave.activeLanes.find? (fun l => z l == 0) = some l →
        exec (.divN32 st f d a b) s = trap z l ∧ exec (.remN32 st f d a b) s = trap z l))

/-- 05 R103 to R106: IMAD, the constants and 64-bit address arithmetic. -/
def Obligations.ConstantAndAddressResult : Prop :=
  ∀ (s : State) (st : Stall) (d a b c : Reg) (imm : Half) (h : BitVec 2),
    let x (r : Reg) (l : Nat) : Word := s.met.readV l r.toNat
    let xx (r : Reg) (l : Nat) : DWord := s.met.readV64 l r.toNat
    let res (v : Nat → Word) : Out := .next (s.wrote st 4 (.v d.toNat) (fun l => (v l).setWidth 64))
    let to64 (v : Nat → DWord) : Out := .next (s.wrote st 4 (.v64 d.toNat) v)
    (s.Ready ((Dest.v d.toNat).uses.plus { rv := [(a.toNat, 1), (b.toNat, 1), (c.toNat, 1)] }) →
      exec (.imad st d a b c) s = res (fun l => x a l * x b l + x c l))
    ∧ (s.Ready ((Dest.v d.toNat).uses.plus {}) →
      exec (.movl st d imm) s = res (fun _ => imm.setWidth 32))
    ∧ (s.Ready ((Dest.s d.toNat).uses.plus {}) →
      exec (.movlS st d imm) s = .next (s.wrote st 4 (.s d.toNat) (fun _ => imm.setWidth 64)))
    ∧ (s.Ready ((Dest.v d.toNat).uses.plus { rv := [(d.toNat, 1)] }) →
      exec (.movh st d imm) s = res (fun l => imm ++ (x d l).setWidth 16)
      ∧ exec (.addi st d imm) s = res (fun l => x d l + imm.signExtend 32))
    ∧ (s.Ready ((Dest.v64 d.toNat).uses.plus { rv := [(a.toNat, 2), (b.toNat, 2)] }) →
      exec (.add64 st d a b) s = to64 (fun l => xx a l + xx b l)
      ∧ exec (.sub64 st d a b) s = to64 (fun l => xx a l - xx b l))
    ∧ (s.Ready ((Dest.v64 d.toNat).uses.plus { rv := [(a.toNat, 2), (b.toNat, 1)] }) →
      exec (.lea st h d a b) s = to64 (fun l => xx a l + (x b l).signExtend 64 <<< h.toNat))

/-- 05 R104, R106, R110, R118, 03 R68: each comparison writes its predicate with the condition it names; ICMP and CMP64
raise no flag, FCMP and DCMP raise NV as R110 says. -/
def Obligations.CompareResult : Prop :=
  (∀ (s : State) (st : Stall) (f : CmpForm) (p : Pred) (a b : Reg),
      let res (v : Nat → Bool) : Out := .next (s.wrote st 4 (.p p.toNat) (fun l => if v l then 1 else 0))
      (s.Ready ((Dest.p p.toNat).uses.plus (f.reads a b)) →
        let x (l : Nat) : Word := f.opA a s.met l
        let y (l : Nat) : Word := f.opB false b s.met l
        let z (l : Nat) : Word := f.opB true b s.met l
        exec (.icmp st f .eq p a b) s = res (fun l => x l == y l)
        ∧ exec (.icmp st f .ne p a b) s = res (fun l => x l != y l)
        ∧ exec (.icmp st f .ltI p a b) s = res (fun l => (x l).slt (y l))
        ∧ exec (.icmp st f .leI p a b) s = res (fun l => (x l).sle (y l))
        ∧ exec (.icmp st f .gtI p a b) s = res (fun l => (y l).slt (x l))
        ∧ exec (.icmp st f .geI p a b) s = res (fun l => (y l).sle (x l))
        ∧ exec (.icmp st f .ltN p a b) s = res (fun l => (x l).ult (z l))
        ∧ exec (.icmp st f .leN p a b) s = res (fun l => (x l).ule (z l))
        ∧ exec (.icmp st f .gtN p a b) s = res (fun l => (z l).ult (x l))
        ∧ exec (.icmp st f .geN p a b) s = res (fun l => (z l).ule (x l)))
      ∧ (s.Ready ((Dest.p p.toNat).uses.plus { rv := [(a.toNat, 2), (b.toNat, 2)] }) →
        let x (l : Nat) : DWord := s.met.readV64 l a.toNat
        let y (l : Nat) : DWord := s.met.readV64 l b.toNat
        exec (.cmp64 st .eq p a b) s = res (fun l => x l == y l)
        ∧ exec (.cmp64 st .ne p a b) s = res (fun l => x l != y l)
        ∧ exec (.cmp64 st .ltI p a b) s = res (fun l => (x l).slt (y l))
        ∧ exec (.cmp64 st .leI p a b) s = res (fun l => (x l).sle (y l))
        ∧ exec (.cmp64 st .ltN p a b) s = res (fun l => (x l).ult (y l))
        ∧ exec (.cmp64 st .leN p a b) s = res (fun l => (x l).ule (y l))))
  ∧ (∀ (s : State) (st : Stall) (f : FForm) (c : FCond) (p : Pred) (a b : Reg),
      let gives (F : FpFmt) (lat : Nat) (u : Uses) (x y : Nat → Nat) (o : Out) : Prop :=
        s.Ready ((Dest.p p.toNat).uses.plus u) → s.Calm (fun l => (fcompare F c (x l) (y l)).2) →
          o = .next (s.wrote st lat (.p p.toNat) (fun l => if (fcompare F c (x l) (y l)).1 then 1 else 0)
            (s.flagsOf (fun l => (fcompare F c (x l) (y l)).2)))
      gives fp32 6 (f.reads a b) (fun l => (f.opA a s.met l).toNat) (fun l => (f.opB b s.met l).toNat)
          (exec (.fcmp st f c p a b) s)
      ∧ gives fp64 12 { rv := [(a.toNat, 2), (b.toNat, 2)] } (fun l => (s.met.readV64 l a.toNat).toNat)
          (fun l => (s.met.readV64 l b.toNat).toNat) (exec (.dcmp st c p a b) s))

/-! ### Where a result goes, and what it leaves -/

/-- 03 R51, R54 to R56, R58, 04 R84, 05 R99: a V destination is written in every active fibre at allocation
register b + n, a pair in two registers, an S register once, a predicate in every active fibre with a write to P0
discarded; the quad of a written register loses its tag, a V or an S quad, FPSTAT gains the flags, RETCNT counts the
word. Every other register, predicate, tag and special register, CTXCYC, FIBID and the LVLIDX registers among them,
and everything outside the wave, stays as it was. When
a written value becomes visible to an early read is log 20. -/
def Obligations.ResultPlaced : Prop :=
  ∀ (s : State) (st : Stall) (lat : Nat) (d : Dest) (val : Nat → DWord) (fl : Word),
    s.wave.anyActive = true →
    let t := s.wrote st lat d val fl
    let on (l : Nat) : Bool := (s.wave.fib l).active
    let b (l : Nat) : Nat := (s.wave.fib l).base
    (∀ l r, (t.wave.fib l).reg r = match d with
      | .v n => if on l = true ∧ r = b l + n then (val l).setWidth 32 else (s.wave.fib l).reg r
      | .v64 n =>
        if on l = true ∧ r = b l + n + 1 then (val l >>> 32).setWidth 32
        else if on l = true ∧ r = b l + n then (val l).setWidth 32 else (s.wave.fib l).reg r
      | .s _ => (s.wave.fib l).reg r
      | .p _ => (s.wave.fib l).reg r)
    ∧ (∀ l q, (t.wave.fib l).pred q = match d with
      | .p n => if on l = true ∧ q = n ∧ q ≠ 0 then val l != 0 else (s.wave.fib l).pred q
      | .v _ => (s.wave.fib l).pred q
      | .v64 _ => (s.wave.fib l).pred q
      | .s _ => (s.wave.fib l).pred q)
    ∧ (∀ m, t.wave.sreg m = match d with
      | .s n => if m = n then (val s.wave.lowest).setWidth 32 else s.wave.sreg m
      | .v _ => s.wave.sreg m
      | .v64 _ => s.wave.sreg m
      | .p _ => s.wave.sreg m)
    ∧ (∀ l r, (t.wave.fib l).tag r = match d with
      | .v n => (s.wave.fib l).tag r && !(on l && (b l + n) / 4 == r / 4)
      | .v64 n => (s.wave.fib l).tag r && !(on l && ((b l + n) / 4 == r / 4 || (b l + n + 1) / 4 == r / 4))
      | .s _ => (s.wave.fib l).tag r
      | .p _ => (s.wave.fib l).tag r)
    ∧ (∀ q, sget false t.wave.stags q = match d with
      | .s n => sget false s.wave.stags q && !(n / 4 == q)
      | .v _ => sget false s.wave.stags q
      | .v64 _ => sget false s.wave.stags q
      | .p _ => sget false s.wave.stags q)
    ∧ t.wave.fpstat = s.wave.fpstat ||| fl
    ∧ t.wave.retcnt = s.wave.retcnt + 1
    ∧ (∀ l, (t.wave.fib l).base = b l ∧ (t.wave.fib l).alloc = (s.wave.fib l).alloc
      ∧ (t.wave.fib l).frames = (s.wave.fib l).frames ∧ (t.wave.fib l).slim = (s.wave.fib l).slim
      ∧ (t.wave.fib l).run = (s.wave.fib l).run
      ∧ (t.wave.fib l).fibid = (s.wave.fib l).fibid ∧ (t.wave.fib l).lvl = (s.wave.fib l).lvl)
    ∧ t.wave.ctxcyc = s.wave.ctxcyc
    ∧ t.wave.fpctl = s.wave.fpctl ∧ t.wave.timer = s.wave.timer ∧ t.wave.tctl = s.wave.tctl
    ∧ t.wave.tvec = s.wave.tvec ∧ t.wave.tpc = s.wave.tpc ∧ t.wave.tcause = s.wave.tcause
    ∧ t.wave.tdet0 = s.wave.tdet0 ∧ t.wave.tdet1 = s.wave.tdet1 ∧ t.wave.tdet2 = s.wave.tdet2
    ∧ t.wave.chk = s.wave.chk ∧ t.wave.wchg = s.wave.wchg ∧ t.wave.sctx = s.wave.sctx
    ∧ t.wave.d = s.wave.d ∧ t.wave.g = s.wave.g ∧ t.wave.handler = s.wave.handler
    ∧ t = { s with wave := t.wave, fresh := t.fresh }

/-- The frame of the words that work inside one wave: whatever they do, a trap or a hold included, no byte of
memory and nothing outside the issuing wave changes. -/
def Obligations.WaveWordFrame : Prop :=
  ∀ (i : Instr) (s t : State), i.waveOnly = true → exec i s = .next t →
    t = { s with wave := t.wave, fresh := t.fresh } ∧ ∀ a, t.rdByte a = s.rdByte a

/-! ### Floating point -/

/-- 05 R107 to R109, R111 to R116, 04 R83 to R86: the FP32 words write the correctly rounded result, under FPCTL's
rounding mode where the description names it, and merge the flags of the active lanes into FPSTAT; FABS and FNEG
change bit 31 alone, FSAT clamps, and these three raise nothing. -/
def Obligations.Fp32Result : Prop :=
  ∀ (s : State) (st : Stall) (d a b c : Reg),
    let m : RoundMode := s.wave.rm
    let v (r : Reg) (l : Nat) : Nat := (s.met.readV l r.toNat).toNat
    let gives (D : Dest) (u : Uses) (r : Nat → Rounded) (o : Out) : Prop :=
      s.Ready (D.uses.plus u) → s.Calm (fun l => (r l).flags) →
        o = .next (s.wrote st 6 D (fun l => BitVec.ofNat 64 (r l).code) (s.flagsOf (fun l => (r l).flags)))
    let u1 : Uses := { rv := [(a.toNat, 1)] }
    let u3 : Uses := { rv := [(a.toNat, 1), (b.toNat, 1), (c.toNat, 1)] }
    let D : Dest := .v d.toNat
    (∀ f : FForm,
      let x (l : Nat) : Nat := (f.opA a s.met l).toNat
      let y (l : Nat) : Nat := (f.opB b s.met l).toNat
      gives (f.dest d) (f.reads a b) (fun l => fpAdd fp32 m (x l) (y l)) (exec (.fadd st f d a b) s)
      ∧ gives (f.dest d) (f.reads a b) (fun l => fpSub fp32 m (x l) (y l)) (exec (.fsub st f d a b) s)
      ∧ gives (f.dest d) (f.reads a b) (fun l => fpMul fp32 m (x l) (y l)) (exec (.fmul st f d a b) s)
      ∧ gives (f.dest d) (f.reads a b) (fun l => minMax fp32 false (x l) (y l)) (exec (.fmin st f d a b) s)
      ∧ gives (f.dest d) (f.reads a b) (fun l => minMax fp32 true (x l) (y l)) (exec (.fmax st f d a b) s)
      ∧ (s.Ready ((f.dest d).uses.plus (f.reads1 a)) →
        let res (w : Nat → Word) : Out := .next (s.wrote st 6 (f.dest d) (fun l => (w l).setWidth 64))
        exec (.fabs st f d a) s = res (fun l => f.opA a s.met l &&& 0x7FFFFFFF)
        ∧ exec (.fneg st f d a) s = res (fun l => f.opA a s.met l ^^^ 0x80000000)
        ∧ exec (.fsat st f d a) s = res (fun l => BitVec.ofNat 32 (fpSat (x l)))))
    ∧ gives D u3 (fun l => fpFma fp32 m false false (v a l) (v b l) (v c l)) (exec (.fma st d a b c) s)
    ∧ gives D u3 (fun l => fpFma fp32 m false true (v a l) (v b l) (v c l)) (exec (.fms st d a b c) s)
    ∧ gives D u3 (fun l => fpFma fp32 m true false (v a l) (v b l) (v c l)) (exec (.fnma st d a b c) s)
    ∧ gives D u3 (fun l => fpFma fp32 m true true (v a l) (v b l) (v c l)) (exec (.fnms st d a b c) s)
    ∧ gives D u1 (fun l => fpRcp (v a l)) (exec (.frcp st d a) s)
    ∧ gives D u1 (fun l => fpRsq (v a l)) (exec (.frsq st d a) s)
    ∧ gives D u1 (fun l => fpExp2 (v a l)) (exec (.fexp2 st d a) s)
    ∧ gives D u1 (fun l => fpLog2 (v a l)) (exec (.flog2 st d a) s)
    ∧ gives D u1 (fun l => fpRnd .rne (v a l)) (exec (.frndRn st d a) s)
    ∧ gives D u1 (fun l => fpRnd .zero (v a l)) (exec (.frndRz st d a) s)
    ∧ gives D u1 (fun l => fpRnd .up (v a l)) (exec (.frndRu st d a) s)
    ∧ gives D u1 (fun l => fpRnd .down (v a l)) (exec (.frndRd st d a) s)

/-- 05 R117, R118: a packed word computes each half on its own, rounds it to the half's format and ORs the flags; PFMA
adds the halves of Vd. The FP64 words work on pairs with one rounding; DABS and DNEG change bit 63 alone. -/
def Obligations.PackedAndFp64Result : Prop :=
  (∀ (s : State) (st : Stall) (t : HalfType) (d a b : Reg),
      let F : FpFmt := match t with | .f16 => fp16 | .bf16 => bf16
      let m : RoundMode := s.wave.rm
      let half (r : Reg) (k l : Nat) : Nat := bits (s.met.readV l r.toNat).toNat (k + 15) k
      let u : Uses := { rv := [(a.toNat, 1), (b.toNat, 1)] }
      let gives (u : Uses) (h : Nat → Nat → Rounded) (o : Out) : Prop :=
        s.Ready ((Dest.v d.toNat).uses.plus u) → s.Calm (fun l => (h 0 l).flags ||| (h 16 l).flags) →
          o = .next (s.wrote st 6 (.v d.toNat) (fun l => BitVec.ofNat 64 ((h 0 l).code + (h 16 l).code * 65536))
            (s.flagsOf (fun l => (h 0 l).flags ||| (h 16 l).flags)))
      gives u (fun k l => fpAdd F m (half a k l) (half b k l)) (exec (.padd st t d a b) s)
      ∧ gives u (fun k l => fpSub F m (half a k l) (half b k l)) (exec (.psub st t d a b) s)
      ∧ gives u (fun k l => fpMul F m (half a k l) (half b k l)) (exec (.pmul st t d a b) s)
      ∧ gives u (fun k l => minMax F false (half a k l) (half b k l)) (exec (.pmin st t d a b) s)
      ∧ gives u (fun k l => minMax F true (half a k l) (half b k l)) (exec (.pmax st t d a b) s)
      ∧ gives { rv := [(a.toNat, 1), (b.toNat, 1), (d.toNat, 1)] }
          (fun k l => fpFma F m false false (half a k l) (half b k l) (half d k l)) (exec (.pfma st t d a b) s))
  ∧ (∀ (s : State) (st : Stall) (d a b c : Reg),
      let m : RoundMode := s.wave.rm
      let v (r : Reg) (l : Nat) : Nat := (s.met.readV64 l r.toNat).toNat
      let gives (u : Uses) (r : Nat → Rounded) (o : Out) : Prop :=
        s.Ready ((Dest.v64 d.toNat).uses.plus u) → s.Calm (fun l => (r l).flags) →
          o = .next (s.wrote st 12 (.v64 d.toNat) (fun l => BitVec.ofNat 64 (r l).code)
            (s.flagsOf (fun l => (r l).flags)))
      let u2 : Uses := { rv := [(a.toNat, 2), (b.toNat, 2)] }
      gives u2 (fun l => fpAdd fp64 m (v a l) (v b l)) (exec (.dadd st d a b) s)
      ∧ gives u2 (fun l => fpSub fp64 m (v a l) (v b l)) (exec (.dsub st d a b) s)
      ∧ gives u2 (fun l => fpMul fp64 m (v a l) (v b l)) (exec (.dmul st d a b) s)
      ∧ gives u2 (fun l => minMax fp64 false (v a l) (v b l)) (exec (.dmin st d a b) s)
      ∧ gives u2 (fun l => minMax fp64 true (v a l) (v b l)) (exec (.dmax st d a b) s)
      ∧ gives { rv := [(a.toNat, 2), (b.toNat, 2), (c.toNat, 2)] }
          (fun l => fpFma fp64 m false false (v a l) (v b l) (v c l)) (exec (.dfma st d a b c) s)
      ∧ (s.Ready ((Dest.v64 d.toNat).uses.plus { rv := [(a.toNat, 2)] }) →
        let res (w : Nat → DWord) : Out := .next (s.wrote st 12 (.v64 d.toNat) w)
        exec (.dabs st d a) s = res (fun l => s.met.readV64 l a.toNat &&& 0x7FFFFFFFFFFFFFFF)
        ∧ exec (.dneg st d a) s = res (fun l => s.met.readV64 l a.toNat ^^^ 0x8000000000000000)))

/-- 05 R119, R120, 04 R89, 03 R69: CVT converts the source code under the word's rounding code; a 64-bit format is a
register pair. 05 R121 to R123, 04 R93: QNT and DQN read their control word and its compander once at issue, then
quantise or expand each active fibre's Va by the block scale; a control word that R121 does not admit traps with cause
group 3, code 3. The SAT and NX flags of a saturating conversion are log 11, and the corners, the flags and the order
of the checks of QNT and DQN log 12. -/
def Obligations.ConversionResult : Prop :=
  (∀ (s : State) (st : Stall) (dst src : Fmt) (rnd : CvtRound) (d a : Reg),
      let D : Dest := if dst.isPair then .v64 d.toNat else .v d.toNat
      let code (l : Nat) : Nat :=
        if src.isPair then (s.met.readV64 l a.toNat).toNat else (s.met.readV l a.toNat).toNat
      let m : RoundMode := match rnd with | .fpctl => s.wave.rm | .zero => .zero | .rne => .rne | .rneSat => .rne
      let r (l : Nat) : Nat × Word := convert src dst m (rnd == .rneSat) (code l)
      s.Ready (D.uses.plus { rv := [(a.toNat, if src.isPair then 2 else 1)] }) → s.Calm (fun l => (r l).2) →
      exec (.cvt st dst rnd src d a) s
        = .next (s.wrote st 6 D (fun l => BitVec.ofNat 64 (r l).1) (s.flagsOf (fun l => (r l).2))))
  ∧ (∀ (s : State) (st : Stall) (d a b : Reg),
      s.Ready { rv := [(a.toNat, 1)], wv := [(d.toNat, 1)], rs := [b.toNat] } →
      let m := s.met
      let cw : Nat := (m.readS b.toNat).toNat
      let f (hi lo : Nat) : Nat := cw / 2 ^ lo % 2 ^ (hi + 1 - lo)
      let bad : Prop := f 31 24 ≠ 0 ∨ f 7 6 ≠ 0 ∨ f 1 0 = 3
      let x (l : Nat) : Word := m.readV l a.toNat
      let scale : XReal := decodeScale (1 + f 2 2) (f 15 8)
      (bad →
        let out : Out := m.trapHere { group := 3, code := 3, d0 := w32 (s.wave.lowest % 256), d1 := x s.wave.lowest,
                                      d2 := w32 cw } s.wave.lowest
        exec (.qnt st d a b) s = out ∧ exec (.dqn st d a b) s = out)
      ∧ (∀ comp, ¬ bad → m.compander s.wave.ctx (f 5 3) = .ok comp →
        let goes (r : Nat → Rounded) (out : Out) : Prop := s.Calm (fun l => (r l).flags) →
          out = .next
            { s.wrote st 8 (.v d.toNat) (fun l => BitVec.ofNat 64 (r l).code) (s.flagsOf (fun l => (r l).flags)) with
              core := (m.compNote s.wave.ctx (f 5 3)).core }
        goes (fun l => quantise (3 + f 1 0) comp scale (decodeFp fp32 (x l).toNat)) (exec (.qnt st d a b) s)
        ∧ goes (fun l =>
            let v := roundFp fp32 .rne (blockValue (3 + f 1 0) comp (some scale) (f 23 16)
              ((x l).toNat % (if f 1 0 = 2 then 16 else 256)))
            { v with flags := if v.flags &&& 1 ≠ 0 then 0 else v.flags }) (exec (.dqn st d a b) s)))

/-- 02 R32, 05 R112, R113: FSQRT and FDIV read their operands and merge their flags at issue, and write nothing yet;
INTERLOCK_RESULT writes the k-th result that is due, each register with its value and each later result as it was, and
counts the word as retired; a result for an S register is written once. 04 R86, 20 R374: with NVE set, a word of which
some active lane raises NV, of the FP32, packed, FP64, comparison, special-function, conversion and interlocked words,
traps for the lowest such lane, with cause group 3, code 1, its flags and its operands; it writes nothing and merges no
flag. That the operands of a 64-bit format give their low halves is the model's reading (log 13). -/
def Obligations.InterlockedAndInvalid : Prop :=
  ((∀ (s : State) (st : Stall) (d a b : Reg),
        let m : RoundMode := s.wave.rm
        let v (r : Reg) (l : Nat) : Nat := (s.met.readV l r.toNat).toNat
        let gives (u : Uses) (r : Nat → Rounded) (o : Out) : Prop :=
          s.Ready (Uses.plus { wv := [(d.toNat, 1)] } u) → s.Calm (fun l => (r l).flags) →
          ∃ t, o = .next t
            ∧ t.wave.fpstat = s.wave.fpstat ||| s.flagsOf (fun l => (r l).flags)
            ∧ (∀ l k, (t.wave.fib l).reg k = (s.wave.fib l).reg k)
            ∧ t.wave.interlocks = s.wave.interlocks ++ [⟨s.wave.activeLanes.map (fun l =>
                (RegFile.v, l, (s.wave.fib l).base + d.toNat, BitVec.ofNat 32 (r l).code))⟩]
            ∧ t.wave.retcnt = s.wave.retcnt ∧ t.mem = s.mem
        gives { rv := [(a.toNat, 1)] } (fun l => fpSqrt fp32 m (v a l)) (exec (.fsqrt st d a) s)
        ∧ gives { rv := [(a.toNat, 1), (b.toNat, 1)] } (fun l => fpDiv fp32 m (v a l) (v b l))
          (exec (.fdiv st d a b) s))
    ∧ (∀ (s : State) (k : Nat) (ys : List (Nat × Nat × Word)),
        s.wave.interlocks[k]? = some ⟨ys.map (fun y => (RegFile.v, y.1, y.2.1, y.2.2))⟩ →
        (ys.map (fun y => (y.1, y.2.1))).Nodup →
        ∃ t, exec (.interlockResult k) s = .next t
          ∧ (∀ y ∈ ys, y.1 < s.wave.lanes.length → (t.wave.fib y.1).reg y.2.1 = y.2.2)
          ∧ (∀ l r, (∀ y ∈ ys, ¬ (y.1 = l ∧ y.2.1 = r)) → (t.wave.fib l).reg r = (s.wave.fib l).reg r)
          ∧ (∀ l p, (t.wave.fib l).pred p = (s.wave.fib l).pred p)
          ∧ t.wave.s = s.wave.s ∧ t.mem = s.mem ∧ t.wave.retcnt = s.wave.retcnt + 1)
    ∧ (∀ (s : State) (k n : Nat) (v : Word),
        s.wave.interlocks[k]? = some ⟨[(RegFile.s, 0, n, v)]⟩ →
        ∃ t, exec (.interlockResult k) s = .next t ∧ t.wave.sreg n = v
          ∧ (∀ j, j ≠ n → t.wave.sreg j = s.wave.sreg j)
          ∧ (∀ l, (t.wave.fib l).v = (s.wave.fib l).v ∧ (t.wave.fib l).preds = (s.wave.fib l).preds)
          ∧ t.mem = s.mem ∧ t.wave.retcnt = s.wave.retcnt + 1))
  ∧ (∀ (s : State) (st : Stall) (f : FForm) (fc : FCond) (ht : HalfType) (src dst : Fmt) (rnd : CvtRound) (p : Pred)
        (d a b c : Reg),
      let m : RoundMode := s.wave.rm
      let v (r : Reg) (l : Nat) : Word := s.met.readV l r.toNat
      let vv (r : Reg) (l : Nat) : DWord := s.met.readV64 l r.toNat
      let n (r : Reg) (l : Nat) : Nat := (v r l).toNat
      let nn (r : Reg) (l : Nat) : Nat := (vv r l).toNat
      let x (l : Nat) : Word := f.opA a s.met l
      let y (l : Nat) : Word := f.opB b s.met l
      let none_ (_ : Nat) : Word := 0
      let D : Dest := .v d.toNat
      let DD : Dest := .v64 d.toNat
      let u1 : Uses := { rv := [(a.toNat, 1)] }
      let u2 : Uses := { rv := [(a.toNat, 1), (b.toNat, 1)] }
      let uu2 : Uses := { rv := [(a.toNat, 2), (b.toNat, 2)] }
      let two (D : Dest) (u : Uses) (r : Nat → Rounded) (o : Out) : Prop :=
        s.TrapsNv (D.uses.plus u) (fun l => (r l).flags) x y o
      let one (r : Nat → Rounded) (o : Out) : Prop :=
        s.TrapsNv (D.uses.plus u1) (fun l => (r l).flags) (v a) none_ o
      let fm (np nc : Bool) (o : Out) : Prop :=
        s.TrapsNv (D.uses.plus { rv := [(a.toNat, 1), (b.toNat, 1), (c.toNat, 1)] })
          (fun l => (fpFma fp32 m np nc (n a l) (n b l) (n c l)).flags) (v a) (v b) o
      let F : FpFmt := match ht with | .f16 => fp16 | .bf16 => bf16
      let half (r : Reg) (k l : Nat) : Nat := bits (n r l) (k + 15) k
      let packed (u : Uses) (h : Nat → Nat → Rounded) (o : Out) : Prop :=
        s.TrapsNv (D.uses.plus u) (fun l => (h 0 l).flags ||| (h 16 l).flags) (v a) (v b) o
      let dp (u : Uses) (r : Nat → Rounded) (o : Out) : Prop :=
        s.TrapsNv (DD.uses.plus u) (fun l => (r l).flags) (fun l => lo32 (vv a l)) (fun l => lo32 (vv b l)) o
      let code (l : Nat) : DWord := if src.isPair then vv a l else (v a l).setWidth 64
      let cm : RoundMode := match rnd with | .fpctl => m | .zero => .zero | .rne => .rne | .rneSat => .rne
      two (f.dest d) (f.reads a b) (fun l => fpAdd fp32 m (x l).toNat (y l).toNat) (exec (.fadd st f d a b) s)
      ∧ two (f.dest d) (f.reads a b) (fun l => fpSub fp32 m (x l).toNat (y l).toNat) (exec (.fsub st f d a b) s)
      ∧ two (f.dest d) (f.reads a b) (fun l => fpMul fp32 m (x l).toNat (y l).toNat) (exec (.fmul st f d a b) s)
      ∧ two (f.dest d) (f.reads a b) (fun l => minMax fp32 false (x l).toNat (y l).toNat) (exec (.fmin st f d a b) s)
      ∧ two (f.dest d) (f.reads a b) (fun l => minMax fp32 true (x l).toNat (y l).toNat) (exec (.fmax st f d a b) s)
      ∧ s.TrapsNv ((Dest.p p.toNat).uses.plus (f.reads a b)) (fun l => (fcompare fp32 fc (x l).toNat (y l).toNat).2)
          x y (exec (.fcmp st f fc p a b) s)
      ∧ fm false false (exec (.fma st d a b c) s) ∧ fm false true (exec (.fms st d a b c) s)
      ∧ fm true false (exec (.fnma st d a b c) s) ∧ fm true true (exec (.fnms st d a b c) s)
      ∧ one (fun l => fpRcp (n a l)) (exec (.frcp st d a) s) ∧ one (fun l => fpRsq (n a l)) (exec (.frsq st d a) s)
      ∧ one (fun l => fpExp2 (n a l)) (exec (.fexp2 st d a) s) ∧ one (fun l => fpLog2 (n a l)) (exec (.flog2 st d a) s)
      ∧ one (fun l => fpRnd .rne (n a l)) (exec (.frndRn st d a) s)
      ∧ one (fun l => fpRnd .zero (n a l)) (exec (.frndRz st d a) s)
      ∧ one (fun l => fpRnd .up (n a l)) (exec (.frndRu st d a) s)
      ∧ one (fun l => fpRnd .down (n a l)) (exec (.frndRd st d a) s)
      ∧ one (fun l => fpSqrt fp32 m (n a l)) (exec (.fsqrt st d a) s)
      ∧ s.TrapsNv (D.uses.plus u2) (fun l => (fpDiv fp32 m (n a l) (n b l)).flags) (v a) (v b) (exec (.fdiv st d a b) s)
      ∧ packed u2 (fun k l => fpAdd F m (half a k l) (half b k l)) (exec (.padd st ht d a b) s)
      ∧ packed u2 (fun k l => fpSub F m (half a k l) (half b k l)) (exec (.psub st ht d a b) s)
      ∧ packed u2 (fun k l => fpMul F m (half a k l) (half b k l)) (exec (.pmul st ht d a b) s)
      ∧ packed u2 (fun k l => minMax F false (half a k l) (half b k l)) (exec (.pmin st ht d a b) s)
      ∧ packed u2 (fun k l => minMax F true (half a k l) (half b k l)) (exec (.pmax st ht d a b) s)
      ∧ packed { rv := [(a.toNat, 1), (b.toNat, 1), (d.toNat, 1)] }
          (fun k l => fpFma F m false false (half a k l) (half b k l) (half d k l)) (exec (.pfma st ht d a b) s)
      ∧ dp uu2 (fun l => fpAdd fp64 m (nn a l) (nn b l)) (exec (.dadd st d a b) s)
      ∧ dp uu2 (fun l => fpSub fp64 m (nn a l) (nn b l)) (exec (.dsub st d a b) s)
      ∧ dp uu2 (fun l => fpMul fp64 m (nn a l) (nn b l)) (exec (.dmul st d a b) s)
      ∧ dp uu2 (fun l => minMax fp64 false (nn a l) (nn b l)) (exec (.dmin st d a b) s)
      ∧ dp uu2 (fun l => minMax fp64 true (nn a l) (nn b l)) (exec (.dmax st d a b) s)
      ∧ dp { rv := [(a.toNat, 2), (b.toNat, 2), (c.toNat, 2)] }
          (fun l => fpFma fp64 m false false (nn a l) (nn b l) (nn c l)) (exec (.dfma st d a b c) s)
      ∧ s.TrapsNv ((Dest.p p.toNat).uses.plus uu2) (fun l => (fcompare fp64 fc (nn a l) (nn b l)).2)
          (fun l => lo32 (vv a l)) (fun l => lo32 (vv b l)) (exec (.dcmp st fc p a b) s)
      ∧ s.TrapsNv ((if dst.isPair then DD else D).uses.plus { rv := [(a.toNat, if src.isPair then 2 else 1)] })
          (fun l => (convert src dst cm (rnd == .rneSat) (code l).toNat).2) (fun l => lo32 (code l)) none_
          (exec (.cvt st dst rnd src d a) s))

/-- Derived from 04 R80 and R88: in the four formats with signalling NaNs a NaN is quiet exactly where its top fraction
bit is 1, and E5M2 and E4M3 have none; every operation that produces a NaN gives the canonical one of its format,
whatever NaN it read, and a signalling operand raises NV. A value that the format holds rounds to itself under every
mode and raises nothing. -/
def Obligations.NanAndRounding : Prop :=
  (fp64.nanCode = 0x7FF8000000000000 ∧ fp32.nanCode = 0x7FC00000 ∧ fp16.nanCode = 0x7E00 ∧ bf16.nanCode = 0x7FC0
    ∧ e5m2.nanCode = 0x7E ∧ e4m3.nanCode = 0x7F)
  ∧ (∀ (F : FpFmt) (a : Nat), F ∈ [fp64, fp32, fp16, bf16] → (decodeFp F a).isNan = true →
    (decodeFp F a).isSig = !bit a (F.f - 1))
  ∧ (∀ (F : FpFmt) (a : Nat), F ∈ [e5m2, e4m3] → (decodeFp F a).isSig = false)
  ∧ (∀ (F : FpFmt) (m : RoundMode) (sat : Bool) (x : XReal), F ∈ [fp64, fp32, fp16, bf16, e5m2, e4m3] →
    x.isNan = true → (roundFp F m x).code = F.nanCode ∧ (cvtFF F m sat x).code = F.nanCode)
  ∧ (∀ (F : FpFmt) (m : RoundMode) (a b c : Nat) (p q mx : Bool), F ∈ [fp64, fp32, fp16, bf16] →
    ((decodeFp F a).isNan = true ∨ (decodeFp F b).isNan = true) →
    (fpAdd F m a b).code = F.nanCode ∧ (fpSub F m a b).code = F.nanCode ∧ (fpMul F m a b).code = F.nanCode
    ∧ (fpDiv F m a b).code = F.nanCode ∧ (fpFma F m p q a b c).code = F.nanCode
    ∧ ((decodeFp F a).isNan = true → (decodeFp F b).isNan = true → (minMax F mx a b).code = F.nanCode)
    ∧ (((decodeFp F a).isSig = true ∨ (decodeFp F b).isSig = true) →
      bit (fpAdd F m a b).flags.toNat 0 = true ∧ bit (fpMul F m a b).flags.toNat 0 = true
      ∧ bit (fpDiv F m a b).flags.toNat 0 = true))
  ∧ (∀ (m : RoundMode) (a : Nat), (decodeFp fp32 a).isNan = true →
    (fpSqrt fp32 m a).code = 0x7FC00000 ∧ (fpRcp a).code = 0x7FC00000 ∧ (fpRsq a).code = 0x7FC00000
    ∧ (fpExp2 a).code = 0x7FC00000 ∧ (fpLog2 a).code = 0x7FC00000 ∧ (fpRnd m a).code = 0x7FC00000)
  ∧ (∀ (F : FpFmt) (m : RoundMode) (a : Nat), F ∈ [fp64, fp32, fp16, bf16] → a < 2 * F.signBit →
    (decodeFp F a).isNan = false → roundFp F m (decodeFp F a) = { code := a, flags := 0 })

/-! ### Predicates and lanes -/

/-- 05 R127: SEL Vd, Va, Vb, Pn uses minor 0x20 + n and writes Vd = Va where Pn is 1, and Vb where Pn is 0, for each
active fibre; it copies bits unchanged. R124 to R126: predicate logic, and WHEN, which opens a span of words that the
fibre's sampled predicate guards. -/
def Obligations.PredicateResult : Prop :=
  (∀ (s : State) (st : Stall) (d p q : Pred) (v a b : Reg),
      let x (r : Pred) (l : Nat) : Bool := s.met.readP l r.toNat
      let res (w : Nat → Bool) : Out := .next (s.wrote st 2 (.p d.toNat) (fun l => if w l then 1 else 0))
      (s.Ready ((Dest.p d.toNat).uses.plus { rp := [p.toNat, q.toNat] }) →
        exec (.pand st d p q) s = res (fun l => x p l && x q l)
        ∧ exec (.por st d p q) s = res (fun l => x p l || x q l)
        ∧ exec (.pxor st d p q) s = res (fun l => Bool.xor (x p l) (x q l))
        ∧ exec (.pandn st d p q) s = res (fun l => x p l && !x q l))
      ∧ (s.Ready ((Dest.p d.toNat).uses.plus { rp := [p.toNat] }) →
        exec (.pnot st d p) s = res (fun l => !x p l) ∧ exec (.pmov st d p) s = res (fun l => x p l))
      ∧ (s.Ready ((Dest.v v.toNat).uses.plus { rv := [(a.toNat, 1), (b.toNat, 1)], rp := [p.toNat] }) →
        exec (.sel st p v a b) s = .next (s.wrote st 2 (.v v.toNat) (fun l =>
          (if x p l then s.met.readV l a.toNat else s.met.readV l b.toNat).setWidth 64)))
      ∧ (encode (.sel st p v a b)).map (fun w => w.toNat % 64) = some (0x20 + p.toNat))
  ∧ (∀ (s : State) (st : Stall) (p : Pred) (sense : Bool) (k : BitVec 6),
      s.Ready { rp := [p.toNat] } → s.wave.atLast = false → 0 < k.toNat →
      ∃ t, exec (.whenP st p sense k) s = .next t
        ∧ (∀ l, (s.wave.fib l).inSet = true → l < s.wave.lanes.length → (s.wave.fib l).pc = s.wave.pc →
            (t.wave.fib l).spans
              = stepSpans (s.wave.fib l).spans
                ++ [{ rem := k.toNat, guardBit := (s.wave.fib l).active && (s.met.readP l p.toNat != sense) }])
        ∧ (∀ l, (t.wave.fib l).v = (s.wave.fib l).v ∧ (t.wave.fib l).preds = (s.wave.fib l).preds
            ∧ (t.wave.fib l).base = (s.wave.fib l).base)
        ∧ t.wave.s = s.wave.s ∧ t.wave.retcnt = s.wave.retcnt + 1 ∧ t.mem = s.mem)

/-- 11 R238 to R242: the shuffles and BCAST read the source lane's register, which is 0 where that fibre has ended
or its allocation does not hold it; a source at or beyond G gives the lane's own value, or 0 for BCAST; votes and
MATCH range over the active lanes. -/
def Obligations.CrossLaneResult : Prop :=
  ∀ (s : State) (st : Stall) (d a b : Reg) (p q : Pred),
    let u := s.met
    let own (l : Nat) : Word := u.readV l a.toNat
    let of (l j : Nat) : Word :=
      if (u.wave.fib j).alive = true ∧ (u.wave.fib j).base + a.toNat < (u.wave.fib j).alloc
      then u.readVFor l j a.toNat else 0
    let below (l j : Nat) (v : Word) : Word := if j < u.wave.g then of l j else v
    let n (l : Nat) : Nat := (u.readSFor l b.toNat).toNat
    let lim (j : Nat) : Option Nat := if j < u.wave.g then some j else none
    let ready (mine : Bool) (w : Uses) (src : Nat → Option Nat) : Prop :=
      s.Ready ((Dest.v d.toNat).uses.plus (Uses.plus
        { nv := [(a.toNat, 1)], xr := u.wave.activeLanes.flatMap (fun l => u.sourceUse a.toNat mine l (src l)) } w))
    let res (v : Nat → Word) : Out := .next (s.wrote st 8 (.v d.toNat) (fun l => (v l).setWidth 64))
    (ready true { rv := [(b.toNat, 1)] } (fun l => lim (u.readV l b.toNat).toNat) →
      exec (.shflIdx st d a b) s = res (fun l => below l (u.readV l b.toNat).toNat (own l)))
    ∧ (ready true { rs := [b.toNat] } (fun l => if n l ≤ l then some (l - n l) else none) →
      exec (.shflUp st d a b) s = res (fun l => if n l ≤ l then below l (l - n l) 0 else own l))
    ∧ (ready true { rs := [b.toNat] } (fun l => lim (l + n l)) →
      exec (.shflDown st d a b) s = res (fun l => below l (l + n l) (own l)))
    ∧ (ready true { rs := [b.toNat] } (fun l => lim (Nat.xor l (n l))) →
      exec (.shflXor st d a b) s = res (fun l => below l (Nat.xor l (n l)) (own l)))
    ∧ (ready false { rs := [b.toNat] } (fun l => lim (n l)) →
      exec (.bcast st d a b) s = res (fun l => below l (n l) 0))
    ∧ (s.Ready ((Dest.p p.toNat).uses.plus { xr := s.wave.votersUses .p q.toNat }) →
      let P (f : Nat → Bool) : Out := .next (s.wrote st 8 (.p p.toNat) (fun l => if f l then 1 else 0))
      exec (.voteAny st p q) s = P (fun l => s.wave.activeLanes.any (fun j => u.readPFor l j q.toNat))
      ∧ exec (.voteAll st p q) s = P (fun l => s.wave.activeLanes.all (fun j => u.readPFor l j q.toNat)))
    ∧ (s.Ready ((Dest.v d.toNat).uses.plus { xr := s.wave.votersUses .p q.toNat, rs := [b.toNat] }) →
      exec (.voteBallot st d q b) s = res (fun l =>
        if 7 < n l then 0
        else BitVec.ofNat 32
          ((s.wave.activeLanes.map (fun j => if u.readPFor l j q.toNat then 2 ^ j else 0)).sum / 2 ^ (32 * n l))))
    ∧ (s.Ready ((Dest.v d.toNat).uses.plus { nv := [(a.toNat, 1)], xr := s.wave.votersUses .v a.toNat }) →
      exec (.matchL st d a) s = .next (s.wrote st 8 (.v d.toNat) (fun l =>
        BitVec.ofNat 64 ((s.wave.activeLanes.find? (fun j => u.readVFor l j a.toNat == own l)).getD l))))

/-- 11 R240, R246: PERM sends each active lane's Va to the lane that its Vb names; the lowest sender wins, and an active
lane that nobody names keeps its Vd, as every other register stays as it was. VXLD reads the register that the index in
Va names, VXST writes the one that the index in Vd names, as if the word had named it; an index at or beyond A - b in
any active lane traps before any write, and is reported for the lowest such lane. -/
def Obligations.MovedRegisters : Prop :=
  (∀ (s : State) (st : Stall) (d a b : Reg),
      s.Ready { nv := [(a.toNat, 1), (b.toNat, 1)], wv := [(d.toNat, 1)],
                xr := s.met.permUses a.toNat b.toNat } →
      let from_ (l : Nat) : Option Nat :=
        s.wave.activeLanes.find? (fun j => (s.met.readVFor l j b.toNat).toNat == l)
      ∃ t, exec (.perm st d a b) s = .next t
        ∧ (∀ l r, (t.wave.fib l).reg r =
            match from_ l with
            | some j =>
              if (s.wave.fib l).active = true ∧ r = (s.wave.fib l).base + d.toNat then s.met.readVFor l j a.toNat
              else (s.wave.fib l).reg r
            | none => (s.wave.fib l).reg r)
        ∧ (∀ l, (t.wave.fib l).preds = (s.wave.fib l).preds) ∧ t.wave.s = s.wave.s
        ∧ t.wave.fpstat = s.wave.fpstat ∧ t.wave.retcnt = s.wave.retcnt + 1 ∧ t.mem = s.mem)
  ∧ (∀ (s : State) (st : Stall) (d a : Reg),
      let i (r : Reg) (l : Nat) : Nat := (s.met.readV l r.toNat).toNat
      let b (l : Nat) : Nat := (s.wave.fib l).base
      let inside (r : Reg) : Prop := ∀ l ∈ s.wave.activeLanes, b l + i r l < (s.wave.fib l).alloc
      (s.Ready { rv := [(a.toNat, 1)], wv := [(d.toNat, 1)] } → inside a →
        s.Ready ((Dest.v d.toNat).uses.plus
          { rv := [(a.toNat, 1)], xr := s.met.indexRegs a.toNat }) →
        exec (.vxld st d a) s
          = .next (s.wrote st 8 (.v d.toNat) (fun l => (s.met.readV l (i a l)).setWidth 64)))
      ∧ (s.Ready { rv := [(d.toNat, 1), (a.toNat, 1)] } → inside d →
        s.Ready { rv := [(d.toNat, 1), (a.toNat, 1)], xw := s.met.indexRegs d.toNat } →
        ∃ t, exec (.vxst st d a) s = .next t
          ∧ (∀ l r, (t.wave.fib l).reg r
              = if (s.wave.fib l).active = true ∧ r = b l + i d l then s.met.readV l a.toNat
                else (s.wave.fib l).reg r)
          ∧ (∀ l, (t.wave.fib l).preds = (s.wave.fib l).preds) ∧ t.wave.s = s.wave.s
          ∧ t.wave.retcnt = s.wave.retcnt + 1 ∧ t.mem = s.mem)
      ∧ (∀ l, s.Ready { rv := [(a.toNat, 1)], wv := [(d.toNat, 1)] } →
        s.wave.activeLanes.find? (fun l => decide ((s.wave.fib l).alloc ≤ b l + i a l)) = some l →
        exec (.vxld st d a) s
          = s.met.trapHere { group := 12, code := 0x020, d0 := w32 (l % 256 + a.toNat * 256),
                             d1 := s.met.readV l a.toNat } l)
      ∧ (∀ l, s.Ready { rv := [(d.toNat, 1), (a.toNat, 1)] } →
        s.wave.activeLanes.find? (fun l => decide ((s.wave.fib l).alloc ≤ b l + i d l)) = some l →
        exec (.vxst st d a) s
          = s.met.trapHere { group := 12, code := 0x020, d0 := w32 (l % 256 + d.toNat * 256),
                             d1 := s.met.readV l d.toNat } l))

/-- 11 R243 to R245, 04 R84, R86: for each of the eleven operators XRED combines the active lanes by the fixed
pairwise tree over slots 0 to 255, whose node is the operator of its two nodes below where both are present and else
the one that is; the scans and XSEG combine them one by one in increasing order, from the head of the segment, and an
exclusive scan gives the first lane the identity. The flags of every step are merged, and with NVE set a step that
raises NV traps. For the operators that round nothing each is the plain fold, whatever the tree. Which lane a trap of
a reduction names is the model's reading (log 17). -/
def Obligations.ReductionResult : Prop :=
  ∀ (s : State) (st : Stall) (o : RedOp) (d a : Reg) (p : Pred),
    let x (l j : Nat) : Word := s.met.readVFor l j a.toNat
    let own (l : Nat) : Word := s.met.readV l a.toNat
    let m : RoundMode := s.wave.rm
    let op (y z : Word) : Word × Word := match o with
      | .addI32 => (y + z, 0)
      | .addF32 => (BitVec.ofNat 32 (fpAdd fp32 m y.toNat z.toNat).code, (fpAdd fp32 m y.toNat z.toNat).flags)
      | .minI32 => (if y.toInt < z.toInt then y else z, 0)
      | .maxI32 => (if y.toInt < z.toInt then z else y, 0)
      | .minN32 => (if y < z then y else z, 0)
      | .maxN32 => (if y < z then z else y, 0)
      | .minF32 => (BitVec.ofNat 32 (minMax fp32 false y.toNat z.toNat).code, (minMax fp32 false y.toNat z.toNat).flags)
      | .maxF32 => (BitVec.ofNat 32 (minMax fp32 true y.toNat z.toNat).code, (minMax fp32 true y.toNat z.toNat).flags)
      | .bitAnd => (y &&& z, 0)
      | .bitOr => (y ||| z, 0)
      | .bitXor => (y ^^^ z, 0)
    let ident : Word := match o with
      | .minI32 => 0x7FFFFFFF | .maxI32 => 0x80000000 | .minN32 => 0xFFFFFFFF | .bitAnd => 0xFFFFFFFF
      | .minF32 => 0x7F800000 | .maxF32 => 0xFF800000
      | .addI32 => 0 | .addF32 => 0 | .maxN32 => 0 | .bitOr => 0 | .bitXor => 0
    let ls := s.wave.activeLanes
    let node (l k : Nat) : Nat → Option Word × Word :=
      Nat.rec (fun j => if (s.wave.fib j).active then (some (x l j), 0) else (none, 0))
        (fun _ f i => match f (2 * i), f (2 * i + 1) with
          | (some y, e), (some z, g) => (some (op y z).1, (op y z).2 ||| (e ||| g))
          | (some y, e), (none, g) => (some y, e ||| g)
          | (none, e), (z, g) => (z, e ||| g)) k
    let seq (l : Nat) (head : Nat → Bool) (js : List Nat) : Option Word × Word :=
      js.foldl (fun acc j => match acc.1, head j with
        | some y, false => (some (op y (x l j)).1, acc.2 ||| (op y (x l j)).2)
        | _, _ => (some (x l j), acc.2)) (none, 0)
    let upTo (l : Nat) : List Nat := ls.filter (fun j => decide (j ≤ l))
    let before (l : Nat) : List Nat := ls.filter (fun j => decide (j < l))
    let no (_ : Nat) : Bool := false
    let heads (l j : Nat) : Bool := s.met.readPFor l j p.toNat
    let gives (u : Uses) (v : Nat → Word) (fl : Nat → Word) (out : Out) : Prop :=
      (s.Ready ((Dest.v d.toNat).uses.plus u) → s.Calm fl →
        out = .next (s.wrote st 8 (.v d.toNat) (fun l => (v l).setWidth 64) (s.flagsOf fl)))
      ∧ s.TrapsNv ((Dest.v d.toNat).uses.plus u) fl own (fun _ => 0) out
    let u1 : Uses := { rv := [(a.toNat, 1)] }
    (gives { nv := [(a.toNat, 1)], xr := s.wave.votersUses .v a.toNat } (fun l => (node l 8 0).1.getD 0)
        (fun l => (node l 8 0).2) (exec (.xred st o d a) s)
      ∧ (∃ v, (∀ l ∈ ls, v l = (seq l no (upTo l)).1.getD 0)
        ∧ gives u1 v (fun l => (seq l no ls).2) (exec (.xscanInc st o d a) s))
      ∧ (∃ v, (∀ l ∈ ls, v l = (seq l no (before l)).1.getD ident)
        ∧ gives u1 v (fun l => (seq l no ls).2) (exec (.xscanExc st o d a) s))
      ∧ (∃ v, (∀ l ∈ ls, v l = (seq l (heads l) (upTo l)).1.getD 0)
        ∧ gives { u1 with rp := [p.toNat] } v (fun l => (seq l (heads l) ls).2) (exec (.xseg st o d a p) s)))
    ∧ (o ∈ [RedOp.addI32, .minI32, .maxI32, .minN32, .maxN32, .bitAnd, .bitOr, .bitXor] → (∀ l ∈ ls, l < 256) →
      ∀ l, let all (js : List Nat) : Word := (js.map (x l)).foldl (fun y z => (op y z).1) ident
        (ls ≠ [] → node l 8 0 = (some (all ls), 0))
        ∧ (seq l no (upTo l)).1.getD ident = all (upTo l) ∧ (seq l no (before l)).1.getD ident = all (before l))


/-! ### Width, windows, waits, capabilities -/

/-- 10 R227 to R229: YIELD changes no register; WAITD holds what follows by its mask; WSET and WSLIDE move the window
base of every active fibre, or trap for the lowest that cannot and move none. 11 R237: WIDTH gives the greatest grant,
between the present grant and the request, whose registers fit, never below the highest lane that holds a fibre; a
request of 0 or above 256 traps. Lanes added hold no fibre. What a WIDTH waits for is the model's reading (log 16). -/
def Obligations.WaitWindowWidth : Prop :=
  (∀ (s : State) (st : Stall) (m k : BitVec 6),
      s.Ready {} →
      (exec (.yieldW st) s = .next (s.met.finish st true))
      ∧ (∃ t, exec (.waitd st m) s = .next t ∧ t.wave.waitMask = m ∧ t.wave.lanes.length = s.wave.lanes.length
        ∧ (∀ l, (t.wave.fib l).v = (s.wave.fib l).v) ∧ t.wave.d = s.wave.d ∧ t.mem = s.mem)
      ∧ (let moves (nb : Nat → Int) (o : Out) : Prop :=
          ((∀ l ∈ s.wave.activeLanes, 0 ≤ nb l ∧ nb l + 4 ≤ (s.wave.fib l).alloc) →
            ∃ t, o = .next t
              ∧ (∀ l, ((t.wave.fib l).base : Int) = if (s.wave.fib l).active then nb l else (s.wave.fib l).base)
              ∧ (∀ l, (t.wave.fib l).v = (s.wave.fib l).v ∧ (t.wave.fib l).preds = (s.wave.fib l).preds)
              ∧ t.wave.s = s.wave.s ∧ t.mem = s.mem)
          ∧ (∀ l, s.wave.activeLanes.find? (fun l =>
                decide (nb l < 0) || decide ((s.wave.fib l).alloc < nb l + 4)) = some l →
              o = s.met.trapHere { group := 12, code := 0x024, d0 := w32 (l % 256), d1 := i32 (nb l) } l)
        moves (fun _ => 4 * (k.toNat : Int)) (exec (.wset st k) s)
        ∧ moves (fun l => ((s.wave.fib l).base : Int) + 4 * k.toInt) (exec (.wslide st k) s)))
  ∧ (∀ (s : State) (st : Stall) (d a : Reg),
      (s.held { rs := [a.toNat], ws := [d.toNat] } = true ∨ s.met.wave.quiet = false ∨ s.met.wave.lent ≠ [] →
        exec (.width st d a) s = s.hold)
      ∧ (s.Ready { rs := [a.toNat], ws := [d.toNat] } → s.met.wave.quiet = true → s.met.wave.lent = [] →
      let r : Nat := ((s.met.onWave Wave.allLanded).readS a.toNat).toNat
      let lim : Nat := if s.wave.det then 128 else s.core.gmax
      let want : Nat := max (max (min r lim) s.wave.highLane) 1
      ((r = 0 ∨ 256 < r) → exec (.width st d a) s
        = s.met.trapHere { group := 12, code := 0x025, d0 := w32 (s.wave.lowest % 256 + a.toNat * 256), d1 := w32 r }
            s.wave.lowest)
      ∧ (¬ (r = 0 ∨ 256 < r) → want ≤ 256 → ∃ t g, exec (.width st d a) s = .next t
        ∧ t.wave.g = g ∧ t.wave.sreg d.toNat = BitVec.ofNat 32 g
        ∧ (∀ n, n ≠ d.toNat → t.wave.sreg n = s.wave.sreg n)
        ∧ ((s.launchOf s.wave.launch).legacy ≠ 0 → g = s.wave.g)
        ∧ ((s.launchOf s.wave.launch).legacy = 0 →
            g ≤ want ∧ (g = want ∨ s.wave.g ≤ g)
            ∧ (s.wave.g < g → s.grantFits g = true)
            ∧ ∀ k, g < k → k ≤ want → s.wave.g < k → s.grantFits k = false)
        ∧ (∀ l, l < g → l < s.wave.lanes.length → (t.wave.fib l).v = (s.wave.fib l).v
            ∧ (t.wave.fib l).preds = (s.wave.fib l).preds)
        ∧ (∀ l, s.wave.lanes.length ≤ l → t.wave.fib l = {})
        ∧ t.wave.wchg = s.wave.wchg ∧ t.wave.fpstat = s.wave.fpstat ∧ t.mem = s.mem)))

/-- 18 R337, R341 to R343: the CGET words read the fields of a quad, tagged or not; the length of the context capability
reads 2^56; CMOV copies the 128 bits and the tag as they stand, into every active fibre or, once, into a C quad.
CNARROW and CPERM derive a tagged capability in every active fibre: a part of the source's range, or a subset of its
permissions and a tensor identifier; its global permission never changes. -/
def Obligations.CapabilityWords : Prop :=
  (∀ (s : State) (st : Stall) (d : Reg) (a d4 : Num4),
      let u : Uses := { rv := [(4 * a.toNat, 4)] }
      let q (l : Nat) : Nat := (s.met.readVQuad l a.toNat).toNat
      let f (l hi lo : Nat) : Nat := q l / 2 ^ lo % 2 ^ (hi + 1 - lo)
      let one (v : Nat → Nat) : Out := .next (s.wrote st 4 (.v d.toNat) (fun l => BitVec.ofNat 64 (v l)))
      let two (v : Nat → Nat) : Out := .next (s.wrote st 4 (.v64 d.toNat) (fun l => BitVec.ofNat 64 (v l)))
      (s.Ready ((Dest.v64 d.toNat).uses.plus u) →
        exec (.cgetBase st d a) s = two (fun l => f l 63 0)
        ∧ exec (.cgetLen st d a) s
          = two (fun l => if f l 111 111 = 1 ∧ f l 63 0 = 0 ∧ f l 103 64 = 0 then 2 ^ 56 else f l 103 64))
      ∧ (s.Ready ((Dest.v d.toNat).uses.plus u) →
        exec (.cgetPerm st d a) s = one (fun l => f l 111 104)
        ∧ exec (.cgetTid st d a) s = one (fun l => f l 123 112)
        ∧ exec (.cgetTag st d a) s = one (fun l => if s.met.vtag l a.toNat then 1 else 0))
      ∧ (∀ srcV : Bool,
        let src : Uses := if srcV then u else quadReads a.toNat
        let c (l : Nat) : Quad := if srcV then s.met.readVQuad l a.toNat else s.met.readSQuadFor l a.toNat
        let tag (l : Nat) : Bool := if srcV then s.met.vtag l a.toNat else s.met.stagFor l a.toNat
        (s.Ready (Uses.plus { wv := [(4 * d4.toNat, 4)] } src) →
          ∃ t, exec (.cmov st d4 a srcV false) s = .next t ∧ t.mem = s.mem ∧ t.wave.s = s.wave.s
            ∧ ∀ l ∈ s.wave.activeLanes, t.wave.vquad l d4.toNat = c l
              ∧ (t.wave.fib l).tag ((t.wave.fib l).base + 4 * d4.toNat) = tag l)
        ∧ (s.Ready (Uses.plus { ws := [4 * d4.toNat, 4 * d4.toNat + 1, 4 * d4.toNat + 2, 4 * d4.toNat + 3] } src) →
          ∃ t, exec (.cmov st d4 a srcV true) s = .next t ∧ t.mem = s.mem
            ∧ (∀ l, (t.wave.fib l).v = (s.wave.fib l).v)
            ∧ t.wave.squad d4.toNat = c s.wave.lowest ∧ sget false t.wave.stags d4.toNat = tag s.wave.lowest)))
  ∧ (∀ (s : State) (st : Stall) (d a b : Num4) (v : Reg),
      let q (l : Nat) : Quad := s.met.readVQuad l a.toNat
      let n (l : Nat) : Nat := (s.met.readV64 l (4 * b.toNat + 2)).toNat
      let o (l : Nat) : Nat := (s.met.readV64 l (4 * b.toNat)).toNat
      let x (l : Nat) : Nat := (s.met.readV l v.toNat).toNat
      let narrow : Prop := ∀ l ∈ s.wave.activeLanes,
        s.met.vtag l a.toNat = true ∧ Nat.land (capPerm (q l)) pNarrow ≠ 0 ∧ (s.wave.fib l).base % 4 = 0
      (s.Ready (Uses.plus { rv := [(4 * a.toNat, 4)], wv := [(4 * d.toNat, 4)] } { rv := [(4 * b.toNat, 4)] }) →
        narrow → (∀ l ∈ s.wave.activeLanes, 0 < n l ∧ n l < 2 ^ 40 ∧ o l + n l ≤ capLen (q l)
          ∧ capBase (q l) + o l < 2 ^ 64) →
        ∃ t, exec (.cnarrow st d a b) s = .next t ∧ t.mem = s.mem ∧ ∀ l ∈ s.wave.activeLanes,
          let c := t.wave.vquad l d.toNat
          capBase c = capBase (q l) + o l ∧ capLen c = n l ∧ capPerm c = capPerm (q l) ∧ capTid c = capTid (q l)
          ∧ (t.wave.fib l).tag ((t.wave.fib l).base + 4 * d.toNat) = true)
      ∧ (s.Ready (Uses.plus { rv := [(4 * a.toNat, 4)], wv := [(4 * d.toNat, 4)] } { rv := [(v.toNat, 1)] }) →
        narrow → (∀ l ∈ s.wave.activeLanes, bits (x l) 15 8 = 0 ∧ bits (x l) 30 28 = 0) →
        ∃ t, exec (.cperm st d a v) s = .next t ∧ t.mem = s.mem ∧ ∀ l ∈ s.wave.activeLanes,
          let c := t.wave.vquad l d.toNat
          capBase c = capBase (q l) ∧ capGlobal c = capGlobal (q l)
          ∧ bits c.toNat 103 64 = bits (q l).toNat 103 64
          ∧ bits (capPerm c) 6 0 = Nat.land (bits (capPerm (q l)) 6 0) (bits (x l) 6 0)
          ∧ capTid c = (if bit (x l) 31 then bits (x l) 27 16 else capTid (q l))
          ∧ (t.wave.fib l).tag ((t.wave.fib l).base + 4 * d.toNat) = true))

/-! ### System registers -/

/-- 10 R230, R231, 03 R62 to R64, 09 R210, 20 R387: SRD writes each active fibre's Vd, or pair, with the register as
that fibre sees it; a steward's register is read in steward mode only, and FPSTAT once earlier words have merged their
flags; a register of which no write is in flight is read as it stands (log 20). SRD of CORECYC, CTXCYC or RETCNT
executes once every earlier instruction has completed, and RETCNT then equals the number of instructions that have
retired; under det the two cycle counters return the launch's retired-instruction count. CNT samples at its own issue
without waiting. The values of the cycle counters are free (log 23). -/
def Obligations.SrdReads : Prop :=
  (∀ (s : State) (st : Stall) (d : Reg) (r : SysReg),
      s.Ready { wv := [(d.toNat, if r.is64 then 2 else 1)] } → (r.isSteward = true → s.wave.steward = true) →
      (r = .fpstat → s.wave.flagsPending = false) → r.isCounter = false →
      (∀ l ∈ s.wave.activeLanes,
        s.wave.sysOlds r (if r = .slim then l else if ctxReg r then s.wave.sctx.toNat else 0) = []) →
      (ctxReg r = true → s.wave.sysOlds .sctx 0 = []) →
      let w := s.wave
      let die := s.die (dieOf s.core.num)
      let ctx := s.ctxD w.sctx.toNat
      let now : State := if r = .timer ∨ r = .tctl then s.met.sample else s.met
      let val (l : Nat) : DWord := match r with
        | .fibid => (w.fib l).fibid.setWidth 64
        | .lane => BitVec.ofNat 64 l
        | .grant => BitVec.ofNat 64 w.g
        | .wstat => BitVec.ofNat 64 ((if w.wchg then 1 else 0) + (if w.chk then 2 else 0) + (if w.det then 16 else 0)
            + (if w.chkd then 32 else 0) + (s.core.passes w.g - 1) % 4 * 64)
        | .lvlidx n => ((w.fib l).lvl.getD n.toNat 0).setWidth 64
        | .corecyc => 0
        | .ctxcyc => 0
        | .retcnt => 0
        | .timer => if w.det then (lo32 (s.launchOf w.launch).count).setWidth 64 else now.wave.timer.setWidth 64
        | .tctl => now.wave.tctl.setWidth 64
        | .fpctl => w.fpctl.setWidth 64
        | .fpstat => w.fpstat.setWidth 64
        | .slim => BitVec.ofNat 64 (w.fib l).slim
        | .tvec => w.tvec
        | .tpc => w.tpc
        | .tcause => w.tcause.setWidth 64
        | .tdet0 => w.tdet0.setWidth 64
        | .tdet1 => w.tdet1.setWidth 64
        | .tdet2 => w.tdet2.setWidth 64
        | .tdtbase => (s.ctxD w.ctx).tdtbase
        | .skipcnt => s.core.mat.skipcnt.setWidth 64
        | .emptycnt => BitVec.ofNat 64 s.core.mat.emptyCnt
        | .sfqbase => die.sfqbase
        | .sfqcap => die.sfqcap.setWidth 64
        | .sfqtail => die.sfqtail.setWidth 64
        | .sfqhead => die.sfqhead.setWidth 64
        | .sctx => w.sctx.setWidth 64
        | .sptroot => ctx.ptrootW
        | .stdtbase => ctx.tdtbaseW
        | .stdtcnt => ctx.tdtcntW.setWidth 64
        | .ssave => ctx.save
        | .sspill => ctx.spill
        | .swmark => die.swmark.setWidth 64
      exec (.srd st d r) s
        = .next (now.wrote st 4 (if r.is64 then .v64 d.toNat else .v d.toNat) val))
  ∧ (∀ (s : State) (st : Stall) (d : Reg),
      s.Ready { wv := [(d.toNat, 2)] } →
      (s.met.wave.quiet = true →
        (∃ t, exec (.srdCounter st d .retcnt) s = .next t ∧ t.mem = s.mem
          ∧ ∀ l ∈ s.wave.activeLanes, (t.wave.fib l).reg ((s.wave.fib l).base + d.toNat + 1) = hi32 s.wave.retcnt
            ∧ (t.wave.fib l).reg ((s.wave.fib l).base + d.toNat) = lo32 s.wave.retcnt)
        ∧ (s.wave.det = true → ∀ c ∈ [Counter.corecyc, .ctxcyc],
          ∃ t, exec (.srdCounter st d c) s = .next t
            ∧ ∀ l ∈ s.wave.activeLanes, (t.wave.fib l).reg ((s.wave.fib l).base + d.toNat)
              = lo32 (s.launchOf s.wave.launch).count))
      ∧ (s.met.wave.quiet = false → ∀ c, exec (.srdCounter st d c) s = s.met.hold)
      ∧ (∀ c, ∃ t, exec (.cnt st d c) s = .next t ∧ t.mem = s.mem ∧ t.wave.retcnt = s.wave.retcnt + 1
        ∧ (c = .retcnt → s.wave.det = true → ∀ l ∈ s.wave.activeLanes,
            (t.wave.fib l).reg ((s.wave.fib l).base + d.toNat) = lo32 s.wave.retcnt)))

/-- 10 R219, R230, 03 R64, 04 R83 to R85, 20 R379, R387, 07 R172: SWR writes a wave's, core's, die's or context's
register once, with the value of the lowest active lane, less its reserved bits; TIMER and TCTL keep their values
under det. SPTROOT, STDTBASE, STDTCNT, SSAVE and SSPILL are registers of the context that SCTX names: a write changes
that register of that context and no other (a context without a record gets one, log 9). SLIM is written in each
active fibre; a value that is no multiple of 16, or above 65,536, traps with cause group 13, code 3, for the lowest
such lane, and no fibre's limit changes. TPC takes the pair. -/
def Obligations.SwrWrites : Prop :=
  (∀ (s : State) (st : Stall) (d : Reg),
      s.Ready { rv := [(d.toNat, 1)] } →
      let v : Word := s.met.readV s.wave.lowest d.toNat
      let res (o : Out) (p : State → Prop) : Prop := ∃ t, o = .next t ∧ t.mem = s.mem
        ∧ (∀ l, (t.wave.fib l).v = (s.wave.fib l).v ∧ (t.wave.fib l).preds = (s.wave.fib l).preds)
        ∧ t.wave.s = s.wave.s ∧ p t
      res (exec (.swr st d .wstat) s) (fun t => t.wave.wchg = v.getLsbD 0 ∧ t.wave.chk = v.getLsbD 1
          ∧ t.wave.det = s.wave.det ∧ t.wave.chkd = s.wave.chkd)
      ∧ res (exec (.swrFpctl st d) s) (fun t => t.wave.fpctl = v &&& 0x303 ∧ t.wave.fpstat = s.wave.fpstat)
      ∧ (s.wave.flagsPending = false →
        res (exec (.swrFpstat st d) s) (fun t => t.wave.fpstat = v &&& 0x7F ∧ t.wave.fpctl = s.wave.fpctl))
      ∧ res (exec (.swrTimer st d) s) (fun t =>
          t.wave.timer = (if s.wave.det then s.wave.timer else v) ∧ t.wave.fpctl = s.wave.fpctl)
      ∧ res (exec (.swrTctl st d) s) (fun t => t.wave.tctl = if s.wave.det then s.wave.tctl else v &&& 7)
      ∧ (s.core.arrayQ = [] →
        res (exec (.swrSkipcnt st d) s) (fun t => t.core.mat.skipcnt = v ∧ t.core.mat.emptyCnt = s.core.mat.emptyCnt))
      ∧ (s.wave.steward = true →
        res (exec (.swr st d .sctx) s) (fun t => t.wave.sctx = v)
        ∧ res (exec (.swr st d .swmark) s) (fun t => (t.die (dieOf s.core.num)).swmark = v)
        ∧ ((s.die (dieOf s.core.num)).posts = [] →
          res (exec (.sfqheadWrite st d) s) (fun t => (t.die (dieOf s.core.num)).sfqhead = v)
          ∧ res (exec (.swr st d .sfqcap) s) (fun t => (t.die (dieOf s.core.num)).sfqcap = v
              ∧ (t.die (dieOf s.core.num)).sfqhead = (s.die (dieOf s.core.num)).sfqhead))
        ∧ (s.wave.sysOlds .sctx 0 = [] →
          let id : Nat := s.wave.sctx.toNat
          res (exec (.swr st d .stdtcnt) s) (fun t =>
            t.ctxD id = { (s.context id).getD { id := id, created := false } with tdtcntW := v }
            ∧ ∀ j, j ≠ id → t.ctxD j = s.ctxD j))))
  ∧ (∀ (s : State) (st : Stall) (d : Reg),
      s.Ready { rv := [(d.toNat, 2)] } → s.wave.steward = true →
      let v : DWord := s.met.readV64 s.wave.lowest d.toNat
      let id : Nat := s.wave.sctx.toNat
      let old : Context := (s.context id).getD { id := id, created := false }
      let sets (r : SysReg) (new : Context) : Prop := ∃ t, exec (.swr st d r) s = .next t ∧ t.mem = s.mem
        ∧ (∀ l, (t.wave.fib l).v = (s.wave.fib l).v ∧ (t.wave.fib l).preds = (s.wave.fib l).preds)
        ∧ t.wave.s = s.wave.s ∧ t.ctxD id = new ∧ ∀ j, j ≠ id → t.ctxD j = s.ctxD j
      (s.wave.sysOlds .sctx 0 = [] →
        sets .sptroot { old with ptrootW := v } ∧ sets .stdtbase { old with tdtbaseW := v }
        ∧ sets .ssave { old with save := v } ∧ sets .sspill { old with spill := v })
      ∧ ∃ t, exec (.swr st d .sfqbase) s = .next t ∧ t.mem = s.mem ∧ t.wave.s = s.wave.s ∧ t.contexts = s.contexts
        ∧ (t.die (dieOf s.core.num)).sfqbase = v
        ∧ (t.die (dieOf s.core.num)).sfqtail = (s.die (dieOf s.core.num)).sfqtail)
  ∧ (∀ (s : State) (st : Stall) (d : Reg),
      s.Ready { rv := [(d.toNat, 2)] } →
      let v (l : Nat) : Nat := (s.met.readV64 l d.toNat).toNat
      ((∀ l ∈ s.wave.activeLanes, v l % 16 = 0 ∧ v l ≤ 65536) →
        ∃ t, exec (.swrSlim st d) s = .next t ∧ t.mem = s.mem
          ∧ ∀ l, (t.wave.fib l).slim = (if (s.wave.fib l).active then v l else (s.wave.fib l).slim)
            ∧ (t.wave.fib l).v = (s.wave.fib l).v)
      ∧ (∀ l, s.wave.activeLanes.find? (fun l => v l % 16 != 0 || decide (65536 < v l)) = some l →
        exec (.swrSlim st d) s = s.met.trapHere
          { group := 13, code := 3, d0 := w32 (l % 256), d1 := w32 (16 * (s.wave.fib l).frames.length),
            d2 := w32 (s.wave.fib l).slim } l)
      ∧ ∃ t, exec (.swr st d .tpc) s = .next t ∧ t.mem = s.mem
          ∧ t.wave.tpc = s.met.readV64 s.wave.lowest d.toNat ∧ t.wave.tcause = s.wave.tcause)


/-! ### Control transfers -/

/-- 10 R213 to R217, R220, R221: a transfer whose checks all pass sends every active fibre that takes it to its own
target, and every other fibre of the set to the word after the clause; CALL and CALLX push the return address and the
window base, RET pops them and restores the base; no register, predicate or byte of memory changes. BRT's table read
is made in order after the fibres' earlier accesses (12 R257). The pages of targets and entries take their cellar
reservations fibre by fibre (log 24). -/
def Obligations.TransferResult : Prop :=
  ∀ (s : State) (st : Stall) (p : Pred) (sense : Bool) (o : BitVec 19) (a2 : BitVec 5) (c : Num4) (b : Reg),
    let w := s.wave
    let near : Nat := (((w.pc : Int) + 4 * o.toInt) % 2 ^ 64).toNat
    let after : Nat := match w.cur with | some x => x.endAddr | none => pc48 (w.pc + 4)
    let pair (l : Nat) : Nat := (s.met.readV64 l (2 * a2.toNat)).toNat
    let okAfter (reads : Nat → List Nat) (tg : Nat → Option Nat) : Prop := ∀ l ∈ w.activeLanes, ∀ t, tg l = some t →
      ((s.met.roomBelow (fun i => reads i ++ (tg i).toList) l).reserveAll w.ctx (reads l)).targetCheck l t = none
    let ok (tg : Nat → Option Nat) : Prop := okAfter (fun _ => []) tg
    let goes (tg : Nat → Option Nat) (push : Nat → Fibre → List (Pc × Byte) × Nat) (out : Out) : Prop :=
      ∃ t, out = .next t ∧ t.mem = s.mem ∧ t.wave.retcnt = w.retcnt + 1 ∧ t.wave.cur = none ∧ t.wave.s = w.s
        ∧ ∀ l, l < w.lanes.length →
          let f := w.fib l
          let g := t.wave.fib l
          g.v = f.v ∧ g.preds = f.preds ∧ g.run = f.run
          ∧ (g.frames, g.base) = (if f.active then push l f else (f.frames, f.base))
          ∧ (f.inSet = true → g.pc = (if f.active then (tg l).getD after else after) ∧ g.inSet = false)
          ∧ (f.inSet = false → g.pc = f.pc)
    let keep (_ : Nat) (f : Fibre) : List (Pc × Byte) × Nat := (f.frames, f.base)
    let push (_ : Nat) (f : Fibre) : List (Pc × Byte) × Nat :=
      ((BitVec.ofNat 48 after, BitVec.ofNat 8 f.base) :: f.frames, f.base)
    let room : Prop := ∀ l ∈ w.activeLanes,
      w.sysOlds .slim l = [] ∧ 16 * (w.fib l).frames.length + 16 ≤ (w.fib l).slim
    let taken (l : Nat) : Option Nat := if s.met.readP l p.toNat != sense then some near else none
    (s.Ready { rp := [p.toNat] } → ok taken → goes taken keep (exec (.brp st p sense o) s))
    ∧ (s.Ready {} → ok (fun _ => some near) →
      goes (fun _ => some near) keep (exec (.bra st o) s)
      ∧ (room → goes (fun _ => some near) push (exec (.call st o) s)))
    ∧ (s.Ready { rv := [(2 * a2.toNat, 2)] } → ok (fun l => some (pair l)) →
      goes (fun l => some (pair l)) keep (exec (.brx st a2) s)
      ∧ (room → goes (fun l => some (pair l)) push (exec (.callx st a2) s)))
    ∧ (let entry (l : Nat) : Nat := capBase (s.met.readSQuadFor l c.toNat) + 8 * (s.met.readV l b.toNat).toNat
      let table (l : Nat) : Option Nat := some (s.met.virtRd (entry l) 8)
      s.Ready (Uses.plus { rv := [(b.toNat, 1)] } (quadReads c.toNat)) → s.accessBusy = false →
      (∀ l ∈ w.activeLanes,
        (s.met.capSFor l c.toNat).check (pTable + pGlobal) l (8 * (s.met.readV l b.toNat).toNat) 8 = none
        ∧ (s.met.roomBelow (fun i => entryPages (entry i) ++ (table i).toList) l).entryCheck l (entry l) = none) →
      okAfter (fun i => entryPages (entry i)) table →
      goes table keep (exec (.brt st c b) s))
    ∧ (let top (l : Nat) : Pc × Byte := (w.fib l).frames.headD (0, 0)
      s.Ready {} → (∀ l ∈ w.activeLanes, (w.fib l).frames ≠ []) → ok (fun l => some (top l).1.toNat) →
      goes (fun l => some (top l).1.toNat) (fun l f => (f.frames.tail, (top l).2.toNat)) (exec (.ret st) s))

/-- 10 R214, R220, R221: the checks of a target, in order: bits 63:48, alignment, translation and execute permission,
and a clause header at the target. Before them a call beyond SLIM fails with cause group 13, code 1, and a return from
an empty stack with code 2. The lowest active lane that fails is reported, and then no fibre transfers; the pages of the
lanes below it have taken their cellar reservations first (log 24). -/
def Obligations.TransferTraps : Prop :=
  (∀ (s : State) (l t : Nat),
      let c : Option Fail := s.targetCheck l t
      let flow (code : Nat) : TrapInfo :=
        { group := 14, code := code, d0 := w32 t, d1 := w32 (t / 2 ^ 32), d2 := w32 (l % 256) }
      let tr (code : Nat) : TrapInfo :=
        { group := 4, code := code, d0 := w32 t, d1 := w32 (t / 2 ^ 32),
          d2 := w32 (l % 256 + Access.fetch.code * 256) }
      let lost (code : Nat) : TrapInfo := { group := 18, code := code, d0 := w32 t, d1 := w32 (t / 2 ^ 32) }
      let go := s.translate s.wave.ctx t .fetch
      (2 ^ 48 ≤ t → c = some (.trap (flow 2)))
      ∧ (t < 2 ^ 48 → t % 4 ≠ 0 → c = some (.trap (flow 3)))
      ∧ (t < 2 ^ 48 → t % 4 = 0 →
        (go = .error 1 → c = some (.trap (tr 1)))
        ∧ (go = .error 2 → c = some (match s.pageState s.wave.ctx (t / 65536) with
            | .failed => .steward (lost 2) (t / 65536)
            | .moving => .moving (tr 2) (t / 65536)
            | _ => .steward (tr 2) (t / 65536)))
        ∧ (∀ code, go = .error code → code ≠ 1 → code ≠ 2 → c = some (.steward (tr code) (t / 65536)))
        ∧ (∀ p, go = .ok p → s.unitFails p = true → c = some (.integrity (lost 1) (t / 65536)))
        ∧ (∀ p, go = .ok p → s.unitFails p = false →
          c = if isHeader (s.codeWord t) then none else some (.trap (flow 1)))))
  ∧ (∀ (s : State) (st : Stall) (p : Pred) (sense : Bool) (a2 : BitVec 5) (o : BitVec 19) (l : Nat) (f : Fail),
      let w := s.wave
      let near : Nat := (((w.pc : Int) + 4 * o.toInt) % 2 ^ 64).toNat
      let pair (l : Nat) : Option Nat := some (s.met.readV64 l (2 * a2.toNat)).toNat
      let fails (pre : Nat → Option Fail) (tg : Nat → Option Nat) (l : Nat) : Option Fail :=
        pre l <|> (tg l).bind (fun t => (s.met.roomBelow (fun i => (tg i).toList) l).targetCheck l t)
      let traps (u : Uses) (pre : Nat → Option Fail) (tg : Nat → Option Nat) (out : Out) : Prop :=
        s.Ready u → w.activeLanes.find? (fun l => (fails pre tg l).isSome) = some l → fails pre tg l = some f →
        out = s.met.raise l f ∧ ∀ i, f = .trap i → out = s.met.trapHere i l
      let stack (code l : Nat) : Fail := .trap
        { group := 13, code := code, d0 := w32 (l % 256), d1 := w32 (16 * (w.fib l).frames.length),
          d2 := w32 (w.fib l).slim }
      let full (l : Nat) : Option Fail :=
        if (w.fib l).slim < 16 * (w.fib l).frames.length + 16 then some (stack 1 l) else none
      let empty (l : Nat) : Option Fail := if (w.fib l).frames = [] then some (stack 2 l) else none
      let top (l : Nat) : Option Nat := some ((w.fib l).frames.headD (0, 0)).1.toNat
      traps { rp := [p.toNat] } (fun _ => none) (fun l => if s.met.readP l p.toNat != sense then some near else none)
        (exec (.brp st p sense o) s)
      ∧ traps {} (fun _ => none) (fun _ => some near) (exec (.bra st o) s)
      ∧ traps { rv := [(2 * a2.toNat, 2)] } (fun _ => none) pair (exec (.brx st a2) s)
      ∧ ((∀ l ∈ w.activeLanes, w.sysOlds .slim l = []) →
        traps { rv := [(2 * a2.toNat, 2)] } full pair (exec (.callx st a2) s)
        ∧ traps {} full (fun _ => some near) (exec (.call st o) s)
        ∧ traps {} empty top (exec (.ret st) s)))

/-- 10 R222: a JOIN is held until every earlier predicate write has landed. Without an open record of its identifier it
opens one, whose expected lanes are those that have not ended and whose Pn is 1; the active fibres whose Pn is 1 arrive
at the record and wait, the others pass through. When every expected lane that has not ended has arrived, the record
closes and all that wait in it run again at the word after their clause. A fibre that arrives at an open record that
does not expect its lane traps with code 0x004, and a JOIN that finds eight open records and none of its identifier with
code 0x005. -/
def Obligations.JoinResult : Prop :=
  ∀ (s : State) (st : Stall) (p : Pred) (im : Byte),
    s.Ready {} →
    let w := s.wave
    let out : Out := exec (.join st p im) s
    let after : Nat := match w.cur with | some x => x.endAddr | none => pc48 (w.pc + 4)
    let want (l : Nat) : Bool := (w.fib l).alive && (w.fib l).pred p.toNat
    let comes (l : Nat) : Bool := (w.fib l).active && (w.fib l).pred p.toNat
    let trap (code l : Nat) : Out :=
      s.met.trapHere { group := 14, code := code, d2 := w32 (l % 256 + im.toNat % 256 * 256) } l
    let goes (full : Bool) (t : State) : Prop := out = .next t ∧ t.mem = s.mem ∧ t.wave.retcnt = w.retcnt + 1
      ∧ t.wave.cur = none ∧ t.wave.s = w.s
      ∧ ∀ l, l < w.lanes.length →
        (t.wave.fib l).v = (w.fib l).v ∧ (t.wave.fib l).preds = (w.fib l).preds
        ∧ ((w.fib l).inSet = true → (t.wave.fib l).pc = after)
        ∧ (comes l = true → (t.wave.fib l).run = if full then .running else .joining)
    (s.met.wave.predPending = true → out = s.met.hold)
    ∧ (s.met.wave.predPending = false → w.joinRec im = none →
      let full : Bool := (List.range w.lanes.length).all (fun l => !want l || comes l)
      (w.joins.length < 8 → (∀ r ∈ w.joins, w.joinFull r = false) →
        ∃ t, goes full t ∧ (full = true → t.wave.joins = w.joins)
          ∧ (full = false → ∃ r, t.wave.joins = w.joins ++ [r] ∧ r.id = im
              ∧ ∀ l, l < w.lanes.length → (l ∈ r.expected ↔ want l = true) ∧ (l ∈ r.arrived ↔ comes l = true)))
      ∧ (8 ≤ w.joins.length → out = trap 5 w.lowest))
    ∧ (∀ r, s.met.wave.predPending = false → w.joinRec im = some r →
      let others := w.joins.filter (fun q => q.id != im)
      let full : Bool := r.expected.all (fun l => r.arrived.contains l || comes l || !(w.fib l).alive)
      (∀ l, w.activeLanes.find? (fun l => comes l && !r.expected.contains l) = some l → out = trap 4 l)
      ∧ ((∀ l ∈ w.activeLanes, comes l = true → l ∈ r.expected) → (∀ q ∈ others, w.joinFull q = false) →
        ∃ t, goes full t ∧ (full = true → t.wave.joins = others)
          ∧ (full = false → ∃ q, t.wave.joins = others ++ [q] ∧ q.id = im ∧ q.expected = r.expected
              ∧ ∀ l, l ∈ q.arrived ↔ l ∈ r.arrived ∨ l < w.lanes.length ∧ comes l = true)
          ∧ ∀ l, l < w.lanes.length → (w.fib l).run = .joining →
            (t.wave.fib l).run = if full = true ∧ (w.fib l).jid = im then .running else .joining))

/-! ### Taking an exception and returning from one -/

/-- 20 R373 to R376, R382, R383: a precise trap of a wave that has a handler and is not in it writes TCAUSE, TPC and
TDET0 to TDET2, turns handler mode on, clears the set's WHEN state and sends every fibre of the set, the guarded ones
too, to TVEC; it saves the clause for TRET, does not retire, and changes no register, no memory and nothing outside
the wave. A trap of a wave whose TVEC is 0, or of a set that is in the handler, is not delivered: no register changes
and the wave ends failed, with a record that says so and whether the trap was nested. -/
def Obligations.TrapEntry : Prop :=
  (∀ (s : State) (i : TrapInfo) (l : Nat),
      s.wave.tvec ≠ 0 → s.wave.handler = false → i.group < 32 → i.code < 2048 →
      let w := s.wave
      ∃ t, s.trapHere i l = .next t
        ∧ t = { s with wave := t.wave, fresh := t.fresh }
        ∧ t.wave.tcause = BitVec.ofNat 32 (i.group * 2048 + i.code)
        ∧ t.wave.tpc = BitVec.ofNat 64 w.pc
        ∧ t.wave.tdet0 = i.d0 ∧ t.wave.tdet1 = i.d1 ∧ t.wave.tdet2 = i.d2
        ∧ t.wave.handler = true ∧ t.wave.resume = { addr := w.pc, clause := w.cur } ∧ t.wave.cur = none
        ∧ t.wave.retcnt = w.retcnt ∧ t.wave.s = w.s ∧ t.wave.fpstat = w.fpstat ∧ t.wave.d = w.d
        ∧ ∀ k, k < w.lanes.length →
          let f := w.fib k
          let g := t.wave.fib k
          g.v = f.v ∧ g.preds = f.preds ∧ g.base = f.base ∧ g.frames = f.frames ∧ g.vtags = f.vtags
          ∧ (f.inSet = true → g.pc = pc48 w.tvec.toNat ∧ g.run = .running ∧ g.spans = [] ∧ g.rspans = f.spans
              ∧ g.inHandler = true)
          ∧ (f.inSet = false → g = f))
  ∧ (∀ (s : State) (i : TrapInfo) (l : Nat),
      (s.wave.tvec = 0 ∨ s.wave.handler = true) →
      ∃ t r, s.trapHere i l = .next t ∧ t.wave.dying = some r
        ∧ r.info = i ∧ r.unhandled = true ∧ r.nested = s.wave.handler ∧ r.abandoned = false ∧ r.retired = false
        ∧ r.pc = s.wave.pc ∧ r.fibid = (s.wave.fib l).fibid ∧ r.ctx = s.wave.ctx
        ∧ r.core = s.core.num ∧ r.wctx = s.wave.slot
        ∧ t.wave.lanes = s.wave.lanes ∧ t.wave.s = s.wave.s ∧ t.wave.tcause = s.wave.tcause
        ∧ t = { s with wave := t.wave, fresh := t.fresh })

/-- 20 R374, R375, R377, R378: TRAP and BRK take the trap of their cause group, with TPC at the word after the trapping
clause, from which TRET begins afresh. TRET outside handler mode traps with cause group 14, code 6. In handler mode,
with a target that R214 admits, every fibre of the handler's set that has not ended resumes at TPC: inside the recorded
clause, with its WHEN spans and guards again, where TPC is the recorded point, else unguarded; handler mode ends. -/
def Obligations.SoftwareTrapAndReturn : Prop :=
  (∀ (s : State) (st : Stall) (d : Reg) (code : BitVec 11),
      s.wave.tvec ≠ 0 → s.wave.handler = false →
      let w := s.wave
      let after : Nat := match w.cur with | some x => x.endAddr | none => pc48 (w.pc + 4)
      let enters (group code : Nat) (d0 d1 : Word) (o : Out) : Prop :=
        ∃ t, o = .next t ∧ t = { s with wave := t.wave, fresh := t.fresh }
          ∧ t.wave.tcause = BitVec.ofNat 32 (group * 2048 + code) ∧ t.wave.tpc = BitVec.ofNat 64 after
          ∧ t.wave.tdet0 = d0 ∧ t.wave.tdet1 = d1 ∧ t.wave.tdet2 = 0 ∧ t.wave.handler = true
          ∧ t.wave.resume = { addr := after, clause := none } ∧ t.wave.retcnt = w.retcnt
          ∧ ∀ l, l < w.lanes.length →
            (t.wave.fib l).v = (w.fib l).v ∧ ((w.fib l).inSet = true → (t.wave.fib l).pc = pc48 w.tvec.toNat)
      (s.Ready { rv := [(d.toNat, 1)] } →
        enters 15 code.toNat (s.met.readV w.lowest d.toNat) (BitVec.ofNat 32 (w.lowest % 256)) (exec (.trap st d code) s))
      ∧ (s.Ready {} → enters 16 0 0 (BitVec.ofNat 32 (w.lowest % 256)) (exec (.brk st) s)))
  ∧ (∀ (s : State) (st : Stall),
      s.Ready {} →
      let w := s.wave
      let inside : Option ClauseBuf := if w.tpc.toNat = w.resume.addr then w.resume.clause else none
      let target : Nat := match inside with | some c => c.addr | none => w.tpc.toNat
      w.sysOlds .tpc 0 = [] →
      (w.handler = false → exec (.tret st) s = s.met.trapHere
        { group := 14, code := 6, d0 := w32 w.tpc.toNat, d1 := w32 (w.tpc.toNat / 2 ^ 32), d2 := w32 (w.lowest % 256) }
          w.lowest)
      ∧ (w.handler = true → s.met.targetCheck w.lowest target = none →
        ∃ t, exec (.tret st) s = .next t ∧ t.mem = s.mem ∧ t.core = s.core
          ∧ t.wave.handler = false ∧ t.wave.retcnt = w.retcnt + 1 ∧ t.wave.s = w.s
          ∧ t.wave.tcause = w.tcause ∧ t.wave.tpc = w.tpc
          ∧ ∀ l, l < w.lanes.length →
            let f := w.fib l
            let g := t.wave.fib l
            g.v = f.v ∧ g.preds = f.preds ∧ g.frames = f.frames ∧ g.base = f.base
            ∧ (f.inHandler = true → f.alive = true →
              g.pc = w.tpc.toNat ∧ g.run = .running ∧ g.clause = inside
              ∧ g.spans = (if inside.isSome then f.rspans else []))
            ∧ (f.inHandler = false → f.inSet = false → g.pc = f.pc ∧ g.run = f.run)))

/-! ### The steward's mode -/

/-- 03 R62, 18 R331, R333, R351, 20 R386, R387: in user mode every steward's word raises decode fault 0x00D at the
word, with the word as fetched, its clause header and its index. In steward mode WTWAKE sets the state of the entry
that its token names, gives back the interest of what waits on it, frees the entry where none is left, and wakes the
fibres of every core that are parked on it, with P15 = 1 for success; a stale token has no effect. That every status
but 0 is a failure is the model's reading (log 57). -/
def Obligations.StewardWords : Prop :=
  (∀ (s : State) (st : Stall) (sc : Scope) (a b d : Reg) (a2 : BitVec 5) (r : SysReg) (c : ClauseBuf),
      s.wave.steward = false → s.wave.cur = some c →
      let n : Nat := c.indexOf s.wave.pc
      let trap : Out := s.trapHere
        { group := 1, code := 0x00D, d0 := c.words.getD (n - 1) 0, d1 := c.hdr, d2 := w32 n } (s.wave.setLanes.headD 0)
      exec (.tlbiPage st sc a2 b) s = trap ∧ exec (.tlbiCtx st sc b) s = trap ∧ exec (.tlbiAll st sc) s = trap
      ∧ exec (.wtwake st a b) s = trap ∧ exec (.sfqheadWrite st d) s = trap
      ∧ (r.isSteward = true → exec (.srd st d r) s = trap ∧ exec (.swr st d r) s = trap))
  ∧ (∀ (s : State) (st : Stall) (a b : Reg),
      s.wave.steward = true → s.Ready { rs := [a.toNat, b.toNat] } →
      let tok : Word := s.met.readS a.toNat
      let ok : Bool := decide (s.met.readS b.toNat = 0)
      let n (d : Nat) (e : WtEntry) : Nat := (s.allWaves.map (fun w => w.waiters (tokenOf d e))).sum
      let wakes (w v : Wave) : Prop := v.lanes.length = w.lanes.length ∧ ∀ l, l < w.lanes.length →
        (v.fib l).v = (w.fib l).v
        ∧ ((w.fib l).run = .parked → (w.fib l).park = .wait tok →
          (v.fib l).run = .running ∧ (v.fib l).park = .none ∧ (v.fib l).pred 15 = ok)
        ∧ (∀ i lead, (w.fib l).run = .parked → (w.fib l).park = .fault tok i lead →
          (v.fib l).run = .running ∧ (v.fib l).park = .none ∧ (v.fib l).pc = (w.fib l).pc
          ∧ (v.fib l).wakeTrap = if ok then none else some (i, lead))
        ∧ ((w.fib l).park = .none → v.fib l = w.fib l)
      (s.anyToken tok = none → exec (.wtwake st a b) s = .next (s.met.finish st true))
      ∧ (∀ d e, s.anyToken tok = some (d, e) → tokenOf d e = tok →
        ∃ t, exec (.wtwake st a b) s = .next t ∧ t.wave.s = s.wave.s ∧ t.wave.retcnt = s.wave.retcnt + 1
          ∧ (ok = true ∨ e.records = [] → t.mem = s.mem)
          ∧ (t.die d).waits = ((s.die d).waits.map (fun y =>
              if y.idx = e.idx then
                { y with state := if ok then .succeeded else .failed, interest := y.interest - n d e, records := [] }
              else y)).filter (fun y => !(y.idx == e.idx && y.interest == 0))
          ∧ t.core.waves.length = s.core.waves.length ∧ t.cores.length = s.cores.length
          ∧ (∀ (i : Nat) (w v : Wave), s.core.waves[i]? = some w → t.core.waves[i]? = some v → wakes w v)
          ∧ (∀ (j i : Nat) (c c' : Core) (w v : Wave), s.cores[j]? = some c → t.cores[j]? = some c' →
            c.waves[i]? = some w → c'.waves[i]? = some v → wakes w v)))

/-- 20 R386, 18 R334, R335: in steward mode a TLBI reaches every core of its scope, the issuing wave waits for all of
them, and no translation is dropped before a core acknowledges. An acknowledgement drops from its core, and from the
core's cluster, what the oldest TLBI that no access blocks names, and keeps every other translation; the issuing wave
waits for one core less, and a TLBI.ctx makes the context's page-table root and descriptor table effective. That a
context's registers take effect with the TLBI is the model's reading (log 55). -/
def Obligations.TlbiReaches : Prop :=
  (∀ (s : State) (st : Stall) (sc : Scope) (b : Reg) (a2 : BitVec 5),
      s.wave.steward = true →
      let cores : List Nat := match sc with
        | .cluster => (List.range 4).map (fun i => s.core.num / 4 * 4 + i)
        | .die => (List.range 48).map (fun i => s.core.num / 48 * 48 + i)
        | .device => List.range 192
        | .fibre => [] | .wave => [] | .group => [] | .domain => [] | .system => []
      let sends (k : TlbiKind) (ctx : Nat) (o : Out) : Prop :=
        let t : Tlbi := { wid := s.wave.wid, kind := k, ctx := ctx }
        ∃ u, o = .next u ∧ u.mem = s.mem ∧ u.wave.tlbiWait = cores
          ∧ (∀ l, (u.wave.fib l).v = (s.wave.fib l).v) ∧ u.wave.s = s.wave.s
          ∧ u.core.tlbiPend = s.core.tlbiPend ++ (if cores.contains s.core.num then [t] else [])
          ∧ u.cores.map (fun c => c.tlbiPend)
            = s.cores.map (fun c => c.tlbiPend ++ (if cores.contains c.num then [t] else []))
          ∧ u.core.tlb = s.core.tlb ∧ u.cores.map (fun c => c.tlb) = s.cores.map (fun c => c.tlb)
      (s.Ready { rs := [2 * a2.toNat, 2 * a2.toNat + 1, b.toNat] } →
        sends (.page ((s.met.readS64 (2 * a2.toNat)).toNat % 2 ^ 56)) ((s.met.readS b.toNat).toNat % 4096)
          (exec (.tlbiPage st sc a2 b) s))
      ∧ (s.Ready { rs := [b.toNat] } →
        sends .ctx ((s.met.readS b.toNat).toNat % 4096) (exec (.tlbiCtx st sc b) s))
      ∧ (s.Ready {} → sends .all 0 (exec (.tlbiAll st sc) s)))
  ∧ (∀ (s : State) (t : Tlbi),
      s.core.tlbiPend.find? (fun t =>
        !t.blockedBy s.core (s.wave :: s.core.waves ++ s.savedFrom s.core.num)) = some t →
      ∃ u, exec (.tlbiAck s.core.num) s = .next u ∧ u.mem = s.mem
        ∧ u.core.tlb = s.core.tlb.filter (fun e => !t.drops e)
        ∧ (sget {} u.clusters (s.core.num / 4)).tlb = (sget {} s.clusters (s.core.num / 4)).tlb.filter (fun e => !t.drops e)
        ∧ u.core.tlbiPend = s.core.tlbiPend.filter (fun x => x != t)
        ∧ u.wave.tlbiWait = (if s.wave.wid = t.wid then s.wave.tlbiWait.filter (fun i => i != s.core.num)
            else s.wave.tlbiWait)
        ∧ (t.kind = .ctx → ∀ c, s.context t.ctx = some c → ∃ c', u.context t.ctx = some c'
            ∧ c'.ptroot = c.ptrootW ∧ c'.tdtbase = c.tdtbaseW ∧ c'.tdtcnt = c.tdtcntW)
        ∧ (t.kind ≠ .ctx → u.contexts = s.contexts))



/-! ### Between clauses -/

/-- 02 R25 to R28, R36, 09 R200: with no clause under way the wave selects its set by PC and, where a valid clause
stands at that address, the set stands at the clause's first word, the header's wait mask holds it, and no register,
predicate or byte of memory changes. 20 R379, R380: TIMER at zero sets TZ and, with TIE, makes the trap pending; at a
clause boundary outside handler mode the set about to issue takes a pending trap, group 19 before group 17, with TPC
at the header, and executes nothing. The points at which a pending trap is taken are the model's reading (log 56). -/
def Obligations.ClauseAndBoundary : Prop :=
  (∀ (s : State) (h : Nat) (c : ClauseBuf) (hd : Header),
      let s1 : State := s.onWave (fun w => w.select h)
      s.wave.cur = none → s.wave.choosePc = some h → s1.wave.wokenTrap = none → s1.wave.standing = none →
      s1.wave.boundaryDue = false → s1.findClause (s1.wave.setLanes.headD 0) h = .clause c hd →
      ∃ t, exec .clauseDecode s = .next t ∧ t.mem = s.mem
        ∧ t.wave.cur = some c ∧ c.addr = h ∧ t.wave.waitMask = s.wave.waitMask ||| hd.wait
        ∧ t.wave.retcnt = s.wave.retcnt ∧ t.wave.slotNo = s.wave.slotNo ∧ t.wave.s = s.wave.s
        ∧ ∀ l, l < s.wave.lanes.length →
          let f := s.wave.fib l
          let g := t.wave.fib l
          let sel : Bool := s.wave.mayIssue f && f.pc == h
          g.v = f.v ∧ g.preds = f.preds ∧ g.run = f.run ∧ g.inSet = sel ∧ g.pc = (if sel then pc48 (h + 4) else f.pc))
  ∧ (∀ s : State,
      (s.wave.det = false → bit s.wave.tctl.toNat 0 = true → s.wave.timer ≠ 0 →
        ∃ t, exec .timerExpire s = .next t ∧ t.mem = s.mem ∧ t.core = s.core
          ∧ t.wave.timer = 0 ∧ t.wave.tctl = s.wave.tctl ||| 4
          ∧ t.wave.pend17 = (s.wave.pend17 || bit s.wave.tctl.toNat 1)
          ∧ t.wave.ctxcyc = s.wave.ctxcyc + s.wave.timer.setWidth 64 ∧ t.wave.lanes = s.wave.lanes)
      ∧ (∀ h, let s1 : State := s.onWave (fun w => w.select h)
        let l := s1.wave.setLanes.headD 0
        s.wave.cur = none → s.wave.handler = false → s.wave.choosePc = some h → s1.wave.wokenTrap = none →
        s1.wave.standing = none → s1.fallsWrong l h = false → s.wave.tvec ≠ 0 → s1.wave.pc = h →
        (∀ p ps, s.wave.pend19 = p :: ps → p.info.group < 32 → p.info.code < 2048 →
          ∃ t, exec .boundaryTrap s = .next t ∧ t.mem = s.mem
            ∧ t.wave.tcause = w32 (p.info.group * 2048 + p.info.code) ∧ t.wave.tpc = BitVec.ofNat 64 h
            ∧ t.wave.pend19 = ps ∧ t.wave.pend17 = s.wave.pend17 ∧ t.wave.handler = true)
        ∧ (s.wave.pend19 = [] → s.wave.pend17 = true →
          ∃ t, exec .boundaryTrap s = .next t ∧ t.mem = s.mem
            ∧ t.wave.tcause = w32 (17 * 2048 + 1) ∧ t.wave.tdet0 = s.wave.tctl ∧ t.wave.tpc = BitVec.ofNat 64 h
            ∧ t.wave.pend17 = false ∧ t.wave.handler = true
            ∧ ∀ k ∈ s1.wave.setLanes, (t.wave.fib k).pc = pc48 s.wave.tvec.toNat ∧ (t.wave.fib k).inHandler = true)))


/-! ### Memory words at issue -/

/-- 13 R270 to R276, R280, 18 R330, 22 R405: where every active fibre passes the checks, a load, a store, an acquire,
a release, PREQ, PROMO or CFLUSH is issued with one request per active fibre at base + o, for the bytes of its type;
nothing is read or written yet. The pages take their cellar reservations fibre by fibre (log 24). -/
def Obligations.GlobalAccessIssued : Prop :=
  ∀ (s : State) (st : Stall) (sc : Scope) (d : Reg) (c : Num4) (x : Index) (k : MCtr),
    let m := s.met
    let u (wv rv : List (Nat × Nat)) (wp : List Nat) : Uses :=
      Uses.plus { wv := wv, rv := rv, wp := wp } (x.reads.plus (quadReads c.toNat))
    let dst (l : Nat) : Nat := (s.wave.fib l).base + d.toNat
    let res (l : Nat) : LaneUse := { cap := m.capSFor l c.toNat, off := x.val m l, dst := dst l }
    let src (n l : Nat) : LaneUse :=
      { cap := m.capSFor l c.toNat, off := x.val m l,
        data := if n = 8 then m.readV64 l d.toNat else (m.readV l d.toNat).setWidth 64 }
    let g : GlobalUse := { kind := .store, w := 1, sc := sc, ctr := k.toNat, need := pLoad, acc := .read }
    let st' : GlobalUse := { g with need := pStore, acc := .write, write := true }
    (∀ t : LdType, s.IssuesGlobal (u [(d.toNat, if t.bytes = 8 then 2 else 1)] [] [])
        { g with kind := .load t, w := t.bytes } res (exec (.ld st t sc d c x k) s))
    ∧ (∀ t : NrType, s.IssuesGlobal (u [(d.toNat, if t.bytes = 8 then 2 else 1)] [] [15])
        { g with kind := .loadNr t.bytes, w := t.bytes, nonres := true } res (exec (.ldnr st t sc d c x k) s))
    ∧ (∀ t : StType, s.IssuesGlobal (u [] [(d.toNat, if t.bytes = 8 then 2 else 1)] [])
        { st' with w := t.bytes, nt := t.isNt } (src t.bytes) (exec (.store st t sc d c x k) s))
    ∧ s.IssuesGlobal (u [(d.toNat, 1)] [] []) { g with kind := .load .n32, w := 4, atomic := true, acquire := true } res
        (exec (.ldaN32 st sc d c x k) s)
    ∧ s.IssuesGlobal (u [(d.toNat, 2)] [] []) { g with kind := .load .n64, w := 8, atomic := true, acquire := true } res
        (exec (.ldaN64 st sc d c x k) s)
    ∧ s.IssuesGlobal (u [] [(d.toNat, 1)] []) { st' with w := 4, atomic := true, release := true } (src 4)
        (exec (.stlN32 st sc d c x k) s)
    ∧ s.IssuesGlobal (u [] [(d.toNat, 2)] []) { st' with w := 8, atomic := true, release := true } (src 8)
        (exec (.stlN64 st sc d c x k) s)
    ∧ s.IssuesGlobal (u [(d.toNat, 1)] [] []) { g with kind := .preq, sc := .fibre, acc := .probe, nonres := true } res
        (exec (.preq st d c x k) s)
    ∧ s.IssuesGlobal (u [(d.toNat, 1)] [] []) { g with kind := .promo, sc := .fibre, acc := .probe, nonres := true }
        res (exec (.promo st d c x k) s)
    ∧ s.IssuesGlobal (x.reads.plus (quadReads c.toNat)) { g with kind := .cflush, sc := .fibre, acc := .probe }
        (fun l => { cap := m.capSFor l c.toNat, off := x.val m l }) (exec (.cflush st c x k) s)

/-- 13 R284, R286, 22 R414: a gather or scatter is issued where the quad is the same in every active fibre, each
fibre's element at w times its index; an atomic through a global capability, KVALLOC for 128 bytes and KVSET for 8 are
issued with their operands. An atomic through a Vat capability is issued on the own Vat, at base + o. -/
def Obligations.GatherAndAtomicIssued : Prop :=
  ∀ (s : State) (st : Stall) (sc : Scope) (k : MCtr) (x : Index) (d : Reg),
    let m := s.met
    let w := s.wave
    let dst (l n : Nat) : Nat := (w.fib l).base + n
    let data (l n b : Nat) : DWord := if b = 8 then m.readV64 l n else (m.readV l n).setWidth 64
    let g : GlobalUse := { kind := .store, w := 4, sc := sc, ctr := k.toNat, need := pLoad, acc := .read }
    let rmw : GlobalUse := { g with need := pLoadStore, acc := .rmw, write := true, atomic := true, release := true }
    (∀ q : Num4,
      (∀ l ∈ w.activeLanes, m.readVQuad l q.toNat = m.readVQuad w.lowest q.toNat
        ∧ m.vtag l q.toNat = m.vtag w.lowest q.toNat) →
      let u (wv rv : List (Nat × Nat)) : Uses := Uses.plus { wv := wv, rv := rv } (x.reads.plus (vquadReads q.toNat))
      let at' (n l : Nat) : LaneUse :=
        { cap := { cap := m.readVQuad l q.toNat, tag := m.vtag l q.toNat, num := q.toNat, isQ := true }
          off := n * x.val m l }
      s.IssuesGlobal (u [(d.toNat, 1)] []) { g with kind := .load .n32, gather := true }
          (fun l => { at' 4 l with dst := dst l d.toNat }) (exec (.gathN32 st sc d q x k) s)
      ∧ s.IssuesGlobal (u [(d.toNat, 2)] []) { g with kind := .load .n64, w := 8, gather := true }
          (fun l => { at' 8 l with dst := dst l d.toNat }) (exec (.gathN64 st sc d q x k) s)
      ∧ s.IssuesGlobal (u [] [(d.toNat, 1)])
          { g with need := pStore, acc := .write, write := true, gather := true }
          (fun l => { at' 4 l with data := data l d.toNat 4 }) (exec (.scatN32 st sc d q x k) s)
      ∧ s.IssuesGlobal (u [] [(d.toNat, 2)])
          { g with w := 8, need := pStore, acc := .write, write := true, gather := true }
          (fun l => { at' 8 l with data := data l d.toNat 8 }) (exec (.scatN64 st sc d q x k) s))
    ∧ (∀ (t : AtomType) (o : AtomOp) (d4 : Num4) (c : BitVec 3) (pair : BitVec 5),
      let n := 4 * d4.toNat
      let off (l : Nat) : Nat := (m.readV64 l (2 * pair.toNat)).toNat
      let y (l : Nat) : LaneUse :=
        { cap := m.capSFor l c.toNat, off := off l, dst := dst l n, data := data l n t.bytes,
          data2 := data l (n + (if t.bytes = 8 then 2 else 1)) t.bytes }
      let a (ret : Bool) : GlobalUse := { rmw with kind := .atom t o ret, w := t.bytes, acquire := ret }
      s.IssuesGlobal (atomUses t o true n c.toNat pair) (a true) y (exec (.atom st t o sc d4 c pair k) s)
      ∧ s.IssuesGlobal (atomUses t o false n c.toNat pair) (a false) y (exec (.ared st t o sc d4 c pair k) s)
      ∧ (∀ (ret : Bool) (gid : Nat), s.Open (atomUses t o ret n c.toNat pair) → w.ctr k.toNat < 63 →
        capGlobal (m.capSFor w.lowest c.toNat).cap = false → w.group = some gid →
        (∀ l ∈ w.activeLanes,
          (w.fib l).beyond ((atomUses t o ret n c.toNat pair).wv ++ (atomUses t o ret n c.toNat pair).rv) = none
          ∧ (m.capSFor l c.toNat).check pLoadStore l (off l) t.bytes = none
          ∧ m.AdmitsVat .own gid l ((y l).addr) t.bytes t.bytes
              (w.activeLanes.map (fun i => { (y i).touch (a ret) i with space := .vat gid }))
          ∧ m.stampCheck (w.activeLanes.map (fun i => { (y i).touch (a ret) i with space := .vat gid }))
              { (y l).touch (a ret) l with space := .vat gid } = none) →
        (m.filled gid (w.activeLanes.map (fun i => { (y i).touch (a ret) i with space := .vat gid }))).Issues
          { kind := .atom t o ret, space := .vat gid, w := t.bytes, sc := sc, ctr := k.toNat, pc := w.pc,
            acquire := ret, release := true, stamp := s.fresh,
            reqs := w.activeLanes.map (fun l =>
              { lane := l, virt := (y l).addr, phys := (y l).addr, dst := dst l n, fibid := (w.fib l).fibid,
                data := (y l).data, data2 := (y l).data2 }) }
          (exec (if ret then .atom st t o sc d4 c pair k else .ared st t o sc d4 c pair k) s)))
    ∧ (∀ c : Num4,
      let u (wv rv : List (Nat × Nat)) : Uses := Uses.plus { wv := wv, rv := rv } (x.reads.plus (quadReads c.toNat))
      let y (v : DWord) (l : Nat) : LaneUse :=
        { cap := m.capSFor l c.toNat, off := x.val m l, dst := dst l d.toNat, data := v }
      s.IssuesGlobal (u [(d.toNat, 2)] [(d.toNat, 1)]) { rmw with kind := .kvalloc, w := 128, acquire := true }
          (fun l => y ((m.readV l d.toNat).setWidth 64) l) (exec (.kvalloc st sc d c x k) s)
      ∧ s.IssuesGlobal (u [(d.toNat, 2)] [(d.toNat, 2)]) { rmw with kind := .kvset, w := 8, acquire := true }
          (fun l => y (m.readV64 l d.toNat) l) (exec (.kvset st sc d c x k) s))

/-- 13 R277, R278: where every active fibre passes the checks, a Vat load or store is issued on the Vat its target
names, at the byte offset its index gives; a capability store carries the quad's tag, and VLDS reads one word for the
lowest active fibre. -/
def Obligations.VatAccessIssued : Prop :=
  ∀ (s : State) (st : Stall) (d : Reg) (v : VatTarget) (x : Index) (k : MCtr) (pair : BitVec 5),
    let m := s.met
    let w := s.wave
    let res (l : Nat) : LaneReq := { dst := (w.fib l).base + d.toNat }
    let u (wv rv : List (Nat × Nat)) : Uses := Uses.plus { wv := wv, rv := rv } x.reads
    let off (l : Nat) : Nat := x.val m l
    let load (kind : MemKind) (n r : Nat) (out : Out) : Prop :=
      s.IssuesVat (u [(d.toNat, r)] []) { kind := kind, w := n, ctr := k.toNat } v w.activeLanes off res out
    let store (kind : MemKind) (n r : Nat) (req : Nat → LaneReq) (out : Out) : Prop :=
      s.IssuesVat (u [] [(d.toNat, r)]) { kind := kind, w := n, ctr := k.toNat, write := true } v w.activeLanes off req
        out
    load (.load .n32) 4 1 (exec (.vldN32 st d v x k) s)
    ∧ load (.load .n64) 8 2 (exec (.vldN64 st d v x k) s)
    ∧ load .loadCap 16 4 (exec (.vldCap st d v x k) s)
    ∧ store .store 4 1 (fun l => { data := (m.readV l d.toNat).setWidth 64 }) (exec (.vstN32 st d v x k) s)
    ∧ store .store 8 2 (fun l => { data := m.readV64 l d.toNat }) (exec (.vstN64 st d v x k) s)
    ∧ store .store 1 1 (fun l => { data := (m.readV l d.toNat).setWidth 64 }) (exec (.vstN8 st d v x k) s)
    ∧ store .storeCap 16 4
        (fun l => { data := m.readV64 l d.toNat, data2 := m.readV64 l (d.toNat + 2), tag := m.vtag l (d.toNat / 4) })
        (exec (.vstCap st d v x k) s)
    ∧ s.IssuesVat (Uses.plus { ws := [d.toNat] } (({ isS := true, pair := pair } : Index).reads))
        { kind := .loadS, w := 4, ctr := k.toNat } v [w.lowest] (fun _ => (m.readS64 (2 * pair.toNat)).toNat)
        (fun _ => { dst := d.toNat }) (exec (.vldsN32 st d v pair k) s)

/-- 13 R271, 18 R325, R328: the checks of a global load or store come in the table's order, fibre by fibre, and the
lowest active fibre that fails one is reported with the first that it fails: tag, permissions, bounds, alignment, bits
63:56, the stamps of a checked region, translation. No fibre then accesses anything. The first six take a precise
trap. A translation fault posts a record with the token of the page's wait-table entry and parks the set at the word;
a page that is moving parks it without a record, and with no free entry the word is held. The pages of the lanes below
take their cellar reservations first (log 24). -/
def Obligations.AccessTraps : Prop :=
  ∀ (s : State) (st : Stall) (t : StType) (ty : LdType) (sc : Scope) (d : Reg) (c : Num4) (x : Index) (k : MCtr)
    (l : Nat),
    let m := s.met
    let w := s.wave
    let die : Nat := dieOf s.core.num
    let q (i : Nat) : Quad := m.readSQuadFor i c.toNat
    let o (i : Nat) : Nat := x.val m i
    let a (i : Nat) : Nat := (q i).toNat % 2 ^ 64 + o i
    let fails (need n : Nat) (acc : Access) (isW : Bool) (out : Out) : Prop :=
      let touch (i : Nat) : Touch := { lane := i, space := .global, lo := a i, n := n, write := isW, atomic := false }
      let all : List Touch := w.activeLanes.map touch
      let room (i : Nat) : State :=
        m.reserveAll w.ctx ((all.filter (fun y => decide (y.lane < i))).map (fun y => y.lo))
      let go (i : Nat) : Except Nat Nat := (room i).translate w.ctx (a i) acc
      let caps (i : Nat) : Prop := m.stagFor i c.toNat = true ∧ Nat.land (capPerm (q i)) need = need
      let plain (i : Nat) : Prop := caps i ∧ o i + n ≤ capLen (q i) ∧ a i % n = 0 ∧ a i < 2 ^ 56
      let passes (i : Nat) : Prop := plain i ∧ m.stampCheck all (touch i) = none
        ∧ ∃ p, go i = .ok p ∧ (acc = .read → (room i).unitFails p = false)
      let info (group code d0 d1 d2 : Nat) : TrapInfo :=
        { group := group, code := code, d0 := BitVec.ofNat 32 d0, d1 := BitVec.ofNat 32 d1, d2 := BitVec.ofNat 32 d2 }
      let trap (group code d0 d1 d2 : Nat) : Prop := out = m.trapHere (info group code d0 d1 d2) l
      let cap (code : Nat) : Prop := trap 5 code (l % 256 + c.toNat * 256) (o l) (o l / 2 ^ 32)
      let tr (code : Nat) : TrapInfo := info 4 code (a l) (a l / 2 ^ 32) (l % 256 + acc.code * 256)
      let tier (code : Nat) : TrapInfo := info 18 code (a l) (a l / 2 ^ 32) 0
      let parks (i : TrapInfo) (record : Bool) : Prop :=
        let y := m.interest die w.ctx (a l / 65536)
        (y.2 = none → out = m.hold)
        ∧ ∀ tok, y.2 = some tok →
          let rec0 : FaultRecord := s.recordOf { i with d2 := tok } (w.fib l).fibid w.pc
          let z := s.die die
          ∃ t, out = .next t ∧ t.wave.retcnt = w.retcnt ∧ t.wave.s = w.s ∧ t.wave.outst = w.outst
            ∧ (record = false → t.mem = s.mem)
            ∧ (record = true → z.posts = [] →
              let slot : Nat := z.sfqbase.toNat + 32 * (z.sfqtail.toNat % max z.sfqcap.toNat 1)
              (z.sfqcap.toNat ≤ (z.sfqtail - z.sfqhead).toNat → t.mem = s.mem ∧ (t.die die).posts = [rec0])
              ∧ ((z.sfqtail - z.sfqhead).toNat < z.sfqcap.toNat → s.unitOf slot = none →
                t.mem = putBytes s.mem slot (rec0.bytes z.sfqtail.toNat) ∧ (t.die die).sfqtail = z.sfqtail + 1))
            ∧ ∀ j, j < w.lanes.length →
              ((w.fib j).inSet = false → t.wave.fib j = w.fib j)
              ∧ ((w.fib j).inSet = true → (t.wave.fib j).run = .parked ∧ (t.wave.fib j).v = (w.fib j).v
                ∧ (t.wave.fib j).preds = (w.fib j).preds ∧ (t.wave.fib j).pc = (w.fib j).pc
                ∧ (t.wave.fib j).park
                  = .fault tok (if i.group = 18 then { i with d2 := tok } else i) (if j = l then some w.pc else none))
      (∀ i ∈ w.activeLanes, i < l → passes i) →
      (m.stagFor l c.toNat = false → cap 1)
      ∧ (m.stagFor l c.toNat = true → Nat.land (capPerm (q l)) need ≠ need → cap 2)
      ∧ (caps l →
        (capLen (q l) < o l + n → cap 3)
        ∧ (o l + n ≤ capLen (q l) → a l % n ≠ 0 → trap 7 1 (a l) (a l / 2 ^ 32) (l % 256 + n * 256))
        ∧ (o l + n ≤ capLen (q l) → a l % n = 0 → 2 ^ 56 ≤ a l → out = m.trapHere (tr 1) l))
      ∧ (plain l →
        (∀ f, m.stampCheck all (touch l) = some f → ∃ code d0 d1 d2, (code = 1 ∨ code = 2) ∧ trap 6 code d0 d1 d2)
        ∧ (m.stampCheck all (touch l) = none →
          (go l = .error 2 →
            ((room l).pageState w.ctx (a l / 65536) = .absent ∨ (room l).pageState w.ctx (a l / 65536) = .resident →
              parks (tr 2) true)
            ∧ ((room l).pageState w.ctx (a l / 65536) = .failed → parks (tier 2) true)
            ∧ ((room l).pageState w.ctx (a l / 65536) = .moving → parks (tr 2) false))
          ∧ (∀ code, go l = .error code → code ≠ 1 → code ≠ 2 → parks (tr code) true)
          ∧ (∀ p, go l = .ok p → acc = .read → (room l).unitFails p = true →
            out = m.raise l (.integrity (tier 1) (a l / 65536)))))
    l ∈ s.wave.activeLanes → s.wave.ctr k.toNat < 63 →
    ((w' : Nat) → w' = ty.bytes →
      s.Open (Uses.plus { wv := [(d.toNat, regsOf w')] } (x.reads.plus (quadReads c.toNat))) →
      (∀ i ∈ w.activeLanes, i ≤ l → (w.fib i).beyond ((d.toNat, regsOf w') :: x.reads.rv) = none) →
      fails 129 w' .read false (exec (.ld st ty sc d c x k) s))
    ∧ ((w' : Nat) → w' = t.bytes →
      s.Open (Uses.plus { rv := [(d.toNat, regsOf w')] } (x.reads.plus (quadReads c.toNat))) →
      (∀ i ∈ w.activeLanes, i ≤ l → (w.fib i).beyond ((d.toNat, regsOf w') :: x.reads.rv) = none) →
      fails 130 w' .write true (exec (.store st t sc d c x k) s))

/-! ### Performing an access -/

/-- 13 R273, R274, R276, R279, R280, 12 R268: the granules of mapped regions that an access touches are filled first,
also where the region was mapped after the issue (log 38). A load gives each request's registers the bytes at its
address, extended as its type says, unless a later instruction has written them, and changes no byte; a store writes
its w low bytes, the highest lane last, clears the tags of the Vat granules it touches, and changes no other byte and
no register. The counter falls by one and the word retires. LDNR reads the page where it lies when it is performed: if
it is resident, its bytes with P15 = 1, else 0 with P15 = 0 (13 R275). A capability load brings the granule's tag with
the 16 bytes and a capability store takes the quad's with it; VLDS writes its S register (13 R278). VSYNC and VUNMAP
write every dirty byte of the pages that were translated to its global address, mark it clean, and change no other
byte; VUNMAP then removes the binding (13 R289, 12 R269). -/
def Obligations.AccessPerformed : Prop :=
  ∀ (s : State) (k : Nat) (o : MemOp), s.Performs k o → s.hasSpace o.space →
    let f : State := s.fillFor o
    (∀ ty : LdType, o.kind = .load ty →
      let v (q : LaneReq) : Nat := f.valueIn o.space q.phys ty.bytes
      let word (q : LaneReq) (i : Nat) : Word := match ty with
        | .n8 => (BitVec.ofNat 8 (v q)).zeroExtend 32
        | .i8 => (BitVec.ofNat 8 (v q)).signExtend 32
        | .n16 => (BitVec.ofNat 16 (v q)).zeroExtend 32
        | .i16 => (BitVec.ofNat 16 (v q)).signExtend 32
        | .n32 => BitVec.ofNat 32 (v q)
        | .n64 => BitVec.ofNat 32 (v q / 2 ^ (32 * i))
      let n : Nat := if ty = .n64 then 2 else 1
      ∃ t, exec (.accessComplete k) s = .next t ∧ f.Completed t k o ∧ t.mem = s.mem ∧ t.groups = f.groups
        ∧ t.wave.s = s.wave.s ∧ (∀ l p, (t.wave.fib l).pred p = (f.wave.fib l).pred p)
        ∧ (∀ q ∈ o.reqs, q.lane < s.wave.lanes.length → (∀ q' ∈ o.reqs, q'.lane = q.lane → q' = q) → ∀ i, i < n →
            (t.wave.fib q.lane).reg (q.dst + i)
              = if o.dead.contains (.v, q.lane, q.dst + i) then (s.wave.fib q.lane).reg (q.dst + i) else word q i)
        ∧ ∀ l r, (∀ q ∈ o.reqs, q.lane = l → r < q.dst ∨ q.dst + n ≤ r) → (t.wave.fib l).reg r = (s.wave.fib l).reg r)
    ∧ (o.kind = .store →
      let covers (a : Nat) (q : LaneReq) : Bool := decide (q.phys ≤ a) && decide (a < q.phys + o.w)
      ∃ t, exec (.accessComplete k) s = .next t ∧ t.wave.outst = s.wave.outst.eraseIdx k
        ∧ (∀ c, t.wave.ctr c = s.wave.ctr c - (if c = o.ctr then 1 else 0))
        ∧ t.wave.s = s.wave.s ∧ (∀ l r, (t.wave.fib l).reg r = (s.wave.fib l).reg r)
        ∧ (∀ a, t.byteIn o.space a = match (o.reqs.filter (covers a)).getLast? with
            | some q => BitVec.ofNat 8 (q.data.toNat / 256 ^ (a - q.phys))
            | none => f.byteIn o.space a)
        ∧ (o.space ≠ .global → t.mem = s.mem)
        ∧ ∀ gid, o.space = .vat gid → ∀ a, (o.reqs.filter (covers a)) ≠ [] → (t.groupD gid).vtag a = false)
    ∧ (∀ ty : NrType, o.kind = .loadNr ty.bytes → o.space = .global →
      let home (q : LaneReq) : Option Nat := match s.translate s.wave.ctx q.virt .read with
        | .ok p => if s.pageState s.wave.ctx (q.virt / 65536) = .resident then some p else none
        | .error _ => none
      let n : Nat := if ty = .n64 then 2 else 1
      ∃ t, exec (.accessComplete k) s = .next t ∧ s.Completed t k o ∧ t.mem = s.mem ∧ t.groups = s.groups
        ∧ t.wave.s = s.wave.s
        ∧ (∀ q ∈ o.reqs, q.lane < s.wave.lanes.length → (∀ q' ∈ o.reqs, q'.lane = q.lane → q' = q) →
          ((t.wave.fib q.lane).pred 15 = if o.dead.contains (.p, q.lane, 15) then (s.wave.fib q.lane).pred 15
            else (home q).isSome)
          ∧ ∀ i, i < n → (t.wave.fib q.lane).reg (q.dst + i)
              = if o.dead.contains (.v, q.lane, q.dst + i) then (s.wave.fib q.lane).reg (q.dst + i)
                else match home q with
                  | some p => BitVec.ofNat 32 (s.rd p ty.bytes / 2 ^ (32 * i))
                  | none => 0)
        ∧ ∀ l r, (∀ q ∈ o.reqs, q.lane = l → r < q.dst ∨ q.dst + n ≤ r) →
          (t.wave.fib l).reg r = (s.wave.fib l).reg r)
    ∧ (o.kind = .loadS → ∀ q, o.reqs = [q] →
      ∃ t, exec (.accessComplete k) s = .next t ∧ f.Completed t k o ∧ t.mem = s.mem ∧ t.groups = f.groups
        ∧ (∀ l r, (t.wave.fib l).reg r = (s.wave.fib l).reg r)
        ∧ ∀ r, t.wave.sreg r = if r = q.dst ∧ o.dead.contains (.s, 0, r) = false
            then BitVec.ofNat 32 (f.valueIn o.space q.phys 4) else s.wave.sreg r)
    ∧ (∀ gid, o.space = .vat gid →
      let g := f.groupD gid
      (o.kind = .loadCap →
        ∃ t, exec (.accessComplete k) s = .next t ∧ f.Completed t k o ∧ t.mem = s.mem ∧ t.groups = f.groups
          ∧ t.wave.s = s.wave.s
          ∧ (∀ q ∈ o.reqs, q.lane < s.wave.lanes.length → (∀ q' ∈ o.reqs, q'.lane = q.lane → q' = q) →
            let dead (i : Nat) : Bool := o.dead.contains (.v, q.lane, q.dst + i)
            (∀ i, i < 4 → (t.wave.fib q.lane).reg (q.dst + i) = if dead i then (s.wave.fib q.lane).reg (q.dst + i)
                else BitVec.ofNat 32 (g.rd q.phys 16 / 2 ^ (32 * i)))
            ∧ ((∀ i, i < 4 → dead i = false) → q.dst % 4 = 0 → (t.wave.fib q.lane).tag q.dst = g.vtag q.phys))
          ∧ ∀ l r, (∀ q ∈ o.reqs, q.lane = l → r < q.dst ∨ q.dst + 4 ≤ r) →
            (t.wave.fib l).reg r = (s.wave.fib l).reg r)
      ∧ (o.kind = .storeCap → (∀ q ∈ o.reqs, q.phys % 16 = 0) →
        ∃ t, exec (.accessComplete k) s = .next t ∧ t.wave.outst = s.wave.outst.eraseIdx k ∧ t.mem = s.mem
          ∧ (∀ c, t.wave.ctr c = s.wave.ctr c - (if c = o.ctr then 1 else 0)) ∧ t.wave.s = s.wave.s
          ∧ (∀ l r, (t.wave.fib l).reg r = (s.wave.fib l).reg r)
          ∧ ∀ a, match (o.reqs.filter (fun q => q.phys == a / 16 * 16)).getLast? with
            | some q => (t.groupD gid).vtag a = q.tag ∧ (t.groupD gid).rdByte a
                = BitVec.ofNat 8 ((q.data.toNat + q.data2.toNat * 2 ^ 64) / 256 ^ (a % 16))
            | none => (t.groupD gid).vtag a = g.vtag a ∧ (t.groupD gid).rdByte a = g.rdByte a)
      ∧ (∀ off drop b, o.kind = .vsync off drop → (s.groupD gid).binds.find? (fun x => x.off == off) = some b →
        let at' (i : Nat) : Nat := b.gaddr + (i - off)
        let takes (q : LaneReq) (i : Nat) : Prop :=
          i ∈ b.dirty ∧ q.dst ≠ 2 ^ 32 ∧ q.virt ≤ at' i ∧ at' i < q.virt + q.dst
        (∀ i ∈ b.dirty, off ≤ i ∧ i < off + b.len) →
        o.reqs.Pairwise (fun x y => (x.virt + x.dst ≤ y.virt ∨ y.virt + y.dst ≤ x.virt)
          ∧ (x.phys + x.dst ≤ y.phys ∨ y.phys + y.dst ≤ x.phys)) →
        ∃ t, exec (.accessComplete k) s = .next t ∧ s.Completed t k o ∧ t.wave.s = s.wave.s
          ∧ (∀ l, t.wave.fib l = s.wave.fib l) ∧ (t.groupD gid).vat = (s.groupD gid).vat
          ∧ (∀ q ∈ o.reqs, ∀ i, takes q i → t.rdByte (q.phys + (at' i - q.virt)) = (s.groupD gid).rdByte i)
          ∧ (∀ a, (∀ q ∈ o.reqs, ∀ i, takes q i → a ≠ q.phys + (at' i - q.virt)) → t.rdByte a = s.rdByte a)
          ∧ (drop = true → ∀ x ∈ (t.groupD gid).binds, x.off ≠ off)
          ∧ (drop = false → ∃ x, (t.groupD gid).binds.find? (fun x => x.off == off) = some x
              ∧ ∀ i, i ∈ x.dirty ↔ i ∈ b.dirty ∧ ∀ q ∈ o.reqs, ¬ takes q i)))

/-- 13 R284, R285: each address that an atomic names gets one read-modify-write, its lanes in increasing order; a lane
of ATOM receives the value after the lanes before it, ARED writes no register, and no other byte changes. Integers
wrap, .f32 rounds to nearest even. 22 R410, R412, R415, R416: KVALLOC takes for each lane in turn the first free block
of the tier that its operand names, writes its entry as allocated and marked as the pool's act flag says, moves the
list's head to the next block and lowers the count; the lane receives the sequence-table entry, or 0 where there is no
block. A free count below lowmark asks for a fining cycle. KVSET exchanges 8 bytes, and appends the old and the new
value to the log of each pool whose mark flag stands at the core. -/
def Obligations.AtomicPerformed : Prop :=
  (∀ (s : State) (k : Nat) (o : MemOp) (ty : AtomType) (op : AtomOp) (ret : Bool),
      s.Performs k o → s.hasSpace o.space → o.kind = .atom ty op ret → o.w = ty.bytes →
      (∀ q ∈ o.reqs, q.phys % ty.bytes = 0) → (o.reqs.map (fun q => q.lane)).Nodup →
      let f : State := s.fillFor o
      let n := 8 * ty.bytes
      let int (v : Nat) : Int := if ty = .i32 ∨ ty = .i64 then (BitVec.ofNat n v).toInt else v
      let step (v x y : Nat) : Nat := match op with
        | .add => if ty = .f32 then (fpAdd fp32 .rne v x).code else (v + x) % 2 ^ n
        | .min => if ty = .f32 then (minMax fp32 false v x).code else if int v ≤ int x then v else x
        | .max => if ty = .f32 then (minMax fp32 true v x).code else if int v ≤ int x then x else v
        | .bitAnd => v &&& x
        | .bitOr => v ||| x
        | .bitXor => v ^^^ x
        | .exch => x
        | .cas => if v = x then y else v
      let at' (p : Nat) : List LaneReq := o.reqs.filter (fun q => q.phys == p)
      let run (p i : Nat) : Nat := ((at' p).take i).foldl
        (fun v q => step v (q.data.toNat % 2 ^ n) (q.data2.toNat % 2 ^ n)) (f.valueIn o.space p ty.bytes)
      ∃ t, exec (.accessComplete k) s = .next t ∧ t.wave.outst = s.wave.outst.eraseIdx k
        ∧ (∀ c, t.wave.ctr c = s.wave.ctr c - (if c = o.ctr then 1 else 0)) ∧ t.wave.s = s.wave.s
        ∧ (∀ q ∈ o.reqs, t.valueIn o.space q.phys ty.bytes = run q.phys o.reqs.length % 2 ^ n)
        ∧ (∀ a, (∀ q ∈ o.reqs, a < q.phys ∨ q.phys + ty.bytes ≤ a) → t.byteIn o.space a = f.byteIn o.space a)
        ∧ (∀ l r, (ret = false ∨ ∀ q ∈ o.reqs, q.lane = l → r < q.dst ∨ q.dst + n / 32 ≤ r) →
            (t.wave.fib l).reg r = (s.wave.fib l).reg r)
        ∧ (ret = true → ∀ p i q, (at' p)[i]? = some q → q.lane < s.wave.lanes.length → ∀ j, j < n / 32 →
            (t.wave.fib q.lane).reg (q.dst + j)
              = if o.dead.contains (.v, q.lane, q.dst + j) then (s.wave.fib q.lane).reg (q.dst + j)
                else BitVec.ofNat 32 (run p i / 2 ^ (32 * j))))
  ∧ (∀ (s : State) (k : Nat) (o : MemOp),
      s.Performs k o → o.space = .global →
      let ctx := s.wave.ctx
      let lands (ask : State → LaneReq → State × Nat) : Prop :=
        let upto (i : Nat) : State := (o.reqs.take i).foldl (fun s q => (ask s q).1) s
        ∃ t, exec (.accessComplete k) s = .next t ∧ s.Completed t k o ∧ t.mem = (upto o.reqs.length).mem
          ∧ (t.ctxD ctx).pools = ((upto o.reqs.length).ctxD ctx).pools ∧ t.groups = s.groups ∧ t.wave.s = s.wave.s
          ∧ (∀ (i : Nat) (q : LaneReq), o.reqs[i]? = some q → q.lane < s.wave.lanes.length →
            (∀ q' ∈ o.reqs, q'.lane = q.lane → q' = q) → ∀ j, j < 2 →
            (t.wave.fib q.lane).reg (q.dst + j) = if o.dead.contains (.v, q.lane, q.dst + j)
              then (s.wave.fib q.lane).reg (q.dst + j) else BitVec.ofNat 32 ((ask (upto i) q).2 / 2 ^ (32 * j)))
          ∧ ∀ l r, (∀ q ∈ o.reqs, q.lane = l → r < q.dst ∨ q.dst + 2 ≤ r) →
            (t.wave.fib l).reg r = (s.wave.fib l).reg r
      let log (s : State) (v : Nat) : State :=
        if v % 2 = 1 ∧ s.core.marks.contains (ctx, v / 16 % 64) = true then s.logAppend ctx v else s
      (o.kind = .kvalloc → lands (fun s q =>
        let r := s.kvAllocLane ctx q.phys (q.data.toNat % 4)
        (r.1.kvLow ctx q.phys (r.1.desc q.phys 101 1), r.2)))
      ∧ (o.kind = .kvset → lands (fun s q =>
        let old := s.rd q.phys 8
        (log (log (s.wrN q.phys q.data.toNat 8) old) q.data.toNat, old))))
  ∧ (∀ (s : State) (ctx p t : Nat),
      let tab := s.rd (p + 8 * t) 8
      let free := s.rd (p + 48 + 8 * t) 8
      let r := s.kvAllocLane ctx p t
      (1 < t ∨ tab = 0 ∨ free = 2 ^ 40 - 1 → r = (s, 0))
      ∧ (∀ a, t ≤ 1 → tab ≠ 0 → free ≠ 2 ^ 40 - 1 → free < s.rd (p + 32 + 8 * t) 8 →
        s.ctxPhys ctx (tab + 16 * free) .read = some a → (a + 16 ≤ p ∨ p + 128 ≤ a) →
        bits r.2 0 0 = 1 ∧ bits r.2 9 4 = s.rd (p + 101) 1 % 64 ∧ bits r.2 49 10 = free % 2 ^ 40
        ∧ bits r.2 51 50 = t ∧ bits r.2 63 52 = deviceOf p % 4096
        ∧ bits (r.1.rd a 16) 127 126 = 1 ∧ bit (r.1.rd a 16) 125 = bit (s.rd (p + 102) 1) 0
        ∧ bits (r.1.rd a 16) 103 0 = bits (s.rd a 16) 103 64 * 2 ^ 64 + bits (s.rd a 16) 55 0
        ∧ r.1.rd (p + 48 + 8 * t) 8 = bits (s.rd a 16) 103 64
        ∧ r.1.rd (p + 64 + 8 * t) 8 = s.rd (p + 64 + 8 * t) 8 - 1
        ∧ ∀ x, (x < a ∨ a + 16 ≤ x) → (x < p + 48 + 8 * t ∨ p + 56 + 8 * t ≤ x) →
          (x < p + 64 + 8 * t ∨ p + 72 + 8 * t ≤ x) → r.1.rdByte x = s.rdByte x)
      ∧ (∀ num x, s.poolNum ctx num = some x →
        let low : Prop := (s.rd (p + 64) 8 < s.rd (p + 88) 4 ∨ s.rd (p + 72) 8 < s.rd (p + 88) 4)
          ∧ bit (s.rd (p + 102) 1) 0 = false ∧ bit (s.rd (p + 102) 1) 2 = false
        (s.kvLow ctx p num).mem = s.mem
        ∧ (low → x.phase = 0 → (s.kvLow ctx p num).poolNum ctx num = some { x with phase := 1 })
        ∧ (¬ low ∨ x.phase ≠ 0 → (s.kvLow ctx p num).poolNum ctx num = some x)))
  ∧ (∀ (s : State) (ctx v p a : Nat) (x : Pool),
      s.poolNum ctx (bits v 9 4) = some x → s.ctxPhys ctx x.desc .read = some p →
      let cap := s.rd (p + 80) 4
      let n := s.rd (p + 84) 4
      n - x.logRead < cap → s.ctxPhys ctx (s.rd (p + 24) 8 + 8 * (n % cap)) .write = some a →
      (a + 8 ≤ p ∨ p + 128 ≤ a) →
      let t := s.logAppend ctx v
      t.rd a 8 = v % 2 ^ 64 ∧ t.rd (p + 84) 4 = (n + 1) % 2 ^ 32
      ∧ ∀ y, (y < a ∨ a + 8 ≤ y) → (y < p + 84 ∨ p + 88 ≤ y) → t.rdByte y = s.rdByte y)

/-- 20 R385: an access whose home refuses it leaves zero in the registers it would have written and makes the trap of
cause group 19 pending for each fibre that has not ended; its counter falls and it retires. Where the launch has no
error queue, no byte of memory changes. -/
def Obligations.AccessRefused : Prop :=
  ∀ (s : State) (k : Nat) (o : MemOp) (ty : LdType) (why : RefusalKind),
    s.wave.outst[k]? = some o → s.mayPerform k = true → o.kind = .load ty → o.space = .global → o.reqs ≠ [] →
    (why = .refused ∨ why = .link) →
    (∀ q ∈ o.reqs, q.phys / 65536 = (o.reqs.headD {}).phys / 65536 ∧ (s.wave.fib q.lane).alive = true) →
    (∀ c ∈ s.launches, c.id = s.wave.launch → c.errq = 0) →
    let n : Nat := if ty = .n64 then 2 else 1
    let code : Nat := if why = .link then 4 else 1
    ∃ t, exec (.homeRefusal k why) s = .next t ∧ s.Completed t k o ∧ t.mem = s.mem ∧ t.wave.dying = s.wave.dying
      ∧ t.wave.pend19 = s.wave.pend19 ++ o.reqs.map (fun q =>
          { info := { group := 19, code := code, d0 := BitVec.ofNat 32 q.virt, d1 := BitVec.ofNat 32 (q.virt / 2 ^ 32),
                      d2 := BitVec.ofNat 32 (q.lane % 256 + o.w % 256 * 256) }
            fibid := q.fibid, pc := o.pc, seq := 0, wctx := s.wave.slot, core := s.core.num })
      ∧ (∀ q ∈ o.reqs, q.lane < s.wave.lanes.length → ∀ i, i < n → o.dead.contains (.v, q.lane, q.dst + i) = false →
          (t.wave.fib q.lane).reg (q.dst + i) = 0)
      ∧ ∀ l r, (∀ q ∈ o.reqs, q.lane = l → r < q.dst ∨ q.dst + n ≤ r) → (t.wave.fib l).reg r = (s.wave.fib l).reg r

/-! ### Ordering, mapped regions and waits -/

/-- 13 R281 to R283, R288, R289, 12 R252, R268, R269: a fence is held while an earlier access of an active fibre, its
own or one that an engine makes for it, is not performed, and then completes at issue and changes no counter; IFENCE
discards the core's instruction copies and its BRX targets, DFENCE its TDT copies. With no such access left, VMAP adds
a binding with every granule unfilled and clean, and VSYNC and VUNMAP are issued with one request for each 256-byte
granule of the binding at Sd and each page of it that holds a dirty byte; no byte changes at issue. -/
def Obligations.FencesAndMappedRegions : Prop :=
  (∀ (s : State) (st : Stall) (sc : Scope),
      s.Ready {} →
      let busy : Prop := (∃ o ∈ s.wave.outst, ∃ q ∈ o.reqs, (s.wave.fib q.lane).active = true)
        ∨ s.core.engBefore s.wave.wid s.fresh (fun l => (s.wave.fib l).active) = true
      let t : State := s.met.finish st true
      (busy → exec (.fence st sc) s = s.met.hold ∧ exec (.ifence st sc) s = s.met.hold
        ∧ exec (.dfence st sc) s = s.met.hold)
      ∧ (¬ busy → exec (.fence st sc) s = .next t
        ∧ exec (.ifence st sc) s = .next { t with core := { s.core with icache := [], brx := [] } }
        ∧ exec (.dfence st sc) s = .next { t with core := { s.core with tdtCache := [] } }))
  ∧ (∀ (s : State) (st : Stall) (sc : Scope) (d : Reg) (c : Num4) (pair : BitVec 5) (k : MCtr) (gid : Nat),
      let m := s.met
      let w := s.wave
      let g := s.groupD gid
      let off := (m.readS d.toNat).toNat
      w.group = some gid → w.ctr k.toNat < 63 → s.accessBusy = false →
      (let len := (m.readS (d.toNat + 1)).toNat
        let o := (m.readS64 (2 * pair.toNat)).toNat
        let a := capBase (m.readSQuad c.toNat) + o
        let b : Binding :=
          { off := off, len := len, gaddr := a, sc := sc, lane := w.lowest, slot := w.slot,
            fibid := (w.fib w.lowest).fibid, pc := w.pc }
        s.Open (Uses.plus { rs := [d.toNat, d.toNat + 1] }
          ((({ isS := true, pair := pair } : Index).reads).plus (quadReads c.toNat))) →
        (m.capS c.toNat).check (pLoadStore ||| pGlobal) w.lowest o len = none →
        off % 256 = 0 → len % 256 = 0 → len ≠ 0 → o % 256 = 0 → a < 2 ^ 56 → off + len ≤ g.size →
        g.binds.length < 8 → (∀ x ∈ g.binds, off + len ≤ x.off ∨ x.off + x.len ≤ off) →
        s.Issues
          { kind := .vmap, space := .vat gid, sc := sc, ctr := k.toNat, pc := w.pc, acquire := true, stamp := s.fresh,
            reqs := [{ lane := w.lowest, fibid := (w.fib w.lowest).fibid }] }
          (exec (.vmap st sc d c pair k) s)
        ∧ ∀ t, exec (.vmap st sc d c pair k) s = .next t →
          (t.groupD gid).binds = g.binds ++ [b] ∧ (t.groupD gid).vat = g.vat)
      ∧ (∀ (b : Binding) (pa : Nat → Nat), s.Open { rs := [d.toNat] } →
        g.binds.find? (fun x => x.off == off) = some b →
        m.backGo (b.backTouches w.lowest) w.lowest b.backParts = none →
        (∀ y ∈ b.backParts, m.translate w.ctx y.1 .write = .ok (pa y.1)) →
        let op (drop : Bool) : MemOp :=
          { kind := .vsync off drop, space := .vat gid, w := 256, sc := sc, ctr := k.toNat, pc := w.pc, release := true,
            stamp := s.fresh,
            reqs := if b.backParts = [] then
                [{ lane := w.lowest, dst := 2 ^ 32, fibid := (w.fib w.lowest).fibid }]
              else b.backParts.map (fun y =>
                { lane := w.lowest, virt := y.1, phys := pa y.1, dst := y.2, fibid := (w.fib w.lowest).fibid }) }
        s.Issues (op false) (exec (.vsync st sc d k) s) ∧ s.Issues (op true) (exec (.vunmap st sc d k) s)
        ∧ ∀ a, (∃ y ∈ b.backParts, y.1 ≤ a ∧ a < y.1 + y.2) ↔
            ∃ i ∈ b.dirty, ∃ j ∈ b.dirty, (i - b.off) / 256 = (j - b.off) / 256
              ∧ a / 65536 = (b.gaddr + (j - b.off)) / 65536
              ∧ b.gaddr + (i - b.off) / 256 * 256 ≤ a ∧ a < b.gaddr + (i - b.off) / 256 * 256 + 256))

/-- 18 R331, R332: PWAIT continues with P15 = 1 on a zero token or a live entry that has succeeded, with P15 = 0 on a
stale token or an entry that has failed, parks every active fibre on a pending entry, or under det is held; a live
entry that is not pending loses one interest for each fibre. PCANCEL is issued with the fibres' tokens. 18 R329, R330,
R332, 22 R404, R405: PREQ, PROMO and PCANCEL are performed lane by lane in order, each on the tables that the lanes
before it leave, and change no memory but what a withdrawn promotion puts back. PREQ gives 0 for a resident page,
0xFFFFFFFE for a failed one, and else the token of the page's entry, whose interest rises by one, or of a new pending
entry with a generation of its own; 0xFFFFFFFF where the table is full. PROMO gives 0 for a resident page of tier 0 or
3, joins a move or a live entry, and else allocates an entry and queues a promotion. PCANCEL gives one interest of a
live token back; at zero a pending entry is freed and its promotion withdrawn. -/
def Obligations.TokenWords : Prop :=
  (∀ (s : State) (st : Stall) (d : Reg) (k : MCtr) (tok : Word),
      let m := s.met
      let w := s.wave
      let out : Out := exec (.pwait st d) s
      (s.Ready { rv := [(d.toNat, 1)], wp := [15] } → (∀ l ∈ w.activeLanes, m.readV l d.toNat = tok) →
        let goes (p15 : Bool) (t : State) : Prop :=
          out = .next t ∧ t.mem = s.mem ∧ t.wave.retcnt = w.retcnt + 1 ∧ t.wave.s = w.s
          ∧ ∀ l, l < w.lanes.length → (t.wave.fib l).v = (w.fib l).v ∧ (t.wave.fib l).run = (w.fib l).run
            ∧ ((w.fib l).inSet = true → (t.wave.fib l).pc = pc48 ((w.fib l).pc + 4))
            ∧ ∀ p, (t.wave.fib l).pred p = if (w.fib l).active = true ∧ p = 15 then p15 else (w.fib l).pred p
        (tok = 0 → ∃ t, goes true t ∧ t.dies = s.dies)
        ∧ (tok ≠ 0 → m.tokenEntry w.ctx tok = none → ∃ t, goes false t ∧ t.dies = s.dies)
        ∧ (∀ die e, tok ≠ 0 → m.tokenEntry w.ctx tok = some (die, e) →
          (e.state ≠ .pending → w.activeLanes.length < e.interest →
            (∀ x ∈ (s.die die).waits, x.idx = e.idx → x = e) →
            ∃ t, goes (decide (e.state = .succeeded)) t
              ∧ t.tokenEntry w.ctx tok = some (die, { e with interest := e.interest - w.activeLanes.length }))
          ∧ (e.state = .pending → w.det = true → out = m.hold)
          ∧ (e.state = .pending → w.det = false →
            ∃ t, out = .next t ∧ t.mem = s.mem ∧ t.dies = s.dies ∧ t.wave.retcnt = w.retcnt + 1
              ∧ ∀ l, l < w.lanes.length →
                (t.wave.fib l).v = (w.fib l).v ∧ (t.wave.fib l).preds = (w.fib l).preds
                ∧ ((w.fib l).active = true → (t.wave.fib l).run = .parked ∧ (t.wave.fib l).park = .wait tok
                    ∧ (t.wave.fib l).pc = (w.fib l).pc)
                ∧ ((w.fib l).active = false → (t.wave.fib l).run = (w.fib l).run))))
      ∧ (s.Open { rv := [(d.toNat, 1)] } → w.ctr k.toNat < 63 →
        (∀ l ∈ w.activeLanes, (w.fib l).beyond [(d.toNat, 1)] = none) →
        s.Issues
          { kind := .pcancel, ctr := k.toNat, pc := w.pc, stamp := s.fresh,
            reqs := w.activeLanes.map (fun l =>
              { lane := l, data := (m.readV l d.toNat).setWidth 64, fibid := (w.fib l).fibid }) }
          (exec (.pcancel st d k) s)))
  ∧ (∀ (s : State) (k : Nat) (o : MemOp),
      s.Performs k o → o.space = .global →
      let lands (ask : State → Nat → State × Word) : Prop :=
        let upto (i : Nat) : State := (o.reqs.take i).foldl (fun s q => (ask s (q.virt / 65536)).1) s
        ∃ t, exec (.accessComplete k) s = .next t ∧ s.Completed t k o ∧ t.mem = s.mem ∧ t.groups = s.groups
          ∧ t.dies = (upto o.reqs.length).dies ∧ t.wave.s = s.wave.s
          ∧ (∀ (i : Nat) (q : LaneReq), o.reqs[i]? = some q → q.lane < s.wave.lanes.length →
            (∀ q' ∈ o.reqs, q'.lane = q.lane → q' = q) →
            (t.wave.fib q.lane).reg q.dst = if o.dead.contains (.v, q.lane, q.dst)
              then (s.wave.fib q.lane).reg q.dst else (ask (upto i) (q.virt / 65536)).2)
          ∧ ∀ l r, (∀ q ∈ o.reqs, q.lane = l → r ≠ q.dst) → (t.wave.fib l).reg r = (s.wave.fib l).reg r
      (o.kind = .preq → lands State.preqPage) ∧ (o.kind = .promo → lands State.promoPage)
      ∧ (o.kind = .pcancel →
        let u : State := o.reqs.foldl (fun s q => s.cancelToken (lo32 q.data)) s
        ∃ t, exec (.accessComplete k) s = .next t ∧ s.Completed t k o ∧ t.mem = u.mem ∧ t.dies = u.dies
          ∧ t.moves = u.moves ∧ t.groups = s.groups ∧ t.wave.s = s.wave.s ∧ ∀ l, t.wave.fib l = s.wave.fib l))
  ∧ (∀ (s : State) (page : Nat),
      let ctx := s.wave.ctx
      let die : Nat := dieOf s.core.num
      let full : Word := 0xFFFFFFFF
      let joins (d : Nat) (e : WtEntry) (t : State) : Prop :=
        (t.die d).waits = (s.die d).waits.map (fun y => if y.idx = e.idx then { y with interest := y.interest + 1 } else y)
        ∧ (t.die d).promoQ = (s.die d).promoQ ∧ t.mem = s.mem
      let opens (i : Nat) (queued : List (Nat × Nat)) (r : State × Word) : Prop :=
        let g : Nat := nextGen (sget 0 (s.die die).gens i)
        let e : WtEntry := { idx := i, gen := g, ctx := ctx, page := page, interest := 1 }
        r.2 = BitVec.ofNat 32 (g * 65536 + die * 16384 + i) ∧ g ≠ 0 ∧ (r.1.die die).waits = (s.die die).waits ++ [e]
        ∧ (∀ y ∈ (s.die die).waits, y.idx ≠ i) ∧ i < 1024
        ∧ sget 0 (r.1.die die).gens i = g ∧ (r.1.die die).promoQ = (s.die die).promoQ ++ queued ∧ r.1.mem = s.mem
      let asks (queued : List (Nat × Nat)) (room : Prop) (r : State × Word) : Prop :=
        (∀ d e, s.findWait ctx page = some (d, e) → r.2 = tokenOf d e ∧ joins d e r.1)
        ∧ (s.findWait ctx page = none →
          (¬ room → r = (s, full))
          ∧ (room → (s.die die).freeIndex = none → r = (s, full))
          ∧ (room → ∀ i, (s.die die).freeIndex = some i → opens i queued r))
      let tier : Option Nat := match s.leafOf ctx (page * 65536) with
        | .ok x => some (entTier x.ent)
        | .error _ => none
      let room : Prop := (s.die die).promoQ.length < Config.promoCapacity
      (s.pageState ctx page = .resident →
        s.preqPage page = (s, 0)
        ∧ (tier = some 0 ∨ tier = some 3 → s.promoPage page = (s, 0))
        ∧ (tier = some 1 ∨ tier = some 2 → asks [(ctx, page)] room (s.promoPage page)))
      ∧ (s.pageState ctx page = .failed → s.preqPage page = (s, 0xFFFFFFFE) ∧ s.promoPage page = (s, 0xFFFFFFFE))
      ∧ (s.pageState ctx page = .absent →
        asks [] True (s.preqPage page) ∧ asks [(ctx, page)] room (s.promoPage page))
      ∧ (s.pageState ctx page = .moving → asks [] True (s.preqPage page) ∧ asks [] True (s.promoPage page)))
  ∧ (∀ (s : State) (tok : Word),
      let t := s.cancelToken tok
      (s.tokenEntry s.wave.ctx tok = none → t = s)
      ∧ (∀ d e, s.tokenEntry s.wave.ctx tok = some (d, e) → (∀ y ∈ (s.die d).waits, y.idx = e.idx → y = e) →
        (1 < e.interest → t.mem = s.mem ∧ t.moves = s.moves
          ∧ (t.die d).waits = (s.die d).waits.map (fun y =>
              if y.idx = e.idx then { y with interest := y.interest - 1 } else y))
        ∧ (e.interest ≤ 1 → (t.die d).waits = (s.die d).waits.filter (fun y => y.idx != e.idx))
        ∧ (e.interest ≤ 1 → e.state ≠ .pending → t.mem = s.mem ∧ t.moves = s.moves)
        ∧ (e.interest ≤ 1 → e.state = .pending →
          (∀ y ∈ (t.die d).promoQ, y ≠ (e.ctx, e.page))
          ∧ ∀ m, s.moves.find? (fun m => m.ctx == e.ctx && m.page == e.page) = some m → m.promotion = true →
            ∀ y ∈ t.moves, ¬ (y.ctx = e.ctx ∧ y.page = e.page))))

/-! ### Barriers -/

/-- 14 R297 to R299, 12 R264: where every active fibre passes the checks, a barrier word is issued on the object its
index names, with one request per active fibre, and reads or changes nothing yet. BINIT takes the word of the lowest
active lane, and the group that holds the object records it; a second guard of the issuing group is no such case,
whatever the launch's chkd (log 19). -/
def Obligations.BarrierWordIssued : Prop :=
  ∀ (s : State) (st : Stall) (sc : Scope) (d : Reg) (v : VatTarget) (x : Index) (k : MCtr) (gid off : Nat),
    let m := s.met
    let w := s.wave
    let ready (wv rv : List (Nat × Nat)) : Prop :=
      s.Open (Uses.plus { wv := wv, rv := rv } x.reads) ∧ w.ctr k.toNat < 63 ∧ w.group.isSome = true
      ∧ m.target v = some gid ∧ off % 16 = 0 ∧ off + 16 ≤ (s.groupD gid).size
      ∧ ∀ l ∈ w.activeLanes, (w.fib l).beyond (wv ++ rv ++ x.reads.rv) = none ∧ x.val m l = off
        ∧ m.fillCheck gid l (m.objTouches gid off) = none ∧ (m.fillAddrs gid off 16 = [] ∨ s.accessBusy = false)
    let goes (kind : MemKind) (release : Bool) (req : Nat → LaneReq) (out : Out) : Prop :=
      (m.filled gid (m.objTouches gid off)).Issues
        { kind := kind, space := .vat gid, w := 16, sc := sc, ctr := k.toNat, pc := w.pc, release := release,
          stamp := s.fresh,
          reqs := w.activeLanes.map (fun l =>
            { req l with lane := l, virt := off, phys := off, fibid := (w.fib l).fibid }) } out
    let res (l : Nat) : LaneReq := { dst := (w.fib l).base + d.toNat }
    let init := (m.readV w.lowest d.toNat).toNat
    let g := s.groupD gid
    (∀ own, ready [] [(d.toNat, 1)] → init < 2 ^ 18 → w.group = some own → (∃ y ∈ s.groups, y.id = own) →
      (∃ y ∈ s.groups, y.id = gid) →
      (bit init 16 = true → m.guardElse (gid, off) = false) →
      (g.bars.length < 64 ∨ off ∈ g.bars) →
      goes .binit false (fun _ => { data := BitVec.ofNat 64 init }) (exec (.binit st sc d v x k) s)
      ∧ ∀ t, exec (.binit st sc d v x k) s = .next t → off ∈ (t.groupD gid).bars
          ∧ (t.groupD own).guardOff = (s.groupD own).guardOff)
    ∧ (ready [(d.toNat, 1)] [] → goes .barr true res (exec (.barr st sc d v x k) s))
    ∧ (ready [] [(d.toNat, 1)] →
      goes .bexp false (fun l => { data := (m.readV l d.toNat).setWidth 64 }) (exec (.bexp st sc d v x k) s))
    ∧ (ready [(d.toNat, 1)] [] → goes .btest false res (exec (.btest st sc d v x k) s))

/-- 14 R295, R296, R299: a BARR or BEXP is one event on its object: it adds the active fibres to arrivals, or the sum
of their Vd to target, gives each BARR fibre the phase before the event, completes the phase when arrivals equal
expected and landed equals target with the barrier not broken, and sets overrun and broken when a count passes its
bound. 14 R294, R298, 12 R264: BINIT writes a fresh object with the expected count and the trap flag of its word,
records the group's guard, and lets every fibre that waits on the object go on with P14 = 0. BTEST gives each fibre
the flags and the phase of the object, which is then checked for completion (log 18). -/
def Obligations.BarrierEvent : Prop :=
  (∀ (s : State) (k : Nat) (o : MemOp) (gid off : Nat),
      s.Performs k o → o.space = .vat gid → s.hasSpace o.space → o.reqs ≠ [] → (o.reqs.headD {}).virt = off →
      let f : State := s.fillFor o
      let b := (f.groupD gid).bar off
      let n : Nat := match o.kind with
        | .barr => o.reqs.length
        | _ => 0
      let add : Nat := match o.kind with
        | .barr => 0
        | _ => (o.reqs.map (fun q => q.data.toNat)).sum
      (o.kind = .barr ∨ o.kind = .bexp) →
      ∃ t, exec (.accessComplete k) s = .next t ∧ t.wave.outst = s.wave.outst.eraseIdx k
        ∧ (∀ c, t.wave.ctr c = s.wave.ctr c - (if c = o.ctr then 1 else 0)) ∧ t.mem = s.mem
        ∧ (let c := (t.groupD gid).bar off
          let arr := b.arrivals + n
          let tgt := b.target + add
          let past : Bool := decide (b.expected < arr) || decide (tgt < b.landed) || decide (2 ^ 32 ≤ tgt)
          c.expected = b.expected ∧ c.guardBit = b.guardBit ∧ c.trapb = b.trapb ∧ c.peer = b.peer
          ∧ c.overrun = (b.overrun || past) ∧ c.broken = (b.broken || past)
          ∧ (if b.broken = false ∧ past = false ∧ arr = b.expected ∧ b.landed = tgt then
              c.phase = (b.phase + 1) % 65536 ∧ c.arrivals = 0 ∧ c.target = 0 ∧ c.landed = 0
            else c.phase = b.phase ∧ c.arrivals = arr % 65536 ∧ c.target = tgt % 2 ^ 32 ∧ c.landed = b.landed))
        ∧ (o.kind = .barr → ∀ q ∈ o.reqs, q.lane < s.wave.lanes.length →
            (t.wave.fib q.lane).reg q.dst = if o.dead.contains (.v, q.lane, q.dst)
              then (s.wave.fib q.lane).reg q.dst else BitVec.ofNat 32 b.phase))
  ∧ (∀ (s : State) (k : Nat) (o : MemOp) (gid off : Nat),
      s.Performs k o → o.space = .vat gid → s.hasSpace o.space → o.reqs ≠ [] → (o.reqs.headD {}).virt = off →
      let f : State := s.fillFor o
      let b := (f.groupD gid).bar off
      let ends (t : State) : Prop := exec (.accessComplete k) s = .next t
        ∧ t.wave.outst = s.wave.outst.eraseIdx k ∧ t.mem = s.mem ∧ t.wave.s = s.wave.s
        ∧ (∀ c, t.wave.ctr c = s.wave.ctr c - (if c = o.ctr then 1 else 0))
        ∧ ∀ a, a < off ∨ off + 16 ≤ a → (t.groupD gid).rdByte a = (f.groupD gid).rdByte a
      (o.kind = .binit →
        let v : Nat := (o.reqs.headD {}).data.toNat
        ∃ t, ends t
          ∧ (t.groupD gid).bar off
            = { expected := v % 65536, trapb := bit v 17,
                guardBit := bit v 16 || f.groups.any (fun g => g.guardOff == some (gid, off)) }
          ∧ (∀ own, s.wave.group = some own → (∃ g ∈ s.groups, g.id = own) →
            (t.groupD own).guardOff = if bit v 16 then some (gid, off) else (s.groupD own).guardOff)
          ∧ t.core.waves.length = f.core.waves.length
          ∧ ∀ (i l : Nat) (w u : Wave) (p : Park),
            f.core.waves[i]? = some w → t.core.waves[i]? = some u → l < w.lanes.length → (w.fib l).run = .parked →
            (w.fib l).park = p →
            (match p with
              | .barrier fd x _ _ _ => x = off ∧ f.targetOf w (fieldTarget fd) = some gid
              | .none => False
              | .wait _ => False
              | .fault .. => False) →
            (u.fib l).run = .running ∧ (u.fib l).park = .none ∧ (u.fib l).pred 14 = false
            ∧ (u.fib l).v = (w.fib l).v)
      ∧ (o.kind = .btest →
        ∃ t, ends t
          ∧ (t.groupD gid).bar off
            = (if b.broken = false ∧ b.arrivals = b.expected ∧ b.landed = b.target then
                { b with phase := (b.phase + 1) % 65536, arrivals := 0, target := 0, landed := 0 } else b)
          ∧ ∀ q ∈ o.reqs, q.lane < s.wave.lanes.length →
            (t.wave.fib q.lane).reg q.dst = if o.dead.contains (.v, q.lane, q.dst) then (s.wave.fib q.lane).reg q.dst
              else BitVec.ofNat 32 (bits ((f.groupD gid).rd off 16) 63 48 * 65536 + b.phase)))

/-- 14 R295, R300, 12 R248, R257: BWAIT waits for the earlier accesses of its fibres that it must follow; then it
tests its object, which the unit checks for completion after it (log 18). On a completed phase it continues with P14 =
1; on a broken object it traps or continues with P14 = 0; else the active fibres park at the word, the others go on,
and under det the word is held. -/
def Obligations.BwaitResult : Prop :=
  ∀ (s : State) (st : Stall) (sc : Scope) (d : Reg) (v : VatTarget) (x : Index) (gid off ph : Nat),
    let m := s.met
    let w := s.wave
    s.Open (Uses.plus { rv := [(d.toNat, 1)], wp := [14] } x.reads) → w.group.isSome = true →
    m.target v = some gid → off % 16 = 0 → off + 16 ≤ (s.groupD gid).size → ph < 65536 →
    (∀ l ∈ w.activeLanes, (w.fib l).beyond ((d.toNat, 1) :: x.reads.rv) = none ∧ x.val m l = off
      ∧ (m.readV l d.toNat).toNat = ph ∧ m.fillCheck gid l (m.objTouches gid off) = none) →
    s.hasSpace (.vat gid) →
    let out : Out := exec (.bwait st sc d v x) s
    (m.mustFollow (m.waitOp gid off) = true → out = m.hold)
    ∧ (m.mustFollow (m.waitOp gid off) = false → (m.fillAddrs gid off 16 = [] ∨ s.accessBusy = false) →
    let f : State := m.filled gid (m.objTouches gid off)
    let b := (f.groupD gid).bar off
    let after : Bar := if b.broken = false ∧ b.arrivals = b.expected ∧ b.landed = b.target
      then { b with phase := (b.phase + 1) % 65536, arrivals := 0, target := 0, landed := 0 } else b
    let w : Wave := (f.barCheck gid off (w.group == some gid)).wave
    let goes (p14 : Bool) : Prop := ∃ t, out = .next t ∧ t.mem = s.mem ∧ t.wave.s = w.s
      ∧ t.wave.retcnt = w.retcnt + 1 ∧ t.wave.d = w.d ∧ (t.groupD gid).bar off = after
      ∧ ∀ l, l < w.lanes.length → (t.wave.fib l).v = (w.fib l).v ∧ (t.wave.fib l).run = (w.fib l).run
        ∧ ((w.fib l).inSet = true → (t.wave.fib l).pc = pc48 ((w.fib l).pc + 4))
        ∧ ∀ p, (t.wave.fib l).pred p = if (w.fib l).active = true ∧ p = 14 then p14 else (w.fib l).pred p
    let passes (c : Bar) : Prop :=
      1 ≤ (c.phase + 65536 - ph) % 65536 ∧ (c.phase + 65536 - ph) % 65536 ≤ 32767
    let done : Prop := passes b ∨ passes after
    (done → goes true)
    ∧ (¬ done → b.broken = true → b.trapb = false → goes false)
    ∧ (¬ done → b.broken = true → b.trapb = true →
      ∃ i : TrapInfo, out = f.trapHere i m.wave.lowest
        ∧ i.group * 2048 + i.code = if b.peer then 11 * 2048 + 2 else 10 * 2048 + 1)
    ∧ (¬ done → b.broken = false → w.det = true → out = f.hold)
    ∧ (¬ done → b.broken = false → w.det = false →
      ∃ t, out = .next t ∧ t.mem = s.mem ∧ t.wave.retcnt = w.retcnt + 1 ∧ t.wave.d = w.d
        ∧ (t.groupD gid).bar off = after
        ∧ ∀ l, l < w.lanes.length → (t.wave.fib l).v = (w.fib l).v ∧ (t.wave.fib l).preds = (w.fib l).preds
          ∧ ((w.fib l).active = true → (t.wave.fib l).run = .parked ∧ (t.wave.fib l).pc = (w.fib l).pc
              ∧ (t.wave.fib l).park = .barrier (targetField v) off ph sc (l == w.lowest))
          ∧ ((w.fib l).active = false → (t.wave.fib l).run = (w.fib l).run)))

/-! ### Engines -/

/-- 14 R308, R309, R313: KICK puts its requests, 64 bytes apart, at the end of the decanter's queue and signals its
counter, or is held while the queue has no room; OFENCE is held while an earlier write of the wave is unfinished and
else only passes, every earlier register write landed; a merge enters the Blend unit's queue, the granules of mapped
regions that it touches filled at its issue (log 38). None changes a register or a byte of memory. -/
def Obligations.EngineWordsIssued : Prop :=
  ∀ (s : State) (st : Stall) (e : Bool),
    let m := s.met
    let w := s.wave
    let c : Nat := if e then 5 else 4
    let up (f : State) (t : State) : Prop := f.wave.SameFile t.wave ∧ t.mem = s.mem ∧ t.groups = f.groups
      ∧ (∀ k, t.wave.ctr k = w.ctr k + (if k = c then 1 else 0)) ∧ t.wave.retcnt = f.wave.retcnt
    (∀ (a v : Reg) (gid off n : Nat),
      s.Open { rs := [a.toNat], rv := [(v.toNat, 1)] } → w.ctr c < 63 → w.group = some gid →
      (m.readS a.toNat).toNat = n → 1 ≤ n → n ≤ 64 → off % 64 = 0 → off + 64 * n ≤ (s.groupD gid).size →
      (∀ l ∈ w.activeLanes, (w.fib l).beyond [(v.toNat, 1)] = none ∧ (m.readV l v.toNat).toNat = off) →
      (64 < s.core.reqQ.length + n → exec (.kick st a v e) s = m.hold)
      ∧ (s.core.reqQ.length + n ≤ 64 → ∃ t, exec (.kick st a v e) s = .next t ∧ up s t
        ∧ t.core.reqQ = s.core.reqQ ++ (List.range n).map (fun j =>
            { group := gid, wid := w.wid, fibid := (w.fib w.lowest).fibid, pc := w.pc, off := off + 64 * j,
              earlier := w.outst.length, stamp := s.fresh })
        ∧ t.core.kickQ = s.core.kickQ ++ [{ wid := w.wid, ctr := c, left := n }]))
    ∧ (s.Ready {} →
      (m.fencedAll = false → exec (.ofence st) s = m.hold)
      ∧ (m.fencedAll = true → ∃ t, exec (.ofence st) s = .next t ∧ s.wave.SameFile t.wave ∧ t.mem = s.mem
        ∧ t.core = s.core ∧ t.wave.d = w.d ∧ t.wave.retcnt = w.retcnt + 1 ∧ t.wave.board = []
        ∧ t.groups.map (fun g => g.vat) = s.groups.map (fun g => g.vat)
        ∧ (s.core.arrayQ = [] → ∀ l, (t.wave.fib l).unfenced = [])))
    ∧ (∀ (a4 : Num4) (acc : Bool), s.Ready (quadReads a4.toNat) → w.ctr c < 63 →
      let q := m.readSQuad a4.toNat
      m.blendCheck acc q = .ok () → m.fillsHeld (m.blendRanges acc q) = false →
      ∃ t, exec (if acc then .blendAcc st a4 e else .blendStat st a4 e) s = .next t
        ∧ up (m.engFillAll (m.blendRanges acc q)) t
        ∧ t.core.blendQ = s.core.blendQ ++ [
            { acc := acc, q := q, wid := w.wid, group := w.group.getD 0, ctr := c, pc := w.pc, lane := w.lowest,
              earlier := w.outst.length, stamp := s.fresh }])

/-- 06 R130 to R137, 08 R177: LDSTAT, LDSTAT.sp, SWAP, MMA and MMAR read their operands and pass their checks at issue
and enter the array's queue of eight commands, in the order of issue; a full queue holds them. The command holds the
control word, the addresses and the tensor's descriptor as read then; MMAR first fills the granules of its headers
(log 38). -/
def Obligations.MatrixWordsQueued : Prop :=
  ∀ (s : State) (st : Stall) (e : Bool) (a4 j tl : Num4) (a2 : BitVec 5) (v : Reg),
    let m := s.met
    let k : Nat := if e then 5 else 4
    let room : Prop := s.wave.ctr k < 63 ∧ s.core.arrayQ.length < 8
    let r (i : Nat) : Word := m.readS (4 * a4.toNat + i)
    let p (i : Nat) : Word := m.readS (2 * a2.toNat + i)
    let capOf (cw : Word) : CapUse := m.capS (bits cw.toNat 27 24)
    let l := s.wave.lowest
    let mma : Uses := { s.pairUses a2 true with er := s.mmaReads a2 v }
    (∀ x, room → s.Ready (s.quadUses a4) → m.ldstatUse a4 none k = .ok x →
      ∃ t, m.tensor (capOf (r 1)) l (r 1).toNat = .ok t
        ∧ s.Queues (.ldstat (r 0) (r 1) (r 2) (r 3) t.tdt t.comp none) (some k) (exec (.ldstat st a4 e) s))
    ∧ (∀ x, room → s.Ready (s.quadUses a4) → m.Ready (m.quadUses a4) → s.core.mldPending j.toNat 8 = false →
      m.ldstatUse a4 (some j) k = .ok x →
      ∃ t, m.tensor (capOf (r 1)) l (r 1).toNat = .ok t
        ∧ s.Queues (.ldstat (r 0) (r 1) (r 2) (r 3) t.tdt t.comp (some j)) (some k) (exec (.ldstatSp st a4 j e) s))
    ∧ (s.Ready {} → (s.core.arrayQ.length < 8 → s.Queues .swap none (exec (.swap st) s))
      ∧ (8 ≤ s.core.arrayQ.length → exec (.swap st) s = m.hold))
    ∧ (∀ x, room → s.Ready mma → m.mmaUse a2 tl.toNat v k = .ok x →
      ∃ t, m.tensor (capOf (p 1)) l (p 1).toNat = .ok t
        ∧ s.Queues (.mma (p 0) (p 1) tl.toNat v.toNat (capOf (p 1)).cap t.tdt t.comp (bits (p 1).toNat 21 17)
            (bits (p 1).toNat 16 16)) (some k) (exec (.mma st a2 tl v e) s))
    ∧ (∀ hs, room → s.Ready (s.pairUses a2 false) →
      let xs := (headerRanges (p 0).toNat (p 1).toNat).map (fun x => (s.wave.group.getD 0, x.1, x.2))
      let f : State := m.engFillAll xs
      m.fillsHeld xs = false →
      f.mmarChecks f.core.arrayView f.probe (p 0).toNat (p 1).toNat tl.toNat = .ok hs →
      s.Queues (.mmar (p 0) (p 1) tl.toNat hs) (some k) (exec (.mmar st a2 tl e) s) f)
    ∧ (8 ≤ s.core.arrayQ.length → s.wave.ctr k < 63 →
      (s.Ready (s.quadUses a4) → exec (.ldstat st a4 e) s = m.hold)
      ∧ (s.Ready mma → exec (.mma st a2 tl v e) s = m.hold))

/-- 07 R157, R158, R165, R166, 08 R175, R176, R178, 13 R291: the label, rank and metadata words enter the array's
queue where their checks pass, with the addresses, control words and headers as read at issue; UNRANK first fills the
granule of its header (log 38). 07 R161, R162, R165, R166, 08 R173 to R175, R178: from the front of the queue RANK
gives each fibre the lane at its place in the order, 0xFFFF from T on, and writes the packet where its control word
asks for one; UNRANK gives each fibre the sum of the products of the ranks whose index is its lane, and SKIPCNT counts
the indices that lie outside; LSUM writes one 32-byte record for each eight labels; LTEST gives Pd and Pd+1 what the
summary tile evaluates to. A result lands unless a later instruction has written its register or its fibre has ended.
-/
def Obligations.LabelAndRankWordsQueued : Prop :=
  (∀ (s : State) (st : Stall) (e : Bool) (a4 b4 sl p c j : Num4) (a2 pair : BitVec 5) (a v b : Reg) (t : BitVec 2)
      (mk : MCtr),
      let m := s.met
      let k : Nat := if e then 5 else 4
      let q : Nat := (m.readSQuad a4.toNat).toNat
      let f (hi lo : Nat) : Nat := bits q hi lo
      let room (k : Nat) : Prop := s.wave.ctr k < 63 ∧ s.core.arrayQ.length < 8
      let inVat (o n : Nat) : Prop := o + n ≤ m.vatSize
      let pr (i : Nat) : Word := m.readS (2 * a2.toNat + i)
      let x : Index := { isS := true, pair := pair }
      (room k → s.Ready ((quadReads a4.toNat).plus (quadReads b4.toNat)) →
        let d : BitVec 256 := BitVec.ofNat 256 (q + (m.readSQuad b4.toNat).toNat * 2 ^ 128)
        relValid d = true → s.Queues (.relset sl.toNat d) (some k) (exec (.relset st a4 b4 sl e) s))
      ∧ (room k → s.Ready (quadReads a4.toNat) → f 31 7 = 0 → f 5 4 ≠ 3 → f 127 96 = 0 → f 63 32 % 4 = 0 →
        (bit q 6 = true → f 95 64 % 32 = 0) →
        s.Queues (.lblset (m.readSQuad a4.toNat)) (some k) (exec (.lblset st a4 e) s))
      ∧ (room k → s.Ready (quadReads a4.toNat) →
        let src := f 63 32
        let dst := f 95 64
        let nl := f 127 96
        let n := f 15 8 + 1
        f 7 4 = 0 → f 31 16 = 0 → nl ≠ 0 → nl ≤ 8 * n → src % 4 = 0 → dst % 32 = 0 → inVat src (4 * nl) →
        inVat dst (32 * n) → (dst + 32 * n ≤ src ∨ src + 4 * nl ≤ dst) →
        s.Queues (.lsum (m.readSQuad a4.toNat)) (some k) (exec (.lsum st a4 e) s))
      ∧ (room k → s.Ready (Uses.plus { wp := [p.toNat, p.toNat + 1] } (s.pairUses a2 false)) →
        (∀ i, i < 2 → (pr i).toNat % 32 = 0 ∧ inVat (pr i).toNat 32) →
        s.Queues (.ltest (pr 0) (pr 1) p.toNat sl.toNat) (some k) (exec (.ltest st a2 p sl e) s))
      ∧ (room k → s.Ready (Uses.plus { xw := s.wave.laneUses b.toNat 1, er := s.wave.laneUses v.toNat 1 }
          (quadReads a4.toNat)) →
        let len := f 7 0 + 1
        let n := f 16 8
        let addr := f 63 32
        f 31 22 = 0 → f 18 17 ≠ 3 → n ≤ len → f 127 96 = 0 →
        (bit q 19 = true → f 95 80 = 0 ∧ addr % 8 = 0 ∧ inVat addr (packetBytes n)) → len ≤ s.wave.g →
        m.namedCheck [v.toNat, b.toNat] = none →
        s.Queues (.rank (w32 (f 31 0)) (w32 addr) (w32 (f 95 64)) v.toNat b.toNat) (some k)
          (exec (.rank st a4 b v e) s))
      ∧ (room k → s.Ready { rs := [a.toNat], xw := s.wave.laneUses v.toNat 1 } →
        let addr := (m.readS a.toNat).toNat
        let gid := s.wave.group.getD 0
        let u : State := m.engFillAll [(gid, addr, 8)]
        let h : DWord := BitVec.ofNat 64 (u.engRd gid u.probe addr 8)
        addr % 8 = 0 → m.fillsHeld [(gid, addr, 8)] = false → u.issueFill s.wave.lowest addr 8 = none →
        inVat addr (8 + hdrT h) → hdrOk h = true → hdrL h ≤ s.wave.g → m.namedCheck [v.toNat] = none →
        s.Queues (.unrank (m.readS a.toNat) v.toNat h) (some k) (exec (.unrank st a v e) s) u)
      ∧ (room k → s.Ready { rs := [a.toNat] } →
        (m.readS a.toNat).toNat % 4 = 0 → inVat (m.readS a.toNat).toNat 512 →
        s.Queues (.attld (m.readS a.toNat) t.toNat) (some k) (exec (.attld st a t e) s))
      ∧ (room mk.toNat → s.Open (Uses.plus { mw := [j.toNat] } (x.reads.plus (quadReads c.toNat))) →
        ∀ y, m.mldUse j c pair = .ok y →
        ∃ sp at_ va, y.1.op = .mld j.toNat sp at_ va ∧ (capGlobal (m.readSQuad c.toNat) = true ↔ sp = .global)
          ∧ s.Queues y.1.op (some mk.toNat) (exec (.mld st j c pair mk) s)))
  ∧ (∀ (s : State) (c : ArrayCmd) (rest : List ArrayCmd), s.Front c rest → (∃ g ∈ s.groups, g.id = c.group.getD 0) →
      let gid := c.group.getD 0
      let ends (b : State) (xs : List (RegFile × Nat × Nat × Word)) (p : State → Prop) : Prop :=
        ∃ t, exec (.engineCommandComplete .array) s = .next t ∧ t.core.arrayQ = rest ∧ t.mem = s.mem
          ∧ b.Lands t c.wid c.stamp xs ∧ b.Signals t c.wid c.ctr ∧ p t
      (∀ ctl addr scale src dst u, c.op = .rank ctl addr scale src dst →
        let f (hi lo : Nat) : Nat := bits ctl.toNat hi lo
        let len := f 7 0 + 1
        let n := f 16 8
        n ≤ len → s.fillRanges c gid (if bit ctl.toNat 19 then [(addr.toNat, packetBytes n)] else []) = .ok u →
        let key (l : Nat) : Word := match c.bases.find? (fun y => y.1 == l) with
          | some y => s.engReg c l (y.2 + src)
          | none => 0
        let order : List Nat := rankOrder (f 18 17) ((List.range len).map (fun l => (l, key l)))
        ends u (c.bases.map (fun y =>
            (RegFile.v, y.1, y.2 + dst, if y.1 < n then BitVec.ofNat 32 (order.getD y.1 0) else 0xFFFF)))
          (fun t => t.core.mat = s.core.mat ∧ (bit ctl.toNat 19 = false → t.groups = u.groups)
            ∧ (bit ctl.toNat 19 = true →
              let g := t.groupD gid
              g.rd addr.toNat 8 = len + n * 2 ^ 16 + f 21 20 * 2 ^ 32 + scale.toNat % 2 ^ 16 * 2 ^ 48
              ∧ (∀ r, r < n → g.rdByte (addr.toNat + 8 + r) = BitVec.ofNat 8 (order.getD r 0))
              ∧ (∀ r, n ≤ r → 8 + r < packetBytes n → g.rdByte (addr.toNat + 8 + r) = 0)
              ∧ ∀ a, a < addr.toNat ∨ addr.toNat + packetBytes n ≤ a → g.rdByte a = (u.groupD gid).rdByte a)))
      ∧ (∀ addr dst h u, c.op = .unrank addr dst h → s.fillRanges c gid [(addr.toNat + 8, hdrT h)] = .ok u →
        let idx (r : Nat) : Nat := u.engRd gid c (addr.toNat + 8 + r) 1
        let value (l : Nat) : Word := rne32 (dotExact (((List.range (hdrT h)).filter
          (fun r => idx r == l && decide (l < hdrL h))).map
            (fun r => (hdrScale h, decodeFp bf16 (s.core.mat.atten (hdrAtt h) r).toNat))))
        let lost : Word := BitVec.ofNat 32 ((List.range (hdrT h)).countP (fun r => decide (hdrL h ≤ idx r)))
        ends u (c.bases.map (fun y => (RegFile.v, y.1, y.2 + dst, value y.1)))
          (fun t => t.groups = u.groups ∧ t.core.mat = { s.core.mat with skipcnt := s.core.mat.skipcnt + lost }))
      ∧ (∀ q u, c.op = .lsum q →
        let f (hi lo : Nat) : Nat := bits q.toNat hi lo
        let n := f 15 8 + 1
        s.fillRanges c gid [(f 63 32, 4 * f 127 96), (f 95 64, 32 * n)] = .ok u →
        let label (i : Nat) : Word :=
          if i < f 127 96 then BitVec.ofNat 32 (u.engRd gid c (f 63 32 + 4 * i) 4) else 0xFFFFFFFF
        ends u [] (fun t => t.core.mat = s.core.mat
          ∧ (∀ i, i < n → (t.groupD gid).rd (f 95 64 + 32 * i) 32
              = summaryOf (s.core.mat.slot (f 3 0)) ((List.range 8).map (fun j => label (8 * i + j))) % 2 ^ 256)
          ∧ ∀ a, a < f 95 64 ∨ f 95 64 + 32 * n ≤ a → (t.groupD gid).rdByte a = (u.groupD gid).rdByte a))
      ∧ (∀ row col p slot u, c.op = .ltest row col p slot →
        s.fillRanges c gid [(row.toNat, 32), (col.toNat, 32)] = .ok u →
        let r := tileRes (s.core.mat.slot slot) (u.engRd gid c row.toNat 32) (u.engRd gid c col.toNat 32)
        ends u (c.active.flatMap (fun l =>
            [(RegFile.p, l, p, if r = .none then 0 else 1), (RegFile.p, l, p + 1, if r = .all then 1 else 0)]))
          (fun t => t.core.mat = s.core.mat ∧ t.groups = u.groups)))

/-- 06 R144 to R146: TCLR gives every element of a tile the fill and marks every row empty, at issue, where no command
holds the tile; TMOV and TROW enter the tile port's queue with the words they read, where their checks pass, and
TMOV.vat first fills the granules that it writes (log 38). From the front of the queue TMOV.vat stores, and TMOV.v
gives to the lanes, the converted elements of its rows in order; TROW.max and TROW.sum give each row's largest element
and its sum in order of columns, minus infinity and 0 for an empty row; TROW.rescale multiplies each row by 2 to the
difference of its two words, TROW.norm divides it by its word; an empty row keeps its elements or, under norm, becomes
0. -/
def Obligations.TileWordsIssued : Prop :=
  (∀ (s : State) (st : Stall) (e : Bool) (a v : Reg) (a2 : BitVec 5) (t : Num4),
      let m := s.met
      let w := s.wave
      let k : Nat := if e then 5 else 4
      let clears (fill : Word) (out : Out) : Prop :=
        ∃ u, out = .next u ∧ w.SameFile u.wave ∧ u.mem = s.mem ∧ u.wave.d = w.d ∧ u.wave.retcnt = w.retcnt + 1
          ∧ ∀ i, u.core.mat.tile i
            = if i = t.toNat then { fill := fill, elems := [], mask := BitVec.allOnes 64 } else s.core.mat.tile i
      let queues (op : TileOp) (words : List Word) (out : Out) (f : State) : Prop :=
        ∃ u c, out = .next u ∧ f.wave.SameFile u.wave ∧ u.mem = s.mem ∧ u.groups = f.groups ∧ u.core.mat = s.core.mat
          ∧ u.core.tileQ = s.core.tileQ ++ [c] ∧ c.op = op ∧ c.words = words ∧ c.wid = w.wid ∧ c.ctr = k ∧ c.pc = w.pc
          ∧ (∀ i, u.wave.ctr i = w.ctr i + (if i = k then 1 else 0)) ∧ u.wave.retcnt = f.wave.retcnt
      let words (n : Nat) : List Word := (List.range n).map (fun x =>
        match w.laneBases.find? (fun y => y.1 == x % max w.g 1) with
        | some y => m.readA y.1 (y.2 + v.toNat + x / max w.g 1)
        | none => 0)
      let reads (n : Nat) : Uses :=
        { xr := (w.byteUses v.toNat (4 * n)).filter (fun x => (w.fib x.lane).active), tr := [t.toNat] }
      let cw : Nat := (m.readS (2 * a2.toNat)).toNat
      let at_ : Nat := (m.readS (2 * a2.toNat + 1)).toNat
      let one : Nat := (m.readS a.toNat).toNat
      let gid := w.group.getD 0
      (s.core.tileQ = [] → (m.tileLent t.toNat = false ∨ w.det = true) →
        (s.Ready { tw := [t.toNat] } → clears 0 (exec (.tclr st t) s))
        ∧ (s.Ready { rs := [a.toNat], tw := [t.toNat] } → clears (m.readS a.toNat) (exec (.tclrFill st a t) s)))
      ∧ (w.ctr k < 63 →
        (s.Ready { rs := [2 * a2.toNat, 2 * a2.toNat + 1], tr := [t.toNat] } → tmovBad cw = false → at_ % 4 = 0 →
          at_ + tmovSize cw ≤ m.vatSize → m.engFillCheck gid w.lowest at_ (tmovSize cw) = none →
          m.fillsHeld [(gid, at_, tmovSize cw)] = false →
          queues (.movVat t.toNat (m.readS (2 * a2.toNat)) (m.readS (2 * a2.toNat + 1))) []
            (exec (.tmovVat st a2 t e) s) (m.engFillAll [(gid, at_, tmovSize cw)]))
        ∧ (s.Ready { rs := [a.toNat], xw := w.byteUses v.toNat (256 * (bits one 13 8 + 1)),
                     tr := [t.toNat] } →
          bits (s.readS a.toNat).toNat 13 8 = bits one 13 8 → tmovBad one = false →
          m.laneCheck v.toNat (256 * (bits one 13 8 + 1)) = none →
          queues (.movV t.toNat (m.readS a.toNat) v.toNat) [] (exec (.tmovV st a t v e) s) s)
        ∧ (s.Ready { xw := w.byteUses v.toNat 256, tr := [t.toNat] } → m.laneCheck v.toNat 256 = none →
          queues (.rowMax t.toNat v.toNat) [] (exec (.trowMax st t v e) s) s
          ∧ queues (.rowSum t.toNat v.toNat) [] (exec (.trowSum st t v e) s) s)
        ∧ (s.Ready (reads 128) → m.laneCheck v.toNat 512 = none →
          m.wave.laneInterlocked v.toNat (w.laneSpan 512) = false →
          queues (.rescale t.toNat v.toNat) (words 128) (exec (.trowRescale st t v e) s) s)
        ∧ (s.Ready (reads 64) → m.laneCheck v.toNat 256 = none →
          m.wave.laneInterlocked v.toNat (w.laneSpan 256) = false →
          queues (.norm t.toNat v.toNat) (words 64) (exec (.trowNorm st t v e) s) s)))
  ∧ (∀ (s : State) (c : TileCmd) (rest : List TileCmd), s.core.tileQ = c :: rest →
      let gid := c.group.getD 0
      let g : Nat := ((s.waveBy c.wid).map (fun w => w.g)).getD 1
      let mat := s.core.mat
      let ends (b : State) (xs : List (RegFile × Nat × Nat × Word)) (p : State → Prop) : Prop :=
        ∃ t, exec (.engineCommandComplete .tilePort) s = .next t ∧ t.core.tileQ = rest ∧ t.mem = s.mem
          ∧ b.Lands t c.wid c.stamp xs ∧ b.Signals t c.wid (some c.ctr) ∧ p t
      let words (v n : Nat) (z : Nat → Word) : List (RegFile × Nat × Nat × Word) :=
        (List.range n).filterMap (fun x => (c.bases.find? (fun y => y.1 == x % max g 1)).map (fun y =>
          (RegFile.v, y.1, y.2 + v + x / max g 1, z x)))
      let gives (v n : Nat) (z : Nat → Word) : Prop :=
        ends s (words v n z) (fun t => t.core.mat = mat ∧ t.groups = s.groups)
      let elem (i : Nat) (ctl : Word) (x : Nat) : Nat :=
        tmovConv (bits ctl.toNat 18 16) ((mat.tile i).elem (bits ctl.toNat 5 0 + x / 64) (x % 64))
      let lasts (i : Nat) (z : Nat → Word → Word) (keeps : Bool) : Prop := ends s [] (fun t => t.groups = s.groups
        ∧ (∀ k, k ≠ i → t.core.mat.tile k = mat.tile k) ∧ (t.core.mat.tile i).mask = (mat.tile i).mask
        ∧ ∀ r n, r < 64 → n < 64 → (t.core.mat.tile i).elem r n = if (mat.tile i).empty r
          then (if keeps then (mat.tile i).elem r n else 0) else z r ((mat.tile i).elem r n))
      (∀ i ctl addr, c.op = .movVat i ctl addr →
        let waits : Prop := s.earlierBy c.wid c.stamp c.lane = true
          ∨ s.core.engBefore c.wid c.stamp (fun l => l == c.lane) = true
        let z : Nat := tmovBytes (bits ctl.toNat 18 16)
        let u : State := s.fillGranules gid ((s.groupD gid).unfilled addr.toNat (tmovSize ctl.toNat))
        (waits → exec (.engineCommandComplete .tilePort) s = .next s)
        ∧ (¬ waits → (∃ x ∈ s.groups, x.id = gid) → ends u [] (fun t => t.core.mat = mat
          ∧ (∀ x, x < 64 * (bits ctl.toNat 13 8 + 1) →
              (t.groupD gid).rd (addr.toNat + z * x) z = elem i ctl x % 2 ^ (8 * z))
          ∧ ∀ a, a < addr.toNat ∨ addr.toNat + tmovSize ctl.toNat ≤ a →
              (t.groupD gid).rdByte a = (u.groupD gid).rdByte a)))
      ∧ (∀ i ctl v, c.op = .movV i ctl v →
        gives v (64 * (bits ctl.toNat 13 8 + 1)) (fun x => BitVec.ofNat 32 (elem i ctl x)))
      ∧ (∀ i v, c.op = .rowMax i v → gives v 64 (fun r => if (mat.tile i).empty r then 0xFF800000 else
          ((List.range 64).map (fun n => (mat.tile i).elem r n)).tail.foldl rowMaxOf.fmaxNan
            (rowMaxOf.fmaxNan ((mat.tile i).elem r 0) ((mat.tile i).elem r 0))))
      ∧ (∀ i v, c.op = .rowSum i v → gives v 64 (fun r => if (mat.tile i).empty r then 0 else
          ((List.range 64).map (fun n => (mat.tile i).elem r n)).foldl
            (fun z x => rne32 (xadd .rne (f32x z) (f32x x)).1) 0))
      ∧ (∀ i v, c.op = .rescale i v → lasts i (fun r x =>
          let d := rne32 (xadd .rne (f32x (c.words.getD r 0)) (xneg (f32x (c.words.getD (64 + r) 0)))).1
          rne32 (xmul (f32x x) (f32x (BitVec.ofNat 32 (fpExp2 d.toNat).code))).1) true)
      ∧ (∀ i v, c.op = .norm i v → lasts i (fun r x => rne32 (xdiv (f32x x) (f32x (c.words.getD r 0))).1) false))

/-- 06 R129 to R134, R138, R139, R143, R148, 07 R157 to R160, 08 R176, R177, 13 R291, 14 R308, R311 to R313: commands
complete from the front of their queues, in order. LDSTAT fills the shadow plane with the words, labels, scales and
specials that its tensor uses, SWAP exchanges the planes, RELSET writes one slot, LBLSET the binding, ATTLD an
attenuation table, MLD a metadata register, with zeros where its read is refused. An MMA and an MMAR stream chunk by
chunk: each row's element becomes the fill where the pair is excluded, else accumulates in the rule's order the
products that the plane stores and the relation admits; the row's mask bit clears, and SKIPCNT counts. A KICK
completes once its requests have been read; a merge, once the wave's earlier accesses, its engines' among them, are
complete, writes the merged statistics with their weights, or the weighted sums of the partials. -/
def Obligations.EngineCompletes : Prop :=
  ∀ (s : State),
    let mat := s.core.mat
    let same (b t : State) : Prop := t.mem = b.mem ∧ t.groups = b.groups ∧ t.wave.s = b.wave.s
      ∧ (∀ l, (t.wave.fib l).v = (b.wave.fib l).v)
    (∀ c rest, s.Front c rest →
      let gid := c.group.getD 0
      let goes (b : State) (p : Matrix → Prop) : Prop := ∃ t, exec (.engineCommandComplete .array) s = .next t
        ∧ t.core.arrayQ = rest ∧ p t.core.mat ∧ same b t ∧ b.Signals t c.wid c.ctr
      (c.op = .swap → goes s (fun q => q = { mat with active := mat.shadow, shadow := mat.active }))
      ∧ (∀ n d, c.op = .relset n d → goes s (fun q => q.slot n = d ∧ (∀ i, i ≠ n → q.slot i = mat.slot i)
          ∧ q.tiles = mat.tiles ∧ q.binding = mat.binding))
      ∧ (∀ q, c.op = .lblset q → goes s (fun x => x = { mat with binding := q }))
      ∧ (∀ plane ctl lbl scl tdt comp sp u, c.op = .ldstat plane ctl lbl scl tdt comp sp →
        let pl := mat.planeShape ctl tdt comp sp
        s.fillRanges c gid (pl.ranges plane.toNat lbl.toNat scl.toNat) = .ok u →
        let rd (off n : Nat) : Nat := u.engRd gid c off n
        goes u (fun q => q.active = mat.active ∧ q.tiles = mat.tiles ∧ q.binding = mat.binding ∧ q.metas = mat.metas
          ∧ q.shadow.empty = false ∧ q.shadow.kv = bits ctl.toNat 10 0 ∧ q.shadow.nv = bits ctl.toNat 22 16
          ∧ q.shadow.efmt = tdtEfmt tdt ∧ q.shadow.sfmt = tdtSfmt tdt ∧ q.shadow.bsz = tdtBlock tdt
          ∧ q.shadow.lblKind = bits ctl.toNat 15 14 ∧ q.shadow.sparse = sp.isSome ∧ q.shadow.comp = comp
          ∧ (∀ i n, (i, n) ∈ pl.used →
              sget 0 q.shadow.words (64 * i + n) = BitVec.ofNat 32 (rd (plane.toNat + 4 * (64 * i + n)) 4))
          ∧ (∀ i, i < pl.labelCount → sget 0 q.shadow.labels i = BitVec.ofNat 32 (rd (lbl.toNat + 4 * i) 4))
          ∧ (∀ b ∈ pl.scaled, sget 0 q.shadow.scales b = BitVec.ofNat 8 (rd (scl.toNat + b) 1))
          ∧ (tdtEfmt tdt = 5 → ∀ b ∈ pl.scaled,
              sget 0 q.shadow.specials b = BitVec.ofNat 8 (rd (scl.toNat + 64 * pl.blocks + b) 1))
          ∧ (∀ j, sp = some j → q.shadow.codes = mat.codesFrom j.toNat (packDepth (tdtEfmt tdt)))))
      ∧ (∀ addr t u, c.op = .attld addr t → s.fillRanges c gid [(addr.toNat, 512)] = .ok u →
        goes u (fun q => q.tiles = mat.tiles ∧ q.active = mat.active ∧ q.shadow = mat.shadow
          ∧ ∀ a e, e < 256 → q.atten a e = if a = t then BitVec.ofNat 16 (u.engRd gid c (addr.toNat + 2 * e) 2)
              else mat.atten a e))
      ∧ (∀ j at_ virt, c.op = .mld j .global at_ virt → at_.length = 16 →
        ((∀ p ∈ at_, s.transferFails p = none) →
          goes s (fun q => q.tiles = mat.tiles ∧ q.active = mat.active ∧ q.shadow = mat.shadow
            ∧ ∀ a i, i < 1024 → q.meta a i = if a = j then s.rdByte (at_.getD (i / 64) 0 + i % 64) else mat.meta a i))
        ∧ ((∃ p ∈ at_, s.transferFails p ≠ none) →
          ∃ t, exec (.engineCommandComplete .array) s = .next t ∧ t.core.arrayQ = rest
            ∧ ∀ a i, i < 1024 → t.core.mat.meta a i = if a = j then 0 else mat.meta a i))
      ∧ (∀ j g off ps virt u, c.op = .mld j (.vat g) (off :: ps) virt → s.fillRanges c g [(off, 1024)] = .ok u →
        goes u (fun q => q.tiles = mat.tiles ∧ q.active = mat.active ∧ q.shadow = mat.shadow
          ∧ ∀ a i, i < 1024 → q.meta a i = if a = j then u.engByte g c (off + i) else mat.meta a i)))
    ∧ (∀ c rest, s.core.arrayQ = c :: rest → c.follow = none → c.token = none → c.chunkCount ≤ c.chunks →
      c.chunkCount ≠ 0 → exec .mmaChunk s = .next s ∧ ∃ t, exec (.engineCommandComplete .array) s = .next t
        ∧ t.core.arrayQ = rest ∧ t.core.mat = mat ∧ same s t ∧ s.Signals t c.wid c.ctr)
    ∧ (∀ c rest, s.core.arrayQ = c :: rest → c.chunks < c.chunkCount →
      exec (.engineCommandComplete .array) s = .next s ∧ (s.core.portBlocks c = true → exec .mmaChunk s = .next s))
    ∧ (∀ c rest u tile ctl, s.core.arrayQ = c :: rest → c.token = none → c.chunks < c.chunkCount →
      s.core.portBlocks c = false → s.runFront c = .ok u →
      let gid := c.group.getD 0
      let pl := mat.active
      let q := mat.binding
      let k := c.chunks
      let m : Nat := bits (ctl : Word).toNat 7 0 + 1
      let old := mat.tile (tile + k)
      let streams (v : State) (tab : List (List Bool)) (int8 admitted : Bool)
          (terms : Bound → Nat → Nat → List (List (XReal × XReal))) (used : Bound → Nat → Bool) (lost : Nat)
          (t : State) : Prop :=
        let bd := v.bound c gid pl k m tab
        let new := t.core.mat.tile (tile + k)
        t.core.mat.skipcnt = mat.skipcnt + BitVec.ofNat 32 lost
        ∧ (∀ r n, r < 64 → n < 64 → (m ≤ 64 * k + r ∨ pl.nv ≤ n) → new.elem r n = old.elem r n)
        ∧ (∀ r, r < 64 → m ≤ 64 * k + r → new.empty r = old.empty r)
        ∧ ∀ r, r < 64 → 64 * k + r < m →
          new.empty r = (old.empty r && !(match bd.mode with
            | 0 => true
            | 1 => (List.range pl.nv).any (fun n => !bd.excluded (64 * k + r) n)
            | _ => admitted || used bd (64 * k + r)))
          ∧ ∀ n, n < pl.nv → new.elem r n = if bd.mode = 1 ∧ bd.excluded (64 * k + r) n = true
            then (fillPattern bd.fill).getD (old.elem r n)
            else accumulate int8 (old.elem r n) (terms bd (64 * k + r) n)
      let ends (p : State → Prop) : Prop := ∃ t, exec .mmaChunk s = .next t
        ∧ t.core.arrayQ = { c with chunks := k + 1 } :: rest ∧ t.mem = s.mem ∧ t.wave.s = s.wave.s
        ∧ (∀ l, (t.wave.fib l).v = (s.wave.fib l).v) ∧ (∀ i, i ≠ tile + k → t.core.mat.tile i = mat.tile i)
        ∧ t.core.mat.active = pl ∧ t.core.mat.binding = q ∧ p t
      pl.nv ≤ 64 →
      (∀ addr v cap tdt comp woff slay, c.op = .mma addr ctl tile v cap tdt comp woff slay →
        ends (fun t => ∃ xs ys b w, s.fillRanges c gid xs = .ok b ∧ b.fillRanges c gid ys = .ok w
          ∧ (let tab := if bindMode q = 0 then [] else b.noneTable c gid pl k m
            let g : Nat := ((w.waveBy c.wid).map (fun w => w.g)).getD 1
            let x (i j : Nat) : XReal := if rowSkipped tab k i then xzero else
              w.streamed c gid (addr.toNat + (if pl.sparse then 512 else 256) * i) tdt comp
                (w.rowScale c g v woff slay (rowBlocks tdt pl.sparse) tdt i) j
            let ok (bd : Bound) (i j : Nat) : Bool := !(bd.mode == 2 && bd.excluded i j)
            streams b tab (tdtEfmt tdt == 6) false
              (fun bd i n => pl.rows.map (fun r => (pl.slotsAt r n).filterMap (fun y =>
                if ok bd i y.2 then some (x i y.2, pl.elem r n y.1 y.2) else none)))
              (fun bd i => (List.range pl.kv).any (ok bd i)) (noneCount tab) t)))
      ∧ (∀ addr hdrs, c.op = .mmar addr ctl tile hdrs →
        ends (fun t => ∃ xs b, s.fillRanges c gid xs = .ok b
          ∧ (let hdr (i : Nat) : DWord := hdrs.getD i 0
            let idx (i r : Nat) : Nat := b.engRd gid c (addr.toNat + 8 * bits ctl.toNat 15 8 * i + 8 + r) 1
            let ok (bd : Bound) (i j : Nat) : Bool := decide (j < pl.kv) && !(bd.mode == 2 && bd.excluded i j)
            let rows : List Nat := (List.range 64).map (fun r => 64 * k + r) |>.filter (fun i => decide (i < m))
            streams b [] false false
              (fun bd i n => (List.range (ceilDiv (hdrT (hdr i)) 8)).map (fun y =>
                ((List.range (hdrT (hdr i))).filter (fun r => r / 8 == y)).filterMap (fun r =>
                  if ok bd i (idx i r) then (pl.find n (idx i r)).map (fun p =>
                    ((xmul (hdrScale (hdr i)) (decodeFp bf16 (mat.atten (hdrAtt (hdr i)) r).toNat)).1,
                      pl.elem p.1 n p.2 (idx i r)))
                  else none)))
              (fun bd i => (List.range (hdrT (hdr i))).any (fun r => ok bd i (idx i r)))
              ((rows.map (fun i => (List.range (hdrT (hdr i))).countP (fun r => decide (pl.kv ≤ idx i r)))).sum) t))))
    ∧ (∀ c rest, s.core.kickQ = c :: rest →
      (c.left ≠ 0 → exec (.engineCommandComplete .kick) s = .next s)
      ∧ (c.left = 0 → ∃ t, exec (.engineCommandComplete .kick) s = .next t ∧ t.core.kickQ = rest
          ∧ t.core.mat = mat ∧ same s t ∧ s.Signals t c.wid (some c.ctr)))
    ∧ (∀ c rest, s.core.blendQ = c :: rest →
      let waits : Prop := c.earlier ≠ 0 ∨ s.core.engBefore c.wid c.stamp (fun _ => true) = true
      let f (hi lo : Nat) : Nat := bits c.q.toNat hi lo
      let mask : List Nat := (List.range 4).filter (fun i => bit (f 31 0) i)
      let rows : Nat := f 13 8 + 1
      let who (i : Nat) : Nat := (s.participant c.group i).getD c.group
      let u : State := (blendOwn c.acc c.q).foldl
        (fun s x => s.fillGranules c.group ((s.groupD c.group).unfilled x.1 x.2))
        ((mask.map who).foldl
          (fun s g => s.fillGranules g ((s.groupD g).unfilled (f 63 32) (blendSizes c.acc (f 31 0)).1)) s)
      let at' (g off : Nat) : Word := BitVec.ofNat 32 ((u.groupD g).rd off 4)
      let num (x : Word) : XReal := f32x x
      let mulAdd (z x y : Word) : Word := rne32 (xadd .rne (num z) (xmul (num x) (num y)).1).1
      (waits → exec (.engineCommandComplete .blend) s = .next s)
      ∧ (¬ waits → (∃ g ∈ s.groups, g.id = c.group) →
        ∃ t, exec (.engineCommandComplete .blend) s = .next t ∧ t.core.blendQ = rest ∧ t.core.mat = mat
          ∧ t.mem = u.mem ∧ t.wave.s = s.wave.s ∧ (∀ l, (t.wave.fib l).v = (s.wave.fib l).v)
          ∧ u.Signals t c.wid (some c.ctr)
          ∧ (let out (off : Nat) : Word := BitVec.ofNat 32 ((t.groupD c.group).rd off 4)
            (c.acc = true → (∀ r n, r < rows → n < f 21 16 + 1 → out (f 127 96 + 4 * (64 * r + n))
                = mask.foldl (fun z i => mulAdd z (at' c.group (f 95 64 + 4 * (64 * i + r)))
                    (at' (who i) (f 63 32 + 4 * (64 * r + n)))) 0)
              ∧ ∀ a, (∀ r n, r < rows → n < f 21 16 + 1 → a < f 127 96 + 4 * (64 * r + n) ∨
                  f 127 96 + 4 * (64 * r + n) + 4 ≤ a) → (t.groupD c.group).rdByte a = (u.groupD c.group).rdByte a)
            ∧ (c.acc = false → (f 95 64 + 8 * rows ≤ f 127 96 ∨ f 127 96 + 4 * (64 * 3 + rows) ≤ f 95 64) →
              ∀ r, r < rows →
                let part (i : Nat) : Word := at' (who i) (f 63 32 + 8 * r)
                let top : Word := mask.foldl (fun z i => rowMaxOf.fmaxNan z (part i)) 0xFF800000
                let wt (i : Nat) : Word := if part i = 0xFF800000 then 0 else
                  BitVec.ofNat 32 (fpExp2 (rne32 (xadd .rne (num (part i)) (xneg (num top))).1).toNat).code
                out (f 95 64 + 8 * r) = top
                ∧ out (f 95 64 + 8 * r + 4)
                  = mask.foldl (fun z i => mulAdd z (at' (who i) (f 63 32 + 8 * r + 4)) (wt i)) 0
                ∧ ∀ i ∈ mask, out (f 127 96 + 4 * (64 * i + r)) = wt i))))

/-! ### Creating and ending work -/

/-- 10 R223 to R225, 09 R201, 02 R32: FORK places one item for each active fibre, in lane order, each in the core's bin
of its launch and entry, else in a free bin, else in the overflow queue; SPAWN creates a wave of the same group with a
fibre in each active lane where the core has room. Both write Pd later, as an interlocked result. END ends the active
fibres and lets the others pass the clause. The fields of an overflow item are the model's choice (log 46). -/
def Obligations.WorkWordsResult : Prop :=
  ∀ (s : State) (st : Stall) (p : Pred) (a2 : BitVec 5) (b : Reg),
    let m := s.met
    let w := s.wave
    let entry (l : Nat) : Nat := (m.readV64 l (2 * a2.toNat)).toNat
    let eight (l : Nat) : List Word := (List.range 8).map (fun i => m.readV l (b.toNat + i))
    let later (vals : List (Nat × Bool)) (t : State) : Prop :=
      w.SameFile t.wave ∧ t.mem = s.mem ∧ t.wave.d = w.d ∧ t.wave.retcnt = w.retcnt
      ∧ t.wave.interlocks = w.interlocks ++ [⟨if p = 0 then [] else vals.map (fun x =>
          (RegFile.p, x.1, p.toNat, if x.2 then 1 else 0))⟩]
    (s.Ready (forkUses p a2 b) → s.accessBusy = false →
      (∀ l ∈ w.activeLanes, (m.roomBelow (fun i => [entry i]) l).targetCheck l (entry l) = none) →
      (let r := m.placeAll w.launch (w.activeLanes.map (fun l => (l, entry l, eight l)))
        ∃ t, exec (.fork st p a2 b) s = .next t ∧ later r.2 t ∧ r.2.map (fun x => x.1) = w.activeLanes
          ∧ t.core.bins = r.1.core.bins ∧ t.launches = r.1.launches)
      ∧ ∃ t, exec (.spawn st p a2 b) s = .next t ∧ later (w.activeLanes.map (fun l => (l, m.spawnFits))) t
        ∧ (m.spawnFits = false → t.core.waves = s.core.waves ∧ t.launches = s.launches ∧ t.groups = s.groups)
        ∧ (m.spawnFits = true → ∃ x : Wave, t.core.waves = s.core.waves ++ [x] ∧ x.wid = s.nextWid
          ∧ t.nextWid = s.nextWid + 1 ∧ x.group = w.group ∧ x.g = w.g ∧ x.launch = (s.launchOf w.launch).id
          ∧ ∀ l, l < w.g →
            ((w.fib l).active = true → (x.fib l).run = .running ∧ (x.fib l).pc = entry l
              ∧ (x.fib l).fibid = (w.fib l).fibid ∧ (x.fib l).lvl = (w.fib l).lvl
              ∧ ∀ r, (x.fib l).reg r = (eight l).getD r 0)
            ∧ ((w.fib l).active = false → (x.fib l).alive = false)))
    ∧ (∀ (entry : Nat) (vals : List Word),
      let c := s.launchOf w.launch
      let x : Item := { order := c.order, entry := entry, vals := vals }
      let r := s.placeItem w.launch entry vals
      let key (k : Bin) : Bool := k.launch == w.launch && k.entry == entry && decide (k.items.length < 256)
      let total := (s.core.bins.map (fun k => k.items.length)).sum
      (total < 2048 → ∀ i k, s.core.bins.findIdx? key = some i → s.core.bins[i]? = some k →
        r.2 = true ∧ r.1.core.bins = s.core.bins.set i { k with items := k.items ++ [x] })
      ∧ (total < 2048 → s.core.bins.any key = false → s.core.bins.length < 16 →
        r.2 = true ∧ ∃ k : Bin, r.1.core.bins = s.core.bins ++ [k] ∧ k.launch = w.launch ∧ k.entry = entry
          ∧ k.items = [x])
      ∧ ((2048 ≤ total ∨ (s.core.bins.any key = false ∧ 16 ≤ s.core.bins.length)) →
        r.1.core.bins = s.core.bins ∧ r.2 = (c.ovfq != 0 && decide (c.ovf.length < c.ovfcap))))
    ∧ (s.Ready {} →
      let after : Nat := match w.cur with | some x => x.endAddr | none => pc48 (w.pc + 4)
      ∃ t, exec (.endF st) s = .next t ∧ t.mem = s.mem ∧ t.core = s.core ∧ t.wave.retcnt = w.retcnt + 1
        ∧ t.wave.cur = none
        ∧ ∀ l, l < w.lanes.length → (t.wave.fib l).v = (w.fib l).v
          ∧ ((w.fib l).active = true → (t.wave.fib l).run = .ended)
          ∧ ((w.fib l).active = false → (w.fib l).run ≠ .joining → (t.wave.fib l).run = (w.fib l).run)
          ∧ ((w.fib l).inSet = true → (t.wave.fib l).pc = after))

/-- 10 R226, 09 R193, R194: LAUNCH copies the 128 bytes at Vb of the own Vat into the slot at the tail of the queue that
Sa names and then raises the tail by one, and its predicate is 1; a queue that is disabled, full or unreadable takes
nothing, and its predicate is 0. That an unreadable descriptor or slot counts so is the model's reading (log 44). -/
def Obligations.LaunchResult : Prop :=
  ∀ (s : State) (st : Stall) (p : Pred) (a b : Reg) (gid off n : Nat),
    let m := s.met
    let w := s.wave
    s.Ready { rv := [(b.toNat, 1)], rs := [a.toNat], wp := [p.toNat] } → s.accessBusy = false →
    w.group = some gid → (∀ l ∈ w.activeLanes, (m.readV l b.toNat).toNat = off) → (m.readS a.toNat).toNat = n →
    n < 256 → off % 128 = 0 → off + 128 ≤ (s.groupD gid).size →
    let r := recordTouch w.lowest gid off
    m.stampCheck [] r = none → m.fillCheck gid w.lowest [r] = none →
    let f : State := (m.recordStamps (r :: m.fillTouches gid [r])).fillAll gid [r]
    let goes (ok : Bool) (mem : Memory) : Prop := ∃ t, exec (.launch st p a b) s = .next t ∧ f.wave.SameFile t.wave
      ∧ t.mem = mem ∧ t.wave.retcnt = f.wave.retcnt
      ∧ t.wave.interlocks = w.interlocks ++ [⟨if p = 0 then [] else w.activeLanes.map (fun l =>
          (RegFile.p, l, p.toNat, if ok then 1 else 0))⟩]
    (f.queueDesc w.ctx n = none → goes false s.mem)
    ∧ (∀ q, f.queueDesc w.ctx n = some q → q.count ≤ q.slots →
      ((q.enabled = false ∨ q.count = q.slots ∨ f.ctxPhys w.ctx (q.slot q.tail) .write = none) → goes false s.mem)
      ∧ (∀ pa, q.enabled = true → q.count < q.slots → f.ctxPhys w.ctx (q.slot q.tail) .write = some pa →
        goes true ((f.wr pa ((f.groupD gid).rdBytes off 128)).ctxWr w.ctx (q.addr + 28) ((q.tail + 1) % 2 ^ 32) 4).mem))

/-! ### Block quantisation -/


/-! ### Launches and groups -/

/-- 09 R189 to R191, R194 to R197, R186, R212, 12 R269, 20 R382, R383: a record whose turn it is is copied and the
queue's head advances; a record that passes joins the launches, one that fails writes status 3 with its reason. A
group starts on its core with its Vat preloaded and its waves in order, each fibre at the entry with its coordinates;
a cluster's groups start together. A group that has ended leaves its core and is counted; a group whose wave met an
unhandled cause ends failed, with the record posted and every fibre of it withdrawn. A launch with nothing left writes
its completion word. The point of acceptance is the model's reading (log 44), and so is that the groups of a
deterministic launch start together (log 45). -/
def Obligations.LaunchEvents : Prop :=
  (∀ (s : State) (ctx qn cls : Nat) (d : QueueDesc) (bs : List Byte),
      s.queueDesc ctx qn = some d → d.enabled = true → d.count ≠ 0 → d.count ≤ d.slots →
      s.nextQueue = some (cls, ctx, qn) → s.ctxUnits ctx (d.slot d.head) 8 = some bs →
      let r : LaunchRec := ⟨fromBytes bs⟩
      let obj := (s.ctxD ctx).cobjs.find? (fun o => o.handle == r.f 31 0)
      let x := r.launch s.nextLaunch ctx qn obj ((s.argBlock ctx r).getD [])
      let h := s.ctxWr ctx (d.addr + 24) ((d.head + 1) % 2 ^ 32) 4
      (s.rejectReason cls r obj x = 0 → (s.argBlock ctx r).isSome = true →
        ∃ t, exec (.launchAccept ctx qn) s = .next t ∧ t.mem = h.mem ∧ t.launches = s.launches ++ [x]
          ∧ t.nextLaunch = s.nextLaunch + 1 ∧ t.wave = s.wave ∧ t.core = s.core ∧ t.groups = s.groups)
      ∧ (∀ n, s.rejectReason cls r obj x = n → n ≠ 0 →
        ∃ t, exec (.launchAccept ctx qn) s = .next t ∧ t.mem = (h.ctxWr ctx (r.f 575 512) (3 + 256 * n) 8).mem
          ∧ t.launches = s.launches ∧ t.wave = s.wave ∧ t.core = s.core ∧ t.groups = s.groups))
  ∧ (∀ (s : State) (x : Launch) (core : Nat) (pre : List Byte),
      let n : Nat := x.batch
      s.liveLaunch x.id = some x → s.preloadBytes x = some pre →
      (x.csize = 0 → s.mayStart x core n = true →
        exec (.groupStart x.id core) s
          = .next (s.atCore core (fun u => u.startGroups x pre ((List.range n).map (fun i => x.started + i)))))
      ∧ (∀ k, x.csize ≠ 0 → (∀ i, i < x.csize → s.mayStart x (4 * k + i) 1 = true) →
        exec (.clusterStart x.id k) s = .next ((List.range x.csize).foldl (fun u i =>
          u.atCore (4 * k + i) (fun v => v.startGroup x (x.started + i) pre)) s)))
  ∧ (∀ (s : State) (x : Launch) (g : Nat) (pre : List Byte),
      let t := s.startGroup x g pre
      let c := s.core.grant x
      t.mem = s.mem ∧ t.wave = s.wave ∧ t.nextGroup = s.nextGroup + 1
      ∧ ((∃ y ∈ s.launches, y.id = x.id) → (t.launchOf x.id).started = (s.launchOf x.id).started + 1)
      ∧ t.groups.getLast? = some
          { id := s.nextGroup, launch := x.id, ctx := x.ctx, g := g, core := s.core.num,
            cpos := if x.csize = 0 then none else some (g % x.csize), size := x.vatsz, vat := putBytes [] 0 pre,
            waves := x.wavesPer }
      ∧ ∃ ws : List Wave, t.core.waves = s.core.waves ++ ws ∧ ws.length = x.wavesPer
        ∧ ∀ (i : Nat) (w : Wave), ws[i]? = some w →
          w.group = some s.nextGroup ∧ w.index = i ∧ w.launch = x.id ∧ w.ctx = x.ctx ∧ w.g = c
          ∧ w.s = x.sregs ∧ w.stags = x.stags ∧ w.tvec = x.tvec ∧ w.det = x.det ∧ w.chkd = x.chkd
          ∧ w.fpctl = 0 ∧ w.fpstat = 0 ∧ w.timer = 0 ∧ w.tctl = 0 ∧ w.wchg = false ∧ w.d = []
          ∧ ∀ l, l < c → w.fib l = if l < x.fibs then
              { present := true, run := .running, pc := pc48 x.entry, alloc := x.win,
                fibid := BitVec.ofNat 32 ((g * x.wavesPer + i) * x.fibs + l), lvl := x.coords g i l }
            else {})
  ∧ (∀ (s : State) (g : Group),
      s.groups.find? (fun y => y.id == g.id) = some g → g.finished = false → s.groupBusy g.id = false →
      (∀ w ∈ s.allWaves, w.group = some g.id → w.over = true) → (∃ x ∈ s.launches, x.id = g.launch) →
      ∃ t, exec (.groupEnd g.id) s = .next t ∧ (∀ w ∈ t.allWaves, w.group ≠ some g.id)
        ∧ (∀ y ∈ t.groups, y.id = g.id → y.finished = true)
        ∧ (t.launchOf g.launch).ended = (s.launchOf g.launch).ended + 1)
  ∧ (∀ (s : State) (r : FaultRecord),
      s.wave.dying = some r →
      ∃ t, exec .groupFail s = .next t ∧ t.wave.anyActive = false ∧ t.wave.dying = none
        ∧ t.mem = (if r.unhandled then s.postError s.wave.launch r else s).mem
        ∧ (∀ gid, s.wave.group = some gid → (∃ g ∈ s.groups, g.id = gid) →
          (t.groupD gid).failed = true
          ∧ (∀ w ∈ t.allWaves, w.group = some gid → ∀ l, (w.fib l).alive = false)
          ∧ ((s.groupD gid).failed = false → (∃ x ∈ s.launches, x.id = (s.groupD gid).launch) →
            (t.launchOf (s.groupD gid).launch).nfail = (s.launchOf (s.groupD gid).launch).nfail + 1))
        ∧ (s.wave.group = none → (∃ x ∈ s.launches, x.id = s.wave.launch) →
          (t.launchOf s.wave.launch).taskFail = true))
  ∧ (∀ (s : State) (x : Launch),
      s.launches.find? (fun y => y.id == x.id) = some x → x.complete = false → s.workLeft x = false →
      x.ended = x.started → (x.started = x.groups ∨ x.stopped = true) →
      let ok : Prop := x.nfail = 0 ∧ x.taskFail = false ∧ x.stopped = false
      let t := s.finishLaunch x.id
      (t.launchOf x.id).complete = true
      ∧ (ok → t.mem = (s.ctxWr x.ctx x.done 1 8).mem)
      ∧ (¬ ok → t.mem = (s.ctxWr x.ctx x.done (2 + 2 ^ 32 * min x.nfail 0xFFFFFFFF) 8).mem))

/-! ### Tasks, racking, deterministic steps, pre-emption -/

/-- 09 R202, R204, R205, R208 to R210: a bin whose time has passed becomes due; the Cooper starts the first due bin
that fits as one task wave, item i in lane i with its values in V0 up; a core with nothing to issue takes a whole due
bin of its context from a sibling, or else one that its die's steal queue names; a bin that cannot launch is posted
there and stays in its core's bins until it is taken; racking moves a group, its queued work, the core's matrix state
and its bins to an idle core of the die. A deterministic step lets the wave at the rotation pointer issue one
instruction; once all that it started is complete it counts if the instruction retired, and the pointer moves on. The
start of a rotation and what an overflow item holds are the model's reading (log 45, log 46). -/
def Obligations.TaskEvents : Prop :=
  let taken (s : State) (n m i : Nat) (b : Bin) : State := (s.onCores (fun y =>
    if y.num = m then { y with bins := removeAt i y.bins }
    else if y.num = n then { y with bins := y.bins ++ [{ b with due := true, posted := false }] }
    else y)).unpost m b
  (∀ (s : State) (n : Nat) (e : DWord),
      let x := s.launchOf n
      exec (.binTimeout n e) s = .next { s with core := { s.core with bins := s.core.bins.map (fun b =>
        if b.launch = n ∧ b.entry = e.toNat ∧ b.items ≠ [] ∧ (x.det = true → x.bintmo ≤ b.steps) then
          { b with due := true }
        else b) } })
  ∧ (∀ (s : State) (i : Nat),
      let r := s.refill
      let b := r.core.bins.getD i {}
      let x := r.launchOf b.launch
      let g := s.core.taskGrant x
      s.detOn s.core.num = none → r.core.bins.findIdx? (fun b => r.binDue r.core b && r.binFits b) = some i →
      ∃ (t : State) (w : Wave), exec .cooperLaunch s = .next t ∧ t.mem = s.mem ∧ t.wave = s.wave
        ∧ t.core.waves = s.core.waves ++ [w] ∧ t.core.matCtx = x.ctx
        ∧ w.group = none ∧ w.launch = x.id ∧ w.ctx = x.ctx ∧ w.g = g ∧ w.s = x.sregs ∧ w.stags = x.stags
        ∧ ((∀ y ∈ s.launches, y.ovf = []) → ∀ j, j ≠ i → ∀ y, r.core.bins[j]? = some y →
          y.items ≠ [] → y ∈ t.core.bins)
        ∧ ∀ l, l < g → match b.items[l]? with
          | none => w.fib l = {}
          | some it =>
            let f := w.fib l
            f.present = true ∧ f.task = true ∧ f.run = .running ∧ f.pc = pc48 b.entry ∧ f.alloc = x.win ∧ f.base = 0
            ∧ f.fibid = BitVec.ofNat 32 (x.groups * x.wavesPer * x.fibs + it.order) ∧ f.lvl = List.replicate 8 0
            ∧ ∀ k, sget 0 f.v k = it.vals.getD k 0)
  ∧ (∀ (s : State) (n k i : Nat) (c o : Core),
      let m (j : Nat) : Nat := n / 4 * 4 + (n + j + 1) % 4
      let fits (o : Core) (b : Bin) : Bool := s.stealable c o b && decide (c.binItems + b.items.length ≤ 2048)
      s.coreBy n = some c → s.maySteal c = true → k < 3 →
      (∀ j, j < k → ∀ y, s.coreBy (m j) = some y → y.bins.any (fits y) = false) →
      s.coreBy (m k) = some o → o.bins.findIdx? (fits o) = some i →
      exec (.binSteal n) s = .next (taken s n (m k) i (o.bins.getD i {})))
  ∧ (∀ (s : State) (n i : Nat) (c o : Core) (r : Posted),
      let d := s.die (n / 48)
      let fits (o : Core) (b : Bin) : Bool := s.stealable c o b && decide (c.binItems + b.items.length ≤ 2048)
      let place (p : Posted) (o : Core) : Option Nat := if p.core = n then none
        else o.bins.findIdx? (fun b => b.posted && b.keyed p.launch p.entry && fits o b)
      s.coreBy n = some c → s.maySteal c = true →
      (∀ j, j < 3 → ∀ y, s.coreBy (n / 4 * 4 + (n + j + 1) % 4) = some y → y.bins.any (fits y) = false) →
      d.steal.find? (fun p => match s.coreBy p.core with
        | some y => (place p y).isSome
        | none => false) = some r →
      s.coreBy r.core = some o → place r o = some i →
      let t : State := taken s n r.core i (o.bins.getD i {})
      exec (.binSteal n) s = .next t
      ∧ (r.core / 48 = n / 48 → (t.die (n / 48)).steal = d.steal.erase r))
  ∧ (∀ (s : State) (n : Nat) (e : DWord) (i : Nat),
      s.core.bins.findIdx? (fun b => b.keyed n e.toNat && s.binDue s.core b && !s.binFits b
        && !b.posted && !(s.launchOf n).det) = some i →
      ∃ t, exec (.stealQueuePost n e) s = .next t ∧ t.mem = s.mem ∧ t.wave = s.wave
        ∧ t.core = { s.core with bins := updateAt (fun b => { b with posted := true }) i s.core.bins }
        ∧ (t.die (s.core.num / 48)).steal = (s.die (s.core.num / 48)).steal
            ++ [{ core := s.core.num, launch := n, entry := e.toNat }])
  ∧ (∀ (s : State) (g : Group) (n : Nat) (a b : Core),
      s.groups.find? (fun y => y.id == g.id) = some g → s.mayRack g n = true → s.coreBy g.core = some a →
      s.coreBy n = some b →
      ∃ t c, exec (.racking g.id n) s = .next t ∧ t.mem = s.mem ∧ (t.groupD g.id) = { g with core := n }
        ∧ t.coreBy n = some c ∧ c.mat = a.mat ∧ c.matCtx = g.ctx ∧ c.arrayQ = a.arrayQ ∧ c.tileQ = a.tileQ
        ∧ c.blendQ = a.blendQ ∧ c.kickQ = a.kickQ ∧ c.reqQ = a.reqQ
        ∧ c.bins = b.bins ++ a.bins ∧ c.tdtCache = []
        ∧ (∀ w ∈ s.wavesOn g.core, w.group = some g.id → ∃ k, { w with slot := k } ∈ t.wavesOn n)
        ∧ ∀ w ∈ t.wavesOn g.core, w.group ≠ some g.id)
  ∧ (∀ (s : State) (x : Launch),
      s.detOn s.core.num = some x →
      let y := s.launchOf x.id
      (s.core.preempt = .none ∨ x.stepOpen = true → exec .detStep s = .next (s.detStep x.id))
      ∧ (s.core.preempt ≠ .none → x.stepOpen = false → exec .detStep s = .next s)
      ∧ (∀ i, s.rotationAt y = some i →
        let u := s.focusWave (y.rotation.getD i 0)
        (y.stepOpen = false → s.core.bins = [] → (∀ z ∈ s.launches, z.ovf = []) → u.openWork u.wave.wid = false →
          u.wave.dying = none → s.detStep x.id = (u.openStep x.id).stepWave.endStep x.id i)
        ∧ (y.stepOpen = true → u.openWork u.wave.wid = true →
          s.detStep x.id = (State.drainWave drainFuel u).endStep x.id i)))
  ∧ (∀ (s : State) (i : Instr) (t : State),
      let r := s.onWave (fun w => { w with stalled := false, turnDone := false })
      s.wave.cur.isSome = true → decodeWord s.wave.wordHere = .ok i → issueWord i r = .next t →
      s.stepWave = if t.wave.stalled then s else State.drainWave drainFuel t)
  ∧ (∀ (s : State) (id i : Nat), (∃ y ∈ s.launches, y.id = id) →
      let t := s.endStep id i
      let x := s.launchOf id
      let y := t.launchOf id
      let here := s.rotationOf x
      (s.openWork s.wave.wid = true → t = s)
      ∧ (s.openWork s.wave.wid = false → (∀ g ∈ s.groups, g.launch = id → s.canEnd g = false) →
        t.mem = s.mem ∧ t.wave = s.wave
        ∧ y.count = x.count + (if x.stepOpen = true ∧ s.wave.retcnt ≠ x.stepRet then 1 else 0)
        ∧ y.stepOpen = false ∧ y.rotation = here
        ∧ y.rotptr = ((x.rotation.take (i + 1)).filter (fun w => here.contains w)).length
        ∧ t.core.bins = s.core.bins.map (fun b => if b.launch = id ∧ b.items ≠ [] then
            { b with steps := b.steps + 1, due := b.due || decide (x.bintmo ≤ b.steps + 1) } else b)))

/-- 21 R389, R390, R398, 19 R364, R365: a request names one core, or the four of a cluster. A core that has stopped is
saved whole and is free; a saved core goes back onto an idle core that it fits, each wave with its grant and
registers, WCHG set where P has changed. Retirement pre-empts the core, waits until it has stopped and brings in the
reserve: a reserve core takes its number, or it is disabled, and a first lane quad leaves P at 48. When a core counts
as stopped, and the order of a retirement, are the model's reading (log 60); the image is a record (log 9). -/
def Obligations.PreemptEvents : Prop :=
  (∀ (s : State) (n : Nat),
      let first := n / 4 * 4
      let ns := if s.clusterCore n then [first, first + 1, first + 2, first + 3] else [n]
      exec (.preemptRequest n) s = .next (s.onCores (fun c =>
        if c.num ∈ ns then { c with preempt := .requested (sortNats (c.preempt.cores ++ ns)) } else c)))
  ∧ (∀ (s : State) (n : Nat) (c : Core), s.coreBy n = some c →
      let ns := c.preempt.cores
      ((ns = [] ∨ s.allStopped ns = false) → exec (.preemptAck n) s = .next s)
      ∧ (ns ≠ [] → s.allStopped ns = true → (∀ c ∈ s.allCores, c.retiring = []) →
        exec (.preemptAck n) s = .next (ns.foldl (fun u m => u.saveCore m (s.clusterSet m)) s)))
  ∧ (∀ (s : State) (n : Nat) (set : Option Nat) (c : Core) (k : Context),
      s.coreBy n = some c → s.context c.matCtx = some k → s.usersOn n ≠ [] →
      let t := s.saveCore n set
      t.usersOn n = [] ∧ (∀ g ∈ t.groups, g.core = n → g.finished = true)
      ∧ (∃ c', t.coreBy n = some c' ∧ c'.preempt = .none ∧ c'.window = 0 ∧ c'.arrayQ = [] ∧ c'.blendQ = []
          ∧ c'.kickQ = [] ∧ c'.reqQ = [] ∧ c'.bins = [])
      ∧ ∃ i, t.mem = (s.streamOut i c.matCtx).mem ∧ i.slot = k.freeSlot
      ∧ (t.ctxD c.matCtx).images = k.images ++ [i] ∧ (t.ctxD c.matCtx).seq = k.seq + 1
        ∧ i.seq = k.seq ∧ i.core = n ∧ i.set = set ∧ i.cpos = set.map (fun _ => n % 4) ∧ i.p = c.p
        ∧ i.mat = c.mat ∧ i.arrayQ = c.arrayQ ∧ i.blendQ = c.blendQ
        ∧ i.kickQ = c.kickQ ∧ i.reqQ = c.reqQ ∧ i.bins = c.bins.map (fun b => { b with posted := false })
        ∧ i.waves = (s.usersOn n).map Wave.toSave
        ∧ i.groups = s.groups.filter (fun g => g.core == n && !g.finished))
  ∧ (∀ (s : State) (ctx n : Nat) (i : Image),
      (s.ctxD ctx).images.find? (fun y => y.seq == i.seq) = some i → i.cpos = none → s.imageFits i n = true →
      s.yields (s.imageClass i) = false →
      ∃ t c, exec (.restore ctx i.seq n) s = .next t ∧ t.mem = s.mem
        ∧ (∀ y ∈ (t.ctxD ctx).images, y.seq ≠ i.seq)
        ∧ t.coreBy n = some c ∧ c.mat = i.mat ∧ c.matCtx = ctx
        ∧ (∀ b, s.coreBy n = some b → c.bins = b.bins ++ i.bins)
        ∧ ((∀ w ∈ s.allWaves ++ i.waves, (∃ y ∈ i.waves, y.wid = w.wid) → (s.launchOf w.launch).stopped = false) →
          c.arrayQ = i.arrayQ ∧ c.blendQ = i.blendQ ∧ c.kickQ = i.kickQ ∧ c.reqQ = i.reqQ)
        ∧ ∀ w ∈ i.waves, ∃ v ∈ t.wavesOn n, v.wid = w.wid ∧ v.g = w.g ∧ v.group = w.group ∧ v.saved = false
          ∧ v.wchg = (w.wchg || c.p != i.p) ∧ v.s = w.s ∧ v.stags = w.stags ∧ v.retcnt = w.retcnt
          ∧ v.fpctl = w.fpctl ∧ v.fpstat = w.fpstat ∧ v.tvec = w.tvec ∧ v.tpc = w.tpc ∧ v.ctxcyc = w.ctxcyc
          ∧ ∀ l, (v.fib l).v = (w.fib l).v ∧ (v.fib l).base = (w.fib l).base ∧ (v.fib l).frames = (w.fib l).frames)
  ∧ (∀ (s : State) (u : RetireUnit) (n : Nat) (c : Core),
      (u = .core n ∨ ∃ q, u = .quad n q) → s.coreBy n = some c → s.clusterCore n = false →
      let ready : Prop := c.stopped (s.workOn n) = true ∧ s.inStep n = false
      (¬ ready →
        exec (.coreRetire u) s = .next (s.onCores (fun y =>
          if y.num = n then
            { y with
              preempt := .requested (sortNats (y.preempt.cores ++ [n]))
              retiring := if y.retiring.contains u then y.retiring else y.retiring ++ [u] }
          else y)))
      ∧ (ready → c.preempt = .none → c.retiring = [] → s.workOn n = [] → (∀ g ∈ s.groups, g.core = n →
        g.finished = true) →
        let d := s.die (n / 48)
        let same : Prop := match u, c.retired with
          | .quad _ q, some r => r = q
          | _, _ => False
        let first : Prop := match u, c.retired with
          | .quad .., none => True
          | _, _ => False
        ∃ t c', exec (.coreRetire u) s = .next t ∧ t.coreBy n = some c' ∧ c'.preempt = .none ∧ c'.retiring = []
          ∧ (same → c'.retired = c.retired ∧ c'.enabled = c.enabled ∧ (t.die (n / 48)).spareCores = d.spareCores)
          ∧ (first → c'.p = 48 ∧ c'.enabled = c.enabled ∧ (t.die (n / 48)).quadsRetired = d.quadsRetired + 1
              ∧ (t.die (n / 48)).spareCores = d.spareCores)
          ∧ (¬ same → ¬ first →
            (0 < d.spareCores → c'.p = 64 ∧ c'.enabled = c.enabled
              ∧ (t.die (n / 48)).spareCores = d.spareCores - 1 ∧ (t.die (n / 48)).replaced = d.replaced + 1)
            ∧ (d.spareCores = 0 → c'.enabled = false ∧ (t.die (n / 48)).spareCores = 0))))

/-! ### The decanter, the queue's follow-on commands, starvation, hardware errors -/

/-- 14 R301, R302, R304 to R306, 01 R11, 09 R199, 13 R287, 20 R381: the decanter reads a request's 64 bytes and its
capability, validates them, and then lands the destination in segments of 4 KiB, each credited to the barrier; a
request that fails is abandoned with its code, its barrier broken and its record posted. A landed request's command
enters the array's queue when there is room. A promotion puts a wave that was passed over, or a Vat requester, first,
and a closing window changes nothing else. The set whose instruction meets a hardware error parks, with a record to
the steward; an error that none meets ends the waves that it touches, with a record. How the decanter's work is cut
into steps, when a wave counts as passed over and how a hardware error arrives are the model's reading (log 43, log 5,
log 49). -/
def Obligations.UnitEvents : Prop :=
  let drops (s : State) (i : Nat) (q : CopyReq) (group code addr : Nat) (t : State) : Prop :=
    t.core.reqQ = removeAt i s.core.reqQ
    ∧ t.mem = (s.postError (s.groupD q.group).launch (s.rqRecord q group code addr)).mem
    ∧ ((∃ g ∈ s.groups, g.id = q.group) → rqBar q.raw % 16 = 0 → rqBar q.raw + 16 ≤ (s.groupD q.group).size →
      ((t.groupD q.group).bar (rqBar q.raw)).broken = true)
  (∀ (s f : State) (i : Nat) (q : CopyReq),
      s.core.curReq = some (i, q) → q.valid = false → s.rqEarly q = false → q.begun = false → s.rqFetch q = .ok f →
      let r := f.rqRead q
      let u := (f.onReq i (fun _ => r)).onCore (fun k => { k with kickQ := lessOne k.kickQ })
      (∀ q2, u.rqValidate r = .ok q2 →
        q2.valid = true ∧ q2.raw = BitVec.ofNat 512 ((f.groupD q.group).rd q.off 64)
        ∧ ∃ t, exec .decanterRequestBegin s = .next t ∧ t.mem = s.mem ∧ t.groups = (u.rqFilled q2).groups
        ∧ t.wave = s.wave
          ∧ t.core.reqQ = updateAt (fun _ => { q2 with token := none }) i u.core.reqQ
          ∧ t.core.kickQ = lessOne s.core.kickQ)
      ∧ (∀ c a, u.rqValidate r = .error (.code c a) →
        ∃ t, exec .decanterRequestBegin s = .next t ∧ t.core.kickQ = lessOne s.core.kickQ ∧ drops u i r 8 c a t))
  ∧ (∀ (s : State) (q : CopyReq),
      let r := q.raw
      let f (hi lo : Nat) : Nat := r.toNat / 2 ^ lo % 2 ^ (hi + 1 - lo)
      ((f 1 0 = 3 ∨ f 152 151 = 3 ∨ f 207 192 = 0 ∨ f 223 208 = 0 ∨ f 239 224 = 0 ∨ (f 1 0 ≠ 0 ∧ f 239 224 ≠ 1)
          ∨ (f 4 4 = 1 ∧ f 1 0 ≠ 1) ∨ (f 5 5 = 1 ∧ f 4 4 = 0) ∨ (f 6 6 = 1 ∧ (f 1 0 ≠ 1 ∨ f 95 64 % 8 ≠ 0))
          ∨ f 383 382 ≠ 0 ∨ f 255 240 ≠ 0 ∨ f 191 179 ≠ 0 ∨ f 159 158 ≠ 0) →
        s.rqValidate q = .error (.code 0x030 0))
      ∧ (s.rqStage1 q = false → (s.groupD q.group).size < f 146 128 + 16 → s.rqValidate q = .error (.code 0x033 0))
      ∧ (s.rqStage1 q = false → s.rqStage2 q = false →
        (q.capTag = false ∨ Nat.land (capPerm q.cap) pLoad ≠ pLoad) → s.rqValidate q = .error (.code 0x031 0)))
  ∧ (∀ (s : State) (i : Nat) (q : CopyReq),
      s.core.curReq = some (i, q) → q.valid = true →
      let stop := q.segStop
      let unit (p : Nat) : Nat := q.destAt p / 8
      (q.total ≤ q.pos + 4096 → stop = q.total)
      ∧ (q.pos + 4096 < q.total → stop ≤ q.pos + 4096
          ∧ ((∃ p, q.pos < p ∧ p ≤ q.pos + 4095 ∧ unit p ≠ unit (p + 1)) → unit stop ≠ unit (stop - 1)))
      ∧ (∀ c a, s.rqPrepare q q.pos stop = .error (.code c a) →
        ∃ t, exec .decanterSegment s = .next t ∧ drops s i q 8 c a t)
      ∧ (∀ s1 q1 ws, s.rqPrepare q q.pos stop = .ok (s1, q1, ws) →
        let q2 : CopyReq := { q1 with pos := stop, landed := q1.landed + (stop - q1.pos), token := none,
                                      done := decide (q.total ≤ stop) }
        let bar := rqBar q1.raw
        let past (a : Nat) (x : Nat × List Byte) : Prop := x.1 ≤ a ∧ a < x.1 + x.2.length
        ∃ t, exec .decanterSegment s = .next t ∧ t.mem = s1.mem
          ∧ t.core.reqQ = (if q.total ≤ stop ∧ rqFol q1.raw = false then removeAt i s1.core.reqQ
              else updateAt (fun _ => q2) i s1.core.reqQ)
          ∧ (rqMcast q1.raw = 0 → rqSum q1.raw = false → (∃ g ∈ s1.groups, g.id = q1.group) →
            (∀ a, a < bar ∨ bar + 16 ≤ a → (t.groupD q1.group).rdByte a
              = ws.foldl (fun v x => if x.1 ≤ a ∧ a < x.1 + x.2.length then x.2.getD (a - x.1) 0 else v)
                  ((s1.groupD q1.group).rdByte a))
            ∧ ((∀ a, bar ≤ a → a < bar + 16 → ∀ x ∈ ws, ¬ past a x) →
              let b := (s1.groupD q1.group).bar bar
              (t.groupD q1.group).rdBytes bar 16
                = bytesOf ({ b with landed := b.landed + (stop - q.pos) } : Bar).settle.pack 16))))
  ∧ (∀ (s : State) (i : Nat),
      s.core.reqQ.findIdx? (fun q => q.done) = some i →
      let q := s.core.reqQ.getD i {}
      let f := s.folFill q
      let c := f.folCmd q .swap
      (8 ≤ s.core.arrayQ.length → exec .followOnEntry s = .next { s with fresh := s.fresh + freshStride })
      ∧ ((∀ a b ty x, rqCmdOf q.raw ≠ some (.mmar a b ty x)) → f = s)
      ∧ (s.core.arrayQ.length < 8 → ∀ op, f.folOp q c = .ok op →
        ∃ t, exec .followOnEntry s = .next t ∧ t.mem = f.mem ∧ t.groups = f.groups ∧ t.core.mat = f.core.mat
          ∧ t.core.reqQ = removeAt i f.core.reqQ
          ∧ t.core.arrayQ = f.core.arrayQ ++ [{ c with op := op }])
      ∧ (s.core.arrayQ.length < 8 → ∀ x, f.folOp q c = .error (.trap x) →
        ∃ t, exec .followOnEntry s = .next t ∧ drops f i q x.group x.code x.d1.toNat t))
  ∧ (∀ (s : State) (w : Wave),
      (s.wave.wid = w.wid → s.wave.absent = true) → s.core.waves.find? (fun y => y.wid == w.wid) = some w →
      w.passedOver = true → (∀ x ∈ s.core.waves, x.passedOver = true → x.seniorTo w = false) →
      ∃ t, exec (.issueStarvationPromote w.wid) s = .next t ∧ t.wave = { w with passed := 0, turnDone := false }
        ∧ t.mem = s.mem ∧ (s.wave.absent = false → s.wave ∈ t.core.waves))
  ∧ (∀ (s : State) (n : Nat),
      ((∀ w ∈ s.core.waves, w.wid = n → w.passedOver = false)
        ∨ (∃ w ∈ s.core.waves, w.passedOver = true
            ∧ ∀ y ∈ s.core.waves, y.wid = n → w.seniorTo y = true)) →
      exec (.issueStarvationPromote n) s = .next s)
  ∧ (∀ (s : State) (r : VatRequester),
      exec (.vatStarvationPromote r) s = .next { s with core := { s.core with first := some r } })
  ∧ (∀ s : State, exec .collectorWindowClose s = .next { s with core := { s.core with window := 0 } })
  ∧ (∀ (s : State) (u : HwUnit),
      let mayMeet (n : Nat) : List Wave :=
        (s.wavesOn n).filter (fun w => !w.steward && !w.absent && !w.over && w.dying.isNone)
      let unmet (n code : Nat) : Prop := ∃ (r : Wave → FaultRecord) (x : FaultRecord),
        (∀ w, (r w).info.group = 20 ∧ (r w).info.code = code ∧ (r w).pc = w.pc ∧ (r w).wctx = w.slot ∧ (r w).core = n
          ∧ (r w).ctx = w.ctx ∧ (r w).unhandled = true)
        ∧ x.info.group = 20 ∧ x.info.code = code ∧ x.core = n
        ∧ exec (.hardwareError u) s = .next
            { (s.onWaves (fun w =>
                if (mayMeet n).any (fun y => y.wid == w.wid) && Config.errorTouches s.fresh w.wid then
                  { w with dying := some (r w) }
                else w)).postSteward (dieOf n) x with fresh := s.fresh + freshStride }
      let byPort (code : Nat) : Prop :=
        ∀ tok, (s.interest (dieOf s.core.num) s.wave.ctx (s.wave.pc / 65536)).2 = some tok →
        ∃ t r, exec (.hardwareError u) s = .next t
          ∧ r.info.group = 20 ∧ r.info.code = code ∧ r.pc = s.wave.pc ∧ r.core = s.core.num
          ∧ r.fibid = (s.wave.fib s.wave.lowest).fibid
          ∧ t.mem = (s.postSteward (dieOf s.core.num) r).mem
          ∧ ∀ l, (s.wave.fib l).inSet = true →
              (t.wave.fib l).run = .parked ∧ ∃ i lead, (t.wave.fib l).park = .fault tok i lead
                ∧ i.group = 20 ∧ i.code = code
      let placed (n code : Nat) (met : Bool) : Prop :=
        ((met = false ∨ ∀ w ∈ mayMeet n, Config.errorMet s.fresh w.wid = false) → unmet n code)
        ∧ (met = true → n = s.core.num → s.wave.cur.isSome = true → s.wave.absent = false →
          (mayMeet n).filter (fun w => Config.errorMet s.fresh w.wid) = [s.wave] → byPort code)
      match u with
      | .lane n _ => placed n 0x001 true
      | .vatBank n => placed n 0x002 true
      | .memory n => placed n 0x003 true
      | .core n => placed n 0x004 true
      | .stack n => placed n 0x005 false
      | .icache n => placed n 0x006 true
      | .link => exec (.hardwareError u) s = .next { s with fresh := s.fresh + freshStride }
      | .other => exec (.hardwareError u) s = .next { s with fresh := s.fresh + freshStride })

/-! ### Memory tiers and fining -/

/-- 22 R403, R404, R407 to R409, R417: a move takes a free frame, withdraws the page's leaf and its TLB entries and
puts the page in the moving state; it ends with every byte copied, the new leaf present and the page's entry woken
with success. A unit of the module tier that fails both reads stays bad and is not merged into, and every page on it is
marked failed; a whole write gives it its bytes. A fining cycle sets act, clears the request, every mark and the log
count and sets the mark flag at every core, marks the blocks that the tables of the roots and then the log name, drops
the flag and consumes the log to its end, and frees each allocated block that nobody marked and counts the cycle. Which
frames are free, when a cycle may begin, that a unit stays bad until a whole write and that every page on it is marked
are the model's reading (log 27, log 47, log 48). -/
def Obligations.TierEvents : Prop :=
  let begun (s t : State) (ctx page slot e : Nat) (m : Move) : Prop :=
    t.moves = s.moves ++ [m] ∧ t.pageState ctx page = .moving ∧ t.rd slot 8 = e / 2 * 2
    ∧ (∀ a, (a < slot ∨ slot + 8 ≤ a) → t.rdByte a = s.rdByte a)
    ∧ (∀ c ∈ t.allCores, ∀ x ∈ c.tlb, x.covers ctx (page * 65536) = false)
    ∧ (∀ c ∈ t.clusters, ∀ x ∈ c.2.tlb, x.covers ctx (page * 65536) = false)
    ∧ m.ctx = ctx ∧ m.page = page ∧ m.srcLeaf = BitVec.ofNat 64 e
  let dead (s t : State) (u : Nat) : Prop :=
    t.badUnits.contains u = true
    ∧ (s.unitPages (4096 * u) = [] → t.mem = (s.unitEvent 6 0 (4096 * u)).mem)
    ∧ ∀ x ∈ s.unitPages (4096 * u), (x.2.1, PageState.failed) ∈ (t.ctxD x.1).tiers
  (∀ (s : State) (ctx page frame slot e d : Nat) (w : WtEntry),
      let l := localOf (frame * 65536)
      (s.context ctx).isSome = true → s.leafWord ctx page = some (slot, e) → s.findWait ctx page = some (d, w) →
      w.state = .pending → s.ownFrame frame = true → isCask l = true →
      s.frameFree frame = true →
      s.moves.any (fun m => m.ctx == ctx && m.page == page) = false → e / 2 % 8 ≠ 0 →
      ((s.pageState ctx page = .resident ∧ entV e = true ∧ (entTier e = 1 ∨ entTier e = 2) ∧ entHome e = caskDie l
          ∧ s.frameBusy (entFrame e / 65536) = false)
        ∨ (s.pageState ctx page = .absent ∧ entV e = false ∧ entHome e = caskDie l)) →
      ∃ t m, exec (.soleraPromote ctx page frame) s = .next t ∧ begun s t ctx page slot e m
        ∧ m.dst = frame ∧ m.dstTier = 0 ∧ m.die = caskDie l ∧ m.promotion = true ∧ m.wasResident = entV e
        ∧ frame ∈ (t.die (caskDie l)).usedFrames)
  ∧ (∀ (s : State) (ctx page frame slot e : Nat),
      (s.context ctx).isSome = true → s.leafWord ctx page = some (slot, e) → s.pageState ctx page = .resident →
      entV e = true → e / 2 % 8 ≠ 0 → entTier e = 0 → s.findWait ctx page = none →
      1572864 - ((s.die (entHome e)).usedFrames.filter (fun f => isCask (localOf (f * 65536)))).length
        < (s.die (entHome e)).swmark.toNat →
      s.ownFrame frame = true → isModule (localOf (frame * 65536)) = true → s.mgmt.tier1 = true →
      s.frameFree frame = true → s.frameBusy (entFrame e / 65536) = false →
      ∃ t m, exec (.soleraDemote ctx page frame) s = .next t ∧ begun s t ctx page slot e m
        ∧ m.dst = frame ∧ m.dstTier = 1 ∧ m.promotion = false ∧ m.wasResident = true
        ∧ frame ∈ (t.die (entHome e)).usedFrames)
  ∧ (∀ (s : State) (m : Move) (slot : Nat),
      s.MemWf → s.moves.find? (fun y => y.ctx == m.ctx && y.page == m.page) = some m → s.badSource m = none →
      let src := entFrame m.srcLeaf.toNat
      let c : State := { s with mem := copyFrame s.mem src (m.dst * 65536) }
      c.pageSlot m.ctx m.page = some slot →
      ∃ t, exec (.moveInstall m.ctx m.page) s = .next t
        ∧ (∀ y ∈ t.moves, ¬ (y.ctx = m.ctx ∧ y.page = m.page))
        ∧ t.rd slot 8 = m.newLeaf ∧ entV (t.rd slot 8) = true ∧ entTier (t.rd slot 8) = m.dstTier % 4
        ∧ entFrame (t.rd slot 8) = m.dst % 2 ^ 40 * 65536
        ∧ (∀ i, i < 65536 → (m.dst * 65536 + i < slot ∨ slot + 8 ≤ m.dst * 65536 + i) →
          t.rdByte (m.dst * 65536 + i) = s.rdByte (src + i))
        ∧ (∀ a, (a < m.dst * 65536 ∨ m.dst * 65536 + 65536 ≤ a) → (a < slot ∨ slot + 8 ≤ a) →
          t.rdByte a = s.rdByte a)
        ∧ (∀ d w, s.findWait m.ctx m.page = some (d, w) →
          (∀ x ∈ (t.die d).waits, x.idx = w.idx → x.state = .succeeded)
          ∧ ((∀ v ∈ s.allWaves, ∀ f ∈ v.lanes, f.park ≠ .none → f.run = .parked) →
            ∀ v ∈ t.allWaves, ∀ f ∈ v.lanes, f.waitsOn (tokenOf d w) = false)))
  ∧ (∀ (s : State) (u n : Nat), 0 < n → n ≤ 4096 → s.unitOf (4096 * u) = some u →
      (s.unitFails (4096 * u) = true →
        ∃ t, exec (.moduleTierRead (4096 * u) n) s = .next t ∧ dead s t u)
      ∧ (s.unitFails (4096 * u) = false →
        ∃ t, exec (.moduleTierRead (4096 * u) n) s = .next t ∧ t.badUnits = s.badUnits
          ∧ t.mem = (if Config.unitError s.fresh u then s.unitEvent 5 0 (4096 * u) else s).mem))
  ∧ (∀ (s : State) (u off : Nat) (bs : List Byte), 0 < bs.length → off + bs.length ≤ 4096 →
      s.unitOf (4096 * u) = some u → s.mgmt.tier1 = true →
      let a := 4096 * u + off
      (bs.length = 4096 → ∃ t, exec (.moduleTierWrite a bs) s = .next t ∧ t.badUnits.contains u = false
        ∧ (∀ i, i < 4096 → t.rdByte (4096 * u + i) = bs.getD i 0)
        ∧ ∀ b, (b < 4096 * u ∨ 4096 * u + 4096 ≤ b) → t.rdByte b = s.rdByte b)
      ∧ (bs.length < 4096 → s.unitFails (4096 * u) = true →
        ∃ t, exec (.moduleTierWrite a bs) s = .next t ∧ dead s t u)
      ∧ (bs.length < 4096 → s.unitFails (4096 * u) = false → ∃ t, exec (.moduleTierWrite a bs) s = .next t
        ∧ t.badUnits = s.badUnits
        ∧ (let r : State := if Config.unitError s.fresh u then s.unitEvent 5 0 (4096 * u) else s
          ∀ b, t.rdByte b = if a ≤ b ∧ b < a + bs.length then bs.getD (b - a) 0 else r.rdByte b)))
  ∧ (∀ (s : State) (ctx n p : Nat) (x : Pool), s.poolDesc ctx n = some (x, p) →
      let ctl := s.desc p 102 1
      let flag (t : State) (on : Bool) : Prop := ∀ c ∈ t.allCores, c.marks.contains (ctx, n) = on
      ((x.phase = 1 ∨ (x.phase = 0 ∧ bit ctl 1 = true)) → bit ctl 0 = false → bit ctl 2 = false →
        s.kvsetPending ctx = false →
        let r := (s.poolCtl p true false false).foldBlocks ctx p (fun u _ _ a => u.setMark a false)
        ∃ t, exec (.finingStart ctx n) s = .next t ∧ t.poolNum ctx n = some { x with phase := 2, logRead := 0 }
          ∧ t.desc p 84 4 = 0 ∧ flag t true ∧ ∀ a, (a < p + 84 ∨ p + 88 ≤ a) → t.rdByte a = r.rdByte a)
      ∧ (x.phase = 2 →
        let r := s.markRoots ctx p n
        ∃ t, exec (.finingMark ctx n) s = .next t ∧ t.mem = (r.drainLog ctx p n x).mem
          ∧ t.poolNum ctx n = some { x with phase := 3, logRead := r.desc p 84 4 })
      ∧ (x.phase = 3 →
        ∃ t, exec (.finingMark ctx n) s = .next t ∧ t.mem = (s.drainLog ctx p n x).mem
          ∧ t.poolNum ctx n = some { x with logRead := s.desc p 84 4 })
      ∧ (x.phase = 3 → s.kvsetPending ctx = false →
        let c : State := s.onCores (fun c => { c with marks := c.marks.filter (fun m => m != (ctx, n)) })
        let r := c.poolCtl p false (bit ctl 1) false
        ∃ t, exec (.finingClose ctx n) s = .next t ∧ t.mem = (r.drainLog ctx p n x).mem ∧ flag t false
          ∧ t.poolNum ctx n = some { x with phase := 4, logRead := r.desc p 84 4 })
      ∧ (x.phase = 4 →
        let r := (s.poolCtl p false (bit ctl 1) true).foldBlocks ctx p (fun u tier k a => u.sweepBlock p tier k a)
        ∃ t, exec (.finingSweep ctx n) s = .next t ∧ t.poolNum ctx n = some { x with phase := 0 }
          ∧ t.desc p 102 1 = 2 * (if bit ctl 1 then 1 else 0) ∧ t.desc p 94 2 = (r.desc p 94 2 + 1) % 65536
          ∧ ∀ a, (a < p + 94 ∨ p + 96 ≤ a) → a ≠ p + 102 → t.rdByte a = r.rdByte a))
  ∧ (∀ (s : State) (p a : Nat) (act req swp m : Bool),
      (s.poolCtl p act req swp).desc p 102 1 = (if act then 1 else 0) + (if req then 2 else 0) + (if swp then 4 else 0)
      ∧ (∀ b, b ≠ p + 102 → (s.poolCtl p act req swp).rdByte b = s.rdByte b)
      ∧ (let t := s.setMark a m
        bit (t.rd a 16) 125 = m ∧ t.rd a 16 % 2 ^ 125 = s.rd a 16 % 2 ^ 125 ∧ t.rd a 16 / 2 ^ 126 = s.rd a 16 / 2 ^ 126
        ∧ ∀ b, (b < a ∨ a + 16 ≤ b) → t.rdByte b = s.rdByte b))
  ∧ (∀ (s : State) (ctx p n : Nat),
      (∀ x : Pool, s.drainLog ctx p n x = ((List.range (s.desc p 84 4 - x.logRead)).foldl (fun u i =>
        u.markLogged ctx p n (x.logRead + i)) s).onPool ctx n (fun y => { y with logRead := s.desc p 84 4 }))
      ∧ (∀ i e, s.ctxRd ctx (s.desc p 24 8 + 8 * (i % s.desc p 80 4)) 8 = some e → 0 < s.desc p 80 4 →
        s.markLogged ctx p n i = s.markEntry ctx p n e))
  ∧ (∀ (s : State) (p tier k a : Nat), tier ≤ 1 → a + 16 ≤ p ∨ p + 128 ≤ a → k < 2 ^ 64 →
      let e := s.rd a 16
      let t := s.sweepBlock p tier k a
      (e / 2 ^ 126 = 1 → bit e 125 = false →
        t.desc p (48 + 8 * tier) 8 = k ∧ t.desc p (64 + 8 * tier) 8 = (s.desc p (64 + 8 * tier) 8 + 1) % 2 ^ 64
        ∧ t.rd a 16 / 2 ^ 125 = 0 ∧ t.rd a 16 % 2 ^ 56 = e % 2 ^ 56
        ∧ t.rd a 16 / 2 ^ 64 % 2 ^ 40 = s.desc p (48 + 8 * tier) 8 % 2 ^ 40)
      ∧ (e / 2 ^ 126 ≠ 1 ∨ bit e 125 = true → t = s))
  ∧ (∀ (s : State) (ctx p n a : Nat) (e : Nat),
      bit e 0 = true → e / 16 % 64 = n → e / 2 ^ 52 % 4096 = s.mgmt.devno → e / 2 ^ 50 % 4 ≤ 1 →
      s.blockEntry ctx p (e / 2 ^ 50 % 4) (e / 2 ^ 10 % 2 ^ 40) = some a → s.rd a 16 / 2 ^ 126 = 1 →
      let t := s.markEntry ctx p n e
      bit (t.rd a 16) 125 = true ∧ t.rd a 16 % 2 ^ 125 = s.rd a 16 % 2 ^ 125 ∧ t.rd a 16 / 2 ^ 126 = 1)
  ∧ (∀ (s : State) (ctx p n e : Nat),
      (bit e 0 = false ∨ e / 16 % 64 ≠ n ∨ e / 2 ^ 52 % 4096 ≠ s.mgmt.devno ∨ 1 < e / 2 ^ 50 % 4) →
      s.markEntry ctx p n e = s)

/-! ### The steward's requests and the package -/

/-- 02 R45 to R48, 09 R193, 18 R340, R350, 22 R410: system software's requests to the steward add a context, a code
object under a handle, a queue, a root or a pool; a request that breaks its rule changes nothing. The frames of an
image are free values (log 28). What a size below the table's makes of an image and the entry table of a translated
one are log 66, and the host window is log 67. -/
def Obligations.StewardEvents : Prop :=
  (∀ (s : State) (n cnt : Nat) (root base save spill : DWord),
      let ok : Prop := 1 ≤ n ∧ n ≤ 4095 ∧ 1 ≤ cnt ∧ cnt ≤ 4096 ∧ s.madeCtx n = false
      (ok → ∃ t c, exec (.contextCreate n root base cnt save spill) s = .next t ∧ t.context n = some c
        ∧ c.ptroot = root ∧ c.tdtbase = base ∧ c.tdtcnt.toNat = cnt ∧ c.save = save ∧ c.spill = spill
        ∧ c.window = Config.hostWindow n
        ∧ c.queues = [] ∧ c.roots = [] ∧ c.cobjs = [] ∧ c.pools = [] ∧ c.images = [] ∧ c.tiers = []
        ∧ (∀ k, k ≠ n → t.context k = s.context k) ∧ t.mem = s.mem)
      ∧ (¬ ok → exec (.contextCreate n root base cnt save spill) s = .next s))
  ∧ (∀ (s : State) (n q addr : Nat),
      let ok : Prop := s.madeCtx n = true ∧ q < 256 ∧ ∀ x ∈ (s.ctxD n).queues, x.num ≠ q
      (ok → exec (.queueCreate n q addr) s
        = .next (s.onContext n (fun c => { c with queues := c.queues ++ [{ num := q, desc := addr }] })))
      ∧ (¬ ok → exec (.queueCreate n q addr) s = .next s))
  ∧ (∀ (s : State) (n : Nat) (cap : Quad),
      let ok : Prop := s.madeCtx n = true ∧ (s.ctxD n).roots.length < 64
      (ok → exec (.rootInstall n cap) s = .next (s.onContext n (fun c => { c with roots := c.roots ++ [cap] })))
      ∧ (¬ ok → exec (.rootInstall n cap) s = .next s))
  ∧ (∀ (s : State) (n p : Nat) (a : DWord),
      let ok : Prop := s.madeCtx n = true ∧ p < 64 ∧ a.toNat % 128 = 0 ∧ s.poolNum n p = none
      (ok → exec (.poolRegister n p a) s
        = .next (s.onContext n (fun c => { c with pools := c.pools ++ [{ num := p, desc := a.toNat }] })))
      ∧ (¬ ok → exec (.poolRegister n p a) s = .next s))
  ∧ (∀ (s : State) (n h a : Nat), s.madeCtx n = true → (∀ o ∈ (s.ctxD n).cobjs, o.handle ≠ h) →
      let f (hi lo : Nat) : Nat := s.rd a 64 / 2 ^ lo % 2 ^ (hi + 1 - lo)
      ((f 31 0 ≠ 0x424F435A ∨ f 47 32 ≠ 1 ∨ f 63 48 = 0 ∨ 16 < f 63 48 ∨ f 511 192 ≠ 0 ∨ f 127 64 < 64 + 32 * f 63 48
          ∨ f 191 128 % 65536 ≠ 0) → exec (.codeObjectRegister n h a) s = .next s)
      ∧ (∀ d base img es, s.chooseImage a = some (d, base, img) → imgEntries img d.tab d.nkern = some es →
        let bs : List Byte := if d.kind = 1 then Config.translate img else img
        ∀ fs, imgEntries bs d.tab d.nkern = some fs →
        base % 65536 = 0 → base + bs.length ≤ 2 ^ 56 → s.rangeMapped n base bs.length = false →
        ∀ u, s.placeImage n base bs (ceilDiv bs.length 65536) = some u →
        ∃ t, exec (.codeObjectRegister n h a) s = .next t ∧ t.mem = u.mem
          ∧ (t.ctxD n).cobjs = (s.ctxD n).cobjs ++
              [{ handle := h, base := base, length := bs.length, kind := d.kind
                 legacy := if d.kind = 2 then d.legacy else 0, entries := fs }])
      ∧ (∀ d base img, s.chooseImage a = some (d, base, img) →
        let bs : List Byte := if d.kind = 1 then Config.translate img else img
        (imgEntries img d.tab d.nkern = none ∨ 2 ^ 56 < base + bs.length ∨ s.rangeMapped n base bs.length = true) →
        exec (.codeObjectRegister n h a) s = .next s))
  ∧ (∀ (s : State) (n h a : Nat), s.madeCtx n = false ∨ (∃ o ∈ (s.ctxD n).cobjs, o.handle = h) →
      exec (.codeObjectRegister n h a) s = .next s)

/-- 19 R352, R356 to R359, R362, R367: a read, a write or an atomic of the host in one of its windows, of another
device or of the network is performed at its home and wakes the package; an RDMA message's completion entry is written
after it. An access that the link or the home refuses, and one outside every window, receives an error completion and
changes no byte. Nothing arrives from other devices at a standalone device, nor from the network where the ports are
down. A port that falls to half width is posted once, and the frames of a device that has left the domain are refused.
The error completion before service and the stop at an unassigned address are the model's (log 51), and so is what a
window admits (log 67). -/
def Obligations.BusEvents : Prop :=
  let stays (s : State) (m : Mgmt) : State := { s with mgmt := m }
  let failed (s : State) : State := { s.wakeUp with reply := none }
  let perform (s : State) (a : Nat) (op : BusOp) : State × List Byte :=
    let p := s.mgmt.devno * 2 ^ 44 + a
    let u := s.wakeUp
    match op with
    | .read n => (u.busRead a n, s.rdBytes p n)
    | .write bs => (u.busWrite a bs, [])
    | .atomic t o x y =>
      (u.busWrite a (bytesOf (atomChain t o (s.rd p t.bytes) [{ data := x, data2 := y }]) t.bytes), s.rdBytes p t.bytes)
    | .linkError => (u, [])
  let ends (s : State) (a : Nat) (op : BusOp) (k : State → State) : State :=
    let r := perform s a op
    if s.busRefused a op then { s.wakeUp.busRead a (busSize op) with reply := none, fresh := s.fresh + freshStride }
    else { k r.1 with reply := some r.2, fresh := s.fresh + freshStride }
  (∀ (s : State) (a dev : Nat) (op : BusOp),
      s.Serving → dev ≠ s.mgmt.devno → dev < 2304 → s.mgmt.standalone = false → op ≠ .linkError →
      (unassignedIn a (busSize op) = false →
        (s.inWindow a (busSize op) = true → exec (.hostAccess a op) s = .next (ends s a op (fun t => t)))
        ∧ exec (.trellisAccess dev a op) s = .next (ends s a op (fun t => t)))
      ∧ (unassignedIn a (busSize op) = true →
        (s.inWindow a (busSize op) = true → exec (.hostAccess a op) s = .fault (.unassignedAddress a))
        ∧ exec (.trellisAccess dev a op) s = .fault (.unassignedAddress a)))
  ∧ (∀ (s : State) (a dev : Nat) (op : BusOp),
      ((dev = s.mgmt.devno ∨ 2304 ≤ dev ∨ s.mgmt.standalone = true) → exec (.trellisAccess dev a op) s = .next s)
      ∧ (s.Serving → s.inWindow a (busSize op) = false → exec (.hostAccess a op) s = .next (failed s))
      ∧ (s.Serving → exec (.hostAccess a .linkError) s = .next (failed s))
      ∧ (¬ s.Serving → exec (.hostAccess a op) s = .next { s with reply := none }))
  ∧ (∀ (s : State) (a : Nat) (op : BusOp), s.busRefused a op = true ↔ isModule a = true ∧ (s.mgmt.tier1 = false
      ∨ ∃ u ∈ unitsOf (s.mgmt.devno * 2 ^ 44 + a) (busSize op), s.unitFails (u * 4096) = true
        ∧ ∀ bs, op = .write bs → coversUnit (s.mgmt.devno * 2 ^ 44 + a) bs.length u = false))
  ∧ (∀ s : State, s.wakeUp.mem = s.mem ∧ s.wakeUp.wave = s.wave
      ∧ s.wakeUp.mgmt = { s.mgmt with power := 0, parked := [] }
      ∧ (s.mgmt.parked = [] → s.wakeUp = stays s { s.mgmt with power := 0, parked := [] })
      ∧ ∀ x ∈ s.mgmt.parked, ∀ c ∈ s.allCores, c.num = x.1 → ∃ d ∈ s.wakeUp.allCores, d.num = x.1 ∧ x.2 ∈ d.waves)
  ∧ (∀ (s : State) (a : Nat) (bs : List Byte), isModule a = false →
      let p := s.mgmt.devno * 2 ^ 44 + a
      (s.busWrite a bs).mgmt = s.mgmt ∧ s.busRead a bs.length = s
      ∧ ∀ b, (s.busWrite a bs).rdByte b = if p ≤ b ∧ b < p + bs.length then bs.getD (b - p) 0 else s.rdByte b)
  ∧ (∀ (s : State) (a : Nat) (op : BusOp) (flag : Option (Nat × DWord)),
      (s.mgmt.paths.getD 8 0 = 2 → exec (.rdmaMessage a op flag) s = .next s)
      ∧ (s.Serving → s.mgmt.paths.getD 8 0 ≠ 2 → op ≠ .linkError → unassignedIn a (busSize op) = false →
        (∀ x, flag = some x → unassignedIn x.1 8 = false) →
        let k (t : State) : State := match flag with | none => t | some x => t.busWrite x.1 (bytesOf x.2.toNat 8)
        exec (.rdmaMessage a op flag) s = .next (ends s a op k)))
  ∧ (∀ (s : State) (port lanes : Nat),
      ((∃ x ∈ s.mgmt.halfPorts, x.1 = port) → exec (.portHalfWidth port lanes) s = .next s)
      ∧ ((∀ x ∈ s.mgmt.halfPorts, x.1 ≠ port) → exec (.portHalfWidth port lanes) s = .next
        ((stays s { s.mgmt with halfPorts := s.mgmt.halfPorts ++ [(port, lanes)] }).postEvent 4 0 (port % 65536))))
  ∧ (∀ (s : State) (dev : Nat), ∃ t, exec (.deviceLeavesDomain dev) s = .next t ∧ t.mem = s.mem
      ∧ (dev ≠ s.mgmt.devno → t.mgmt.left.contains dev = true)
      ∧ ∀ p, dev ≠ s.mgmt.devno → deviceOf p = dev → t.refusedAt p = some 0x001)

/-- 19 R355, R360 to R362, R366 to R371: the management window's registers keep what is written, and read, as R355
says; a report holds the nonce, the images that were verified and a signature by the identity key; the deepest state
that the tolerance allows is entered while the device is idle, the steward's waves saved for D2 and D3; a reset or a
power loss stops all work and keeps the journal; each boot step is journalled before and after it, an image that R368
does not accept fails its step, a failed primary path restarts the package, a failed fallback stops boot, and step 11
puts the device in service. That a boot step takes two steps, which path fails otherwise and when the port
controllers' images are verified are the model's reading (log 25, log 26); idleness is that of log 63, bootstat that
of log 67. -/
def Obligations.PackageEvents : Prop :=
  let stays (s : State) (m : Mgmt) : State := { s with mgmt := m }
  let accepted (kind : Nat) (img : List Byte) : Prop :=
    let part (off n : Nat) : List Byte := (img.drop off).take n
    let num (off n : Nat) : Nat := fromBytes (part off n)
    256 + num 8 8 ≤ img.length ∧ num 0 4 = 0x4957465A ∧ num 4 2 = kind ∧ num 251 5 = 0
    ∧ shake256 Config.keyDigest.length (part 16 57) = Config.keyDigest
    ∧ Config.ed448Verify (part 16 57) (part 0 137) (part 137 114) = true
    ∧ shake256 64 (part 256 (num 8 8)) = part 73 64 ∧ Config.minSvn kind ≤ num 6 2
  (∀ (s : State) (v : Word) (b : DWord),
      let u := s.wakeUp
      let m := u.mgmt
      exec (.powerControlWrite v) s = .next (stays u { m with tol := v.toNat % 2 ^ 28 })
      ∧ exec (.retryWrite v) s
          = .next (stays u (if 1 ≤ v.toNat ∧ v.toNat ≤ 11 then { m with retry := v.toNat } else m))
      ∧ exec (.evringConfigWrite true b) s = .next (stays u
          { m with evbaseW := b, evbase := if m.evtail = m.evhead then b else m.evbase
                   evcap := if m.evtail = m.evhead then m.evcapW else m.evcap })
      ∧ exec (.evringConfigWrite false b) s = .next (stays u
          { m with evcapW := b.truncate 32, evcap := if m.evtail = m.evhead then b.truncate 32 else m.evcap
                   evbase := if m.evtail = m.evhead then m.evbaseW else m.evbase })
      ∧ exec (.evheadWrite v) s = .next (stays u
          { m with evhead := v, evcap := if m.evtail = v then m.evcapW else m.evcap
                   evbase := if m.evtail = v then m.evbaseW else m.evbase }))
  ∧ (∀ (s : State) (v : Word), ∃ t, exec (.attestationRequest v) s = .next t ∧ t.mem = s.mem
      ∧ t.mgmt.attlen = v.toNat % 128 ∧ t.mgmt.nonce = s.mgmt.nonce
      ∧ (bit v.toNat 31 = false → t.mgmt.report = s.mgmt.report ∧ t.mgmt.attready = s.mgmt.attready)
      ∧ (bit v.toNat 31 = true → (v.toNat % 128 = 0 ∨ 64 < v.toNat % 128) →
        t.mgmt.attrefused = true ∧ t.mgmt.attready = false ∧ t.mgmt.report = s.mgmt.report)
      ∧ (bit v.toNat 31 = true → 1 ≤ v.toNat % 128 → v.toNat % 128 ≤ 64 → s.mgmt.verified ≠ [] →
        let rb (i : Nat) : Nat := (sget 0 t.mgmt.report i).toNat
        let n := v.toNat % 128
        let len := rb 0 + 256 * rb 1
        let sig := Config.ed448Sign s.mgmt.identity ((List.range (len - 114)).map (fun i => sget 0 t.mgmt.report i))
        t.mgmt.attready = true ∧ t.mgmt.attrefused = false
        ∧ rb 2 = n ∧ rb 3 = min 32 s.mgmt.verified.length ∧ len = 4 + n + 4 + 2 + 68 * rb 3 + 11 + 8 + 114
        ∧ (∀ i, i < n → sget 0 t.mgmt.report (4 + i) = sget 0 s.mgmt.nonce i)
        ∧ ∀ i, i < 114 → sget 0 t.mgmt.report (len - 114 + i) = sig.getD i 0))
  ∧ (∀ (s : State) (off : Nat) (bs : List Byte),
      ∃ t, exec (.mgmtRegisterWrite off (.write bs)) s = .next t ∧ t.mem = s.mem
      ∧ t = { s.wakeUp with mgmt := { s.wakeUp.mgmt with nonce := t.mgmt.nonce }, reply := some [] }
      ∧ ∀ i, i < 64 → sget 0 t.mgmt.nonce i
          = if off ≤ 0x140 + i
            ∧ 0x140 + i < off + bs.length then bs.getD (0x140 + i - off) 0 else sget 0 s.mgmt.nonce i)
  ∧ (∀ (s : State) (off n : Nat) (ty : AtomType) (o : AtomOp) (x y : DWord),
      exec (.mgmtRegisterWrite off (.read n)) s = .next
        { s.wakeUp with reply := some ((List.range n).map (fun i => s.wakeUp.mgmt.windowByte (off + i))) }
      ∧ exec (.mgmtRegisterWrite off (.atomic ty o x y)) s = .next { s.wakeUp with reply := none }
      ∧ exec (.mgmtRegisterWrite off .linkError) s = .next { s.wakeUp with reply := none })
  ∧ (∀ m : Mgmt,
      let w (o n : Nat) : Nat := fromBytes ((List.range n).map (fun i => m.windowByte (o + i)))
      w 0 4 = 0x4D47535A ∧ w 4 4 = 1 ∧ w 8 4 = m.devno % 2 ^ 32 ∧ w 0x0C 4 = m.bootseq.toNat
      ∧ (m.power < 4 → m.tol < 2 ^ 28 → w 0x40 4 = m.power * 2 ^ 30 + m.tol)
      ∧ (m.step < 16 → w 0x80 4 = match m.boot with
          | .booting => 0x40000000 + m.step
          | .inService => 0
          | .stopped => 0x80000000 + m.step)
      ∧ w 0x84 4 = m.retry % 2 ^ 32 ∧ w 0xC0 8 = m.evbaseW.toNat ∧ w 0xC8 4 = m.evcapW.toNat ∧ w 0xCC 4 = m.evhead.toNat
      ∧ w 0xD0 4 = m.evtail.toNat ∧ w 0xD4 4 = m.evlost.toNat
      ∧ (m.attlen < 128 → w 0x100 4 = m.attlen + (if m.attrefused then 2 ^ 29 else 0) + (if m.attready then 2 ^ 30 else 0))
      ∧ (∀ i, i < 64 → m.windowByte (0x140 + i) = sget 0 m.nonce i)
      ∧ (∀ i, i < 0xE00 → m.windowByte (0x200 + i) = sget 0 m.report i)
      ∧ ∀ a, ((0x10 ≤ a ∧ a < 0x40) ∨ (0x44 ≤ a ∧ a < 0x80) ∨ (0x88 ≤ a ∧ a < 0xC0) ∨ (0xD8 ≤ a ∧ a < 0x100)
          ∨ (0x104 ≤ a ∧ a < 0x140) ∨ (0x180 ≤ a ∧ a < 0x200)) → m.windowByte a = 0)
  ∧ (∀ (s : State) (d : BitVec 2) (k : Nat),
      let want : Nat := if s.mgmt.tol < 2 then 0 else if s.mgmt.tol < 40 then 1 else if s.mgmt.tol < 400 then 2 else 3
      (s.Serving → s.idle = true → d.toNat = want →
        (want < 2 → exec (.powerStateEnter d) s = .next (stays s { s.mgmt with power := want }))
        ∧ (2 ≤ want → ∃ t, exec (.powerStateEnter d) s = .next t ∧ t.mem = s.mem ∧ t.mgmt.power = want
          ∧ (∀ c ∈ t.allCores, ∀ w ∈ c.waves, w.steward = false) ∧ t.wave.steward = false
          ∧ (∀ c ∈ s.allCores, ∀ w ∈ c.waves, w.steward = true → (c.num, w) ∈ t.mgmt.parked)
          ∧ (s.wave.steward = true → s.wave.absent = false → (s.core.num, s.wave) ∈ t.mgmt.parked)))
      ∧ (¬ (s.Serving ∧ s.idle = true ∧ d.toNat = want) → exec (.powerStateEnter d) s = .next s)
      ∧ (s.mgmt.power ≠ 0 → s.Serving → s.agenda = [] → step s = .next { s with turn := s.turn + 1 })
      ∧ exec .powerWake s = .next s.wakeUp
      ∧ exec (.clockThrottle k) s = .next (stays s { s.mgmt with throttle := k }))
  ∧ (∀ (s : State) (v : Word),
      let t := s.coldStart
      exec (.resetWrite v) s = .next (if v = 0x52535421 then t else s.wakeUp)
      ∧ exec .powerLoss s = .next t
      ∧ t.mgmt.bootseq = s.mgmt.bootseq + 1 ∧ t.mgmt.journal = s.mgmt.journal
      ∧ t.mgmt.retryNow = s.mgmt.retry ∧ t.mgmt.retry = 0
      ∧ t.mgmt.boot = .booting ∧ t.mgmt.step = 1 ∧ t.mgmt.begun = none ∧ t.mgmt.tol = 0 ∧ t.mgmt.power = 0
      ∧ t.mgmt.verified = [] ∧ t.mgmt.identity = [] ∧ t.mgmt.secretLocked = false
      ∧ t.wave = {} ∧ (∀ c ∈ t.allCores, c.waves = [] ∧ c.mat = {}) ∧ t.groups = [] ∧ t.launches = [] ∧ t.contexts = []
      ∧ t.allCores.map (fun c => (c.num, c.enabled, c.retired))
          = s.allCores.map (fun c => (c.num, c.enabled, c.retired)))
  ∧ (∀ s : State, s.mgmt.boot = .booting →
      let m := s.mgmt
      let rec' (p o : Nat) (c : Word) : Journal :=
        { boot := m.bootseq.toNat, step := m.step, path := p, outcome := o, code := c }
      (m.begun = none →
        let failed : Bool := match (m.journal.filter (fun j => j.step == m.step && j.path == 0)).getLast? with
          | some j => j.outcome != 1
          | none => false
        let p : Nat := if m.step = 11 ∨ m.retryNow = m.step ∨ !failed then 0
          else if m.step = 6 ∨ m.step = 8 ∨ m.step = 9 then 2 else 1
        exec .boot s = .next (stays s { m with journal := m.journal ++ [rec' p 0 0], begun := some p }))
      ∧ (∀ p, m.begun = some p →
        let b := m.bootseq.toNat
        let fw : List (Nat × List Byte) :=
          if p = 2 then []
          else if m.step = 1 then [(1, Config.firmware b 1 p)]
          else if m.step = 10 then [(2, Config.firmware b 10 p)]
          else (Config.portImages b m.step p).map (fun x => (3, x))
        let fails (c : Word) : Prop := p ≠ 2 ∧
          (((∃ x ∈ fw, ¬ accepted x.1 x.2) ∧ c = Config.verifyCode)
            ∨ ((∀ x ∈ fw, accepted x.1 x.2) ∧ Config.bootFailure b m.step p = some c))
        let passes : Prop := p = 2 ∨ ((∀ x ∈ fw, accepted x.1 x.2) ∧ Config.bootFailure b m.step p = none)
        (passes → ∃ t, exec .boot s = .next t ∧ t.mgmt.journal = m.journal ++ [rec' p 1 0] ∧ t.mgmt.begun = none
          ∧ t.mgmt.paths = m.paths ++ [p]
          ∧ t.mgmt.verified = m.verified ++ fw.map (fun x =>
              { kind := x.1, svn := fromBytes ((x.2.drop 6).take 2), digest := (x.2.drop 73).take 64 })
          ∧ (m.step ≠ 11 → t.mgmt.boot = .booting ∧ t.mgmt.step = m.step + 1)
          ∧ (m.step = 11 → t.Serving)
          ∧ (m.step = 1 → p ≠ 2 → t.mgmt.secretLocked = true
              ∧ t.mgmt.identity = identitySeed (((Config.firmware b 1 p).drop 73).take 64))
          ∧ (m.step ≠ 1 → t.mgmt.identity = m.identity)
          ∧ (m.step = 6 → t.mgmt.tier1 = decide (p ≠ 2)))
        ∧ (∀ c, fails c → (p ≠ 0 ∨ m.step = 11) → exec .boot s = .next (stays s
            { m with journal := m.journal ++ [rec' p 2 c], begun := none, boot := .stopped }))
        ∧ (∀ c, fails c → p = 0 → m.step ≠ 11 →
          exec .boot s = .next (stays s { m with journal := m.journal ++ [rec' p 2 c] }).coldStart)))
  ∧ (∀ s : State, s.mgmt.boot ≠ .booting → exec .boot s = .next s)

/-! ### Words and instructions -/

/-- 02 R17 to R21, 03 R65 to R75, 10 R230: every instruction that is a word of the device has one, and the decoder reads
from that word the same instruction, with every operand at every value that the encoding admits. -/
def Obligations.DecodeOfEncode : Prop :=
  (∀ (i : Instr) (w : Word), i.wellFormed = true → encode i = some w → decodeWord w = .ok i)
  ∧ (∀ i : Instr, isEvent i = false → i.wellFormed = true → ∃ w, encode i = some w)
  ∧ (∀ i : Instr, isEvent i = true → encode i = none)

/-- 02 R20, R23 to R27, 03 R65: a word that the decoder reads is the word of one well-formed instruction: no bit of it
is ignored, and no two words are one instruction. -/
def Obligations.EncodeOfDecode : Prop :=
  ∀ (w : Word) (i : Instr), decodeWord w = .ok i → i.wellFormed = true ∧ isEvent i = false ∧ encode i = some w

/-- Words that the spec writes out, one or more of each family, with what they stand for (03, 05 to 08, 10, 11, 13,
14, 18, 20, 22, the tables of worked words). -/
def Obligations.DecodedWords : Prop :=
  decodeWord 0x040C1080 = .ok (.add 0 .vs 3 1 2)                                     -- ADD.i32 V3, V1, S2
  ∧ decodeWord 0x18083162 = .ok (.icmp 0 .vi .ltI 2 3 5)                             -- ICMP.lt.i32 P2, V3, 5
  ∧ decodeWord 0x1F041234 = .ok (.movl 3 1 0x1234)                                   -- MOVL V1, 0x1234 !3
  ∧ decodeWord 0x1C06FFFF = .ok (.addi 0 1 0xFFFF)                                   -- ADDI V1, -1
  ∧ decodeWord 0x40185001 = .ok (.frsq 0 6 5)                                        -- FRSQ.f32 V6, V5
  ∧ decodeWord 0x50081788 = .ok (.cvt 0 .bf16 .rne .f32 2 1)                         -- CVT.bf16.f32.rn V2, V1
  ∧ decodeWord 0x541C6280 = .ok (.qnt 0 7 6 10)                                      -- QNT V7, V6, S10
  ∧ decodeWord 0x640C1080 = .ok (.pand 0 3 1 2)                                      -- PAND P3, P1, P2
  ∧ decodeWord 0x641410A4 = .ok (.sel 0 4 5 1 2)                                     -- SEL V5, V1, V2, P4
  ∧ decodeWord 0x5C1C40C3 = .ok (.shflXor 0 7 4 3)                                   -- SHFL.xor V7, V4, S3
  ∧ decodeWord 0x60184011 = .ok (.xscanInc 0 .addF32 6 4)                            -- XSCAN.inc.add.f32 V6, V4
  ∧ decodeWord 0x68081000 = .ok (.width 0 2 1)                                       -- WIDTH S2, S1
  ∧ decodeWord 0x6D1041B0 = .ok (.ld 1 .n32 .device 4 1 ⟨false, 1⟩ 0)                -- LD.n32.dev V4, C1, V2 !1 &D0
  ∧ decodeWord 0x701882F5 = .ok (.store 0 .n64nt .system 6 2 ⟨false, 2⟩ 1)           -- ST.n64.nt.sys V6, C2, V4 &D1
  ∧ decodeWord 0x740E0300 = .ok (.vldN32 0 3 .own ⟨false, 3⟩ 0)                      -- VLD.n32 V3, VAT, V6
  ∧ decodeWord 0x74204514 = .ok (.vstCap 0 8 (.pos 1) ⟨false, 5⟩ 0)                  -- VST.cap Q2, VAT1, V10
  ∧ decodeWord 0x78210BA5 = .ok (.atom 0 .n64 .min .device 2 1 1 1)                  -- ATOM.n64.min.dev V8, C1, V2 &D1
  ∧ decodeWord 0x7C042144 = .ok (.ldaN32 0 .group 1 0 ⟨true, 1⟩ 0)                   -- LDA.n32.grp V1, C0, S2 &D0
  ∧ decodeWord 0x8030C2A2 = .ok (.gathN32 0 .device 12 3 ⟨false, 2⟩ 2)               -- GATH.n32.dev V12, Q3, V4 &D2
  ∧ decodeWord 0x8820A640 = .ok (.vmap 0 .group 8 2 6 0)                             -- VMAP.grp S8, C2, S12 &D0
  ∧ decodeWord 0x8C106301 = .ok (.mld 0 4 1 3 1)                                     -- MLD M4, C1, S6 &D1
  ∧ decodeWord 0x8C28C3AE = .ok (.kvset 0 .device 10 3 ⟨false, 3⟩ 2)                 -- KVSET.dev V10, C3, V6 &D2
  ∧ decodeWord 0x9016214C = .ok (.bwait 0 .group 5 .own ⟨true, 1⟩)                   -- BWAIT.grp V5, VAT, S2
  ∧ decodeWord 0x94100280 = .ok (.kick 0 4 10 false)                                 -- KICK S4, V10 &D4
  ∧ decodeWord 0x98200010 = .ok (.blendStat 0 2 true)                                -- BLEND.stat S8 &D5
  ∧ decodeWord 0x9C109200 = .ok (.rank 0 1 9 8 false)                                -- RANK V9, V8, S4 &D4
  ∧ decodeWord 0xA0300513 = .ok (.mma 0 6 0 20 true)                                 -- MMA T0, S12, V20 &D5
  ∧ decodeWord 0xA4581011 = .ok (.tmovVat 0 11 1 true)                               -- TMOV.vat T1, S22 &D5
  ∧ decodeWord 0xA820C0C0 = .ok (.relset 0 2 3 3 false)                              -- RELSET 3, C2, C3 &D4
  ∧ decodeWord 0xB0004002 = .ok (.callx 0 2)                                         -- CALLX V4
  ∧ decodeWord 0xB4220700 = .ok (.join 0 2 7)                                        -- JOIN P2, 7
  ∧ decodeWord 0xB8114303 = .ok (.launch 0 4 20 12)                                  -- LAUNCH P4, S20, V12
  ∧ decodeWord 0xBC000441 = .ok (.waitd 0 0x11)                                      -- WAITD D0+D4
  ∧ decodeWord 0xC0080021 = .ok (.srdCounter 0 2 .ctxcyc)                            -- SRD V2, CTXCYC
  ∧ decodeWord 0xC4140A80 = .ok (.trap 0 5 0x2A)                                     -- TRAP V5, 0x2A
  ∧ decodeWord 0xC8144180 = .ok (.tlbiPage 0 .device 2 6)                            -- TLBI.page.dev S4, S6
  -- bits 31:28 all 1 are a header's; majors 0x33 to 0x3B and a set must-be-zero field are refused by name
  ∧ decodeWord 0xF1A00000 = .error .headerShaped ∧ decodeWord 0xCC000000 = .error .unassignedMajor
  ∧ decodeWord 0xA0000006 = .error .unassignedMinor ∧ decodeWord 0xC4001001 = .error .mustBeZero

/-! ### The machine as a whole -/

/-- 02 R25 to R28, 09 R200, 18 R326: with nothing due from outside, a wave in service that may go on and stands inside
a clause takes the word there: the step is the meaning of the instruction that the word decodes to; between clauses it
decodes the next clause, whose header and words are those of memory at the clause's address. An event of the agenda is
taken when its time has come. The order of the device's agents is the model's (log 52). -/
def Obligations.StepRunsDecoded : Prop :=
  (∀ (s : State) (c : ClauseBuf) (i : Instr) (k : Nat),
      s.agenda = [] → s.Serving → s.mgmt.power = 0 → s.wave.dying = none → s.canGo = true → s.wave.cur = some c →
      c.addr < 2 ^ 48 → k < 15 → s.wave.pc = pc48 (c.addr + 4 * (k + 1)) → decodeWord (c.words.getD k 0) = .ok i →
        step s = exec i s)
  ∧ (∀ s : State, s.agenda = [] → s.Serving → s.mgmt.power = 0 → s.wave.dying = none → s.canGo = true →
    s.wave.cur = none →
      s.wave.choosePc.isSome = true → step s = exec .clauseDecode s)
  ∧ (∀ (s : State) (l h : Nat) (c : ClauseBuf) (d : Header), s.findClause l h = .clause c d →
      c.addr = h ∧ c.hdr = s.codeWord h ∧ isHeader c.hdr = true ∧ decodeHeader c.hdr = .ok d
      ∧ c.words.length = d.count
      ∧ ∀ k, k < d.count → c.words.getD k 0 = s.codeWord (h + 4 * (k + 1)) ∧ ∃ i, decodeWord (c.words.getD k 0) = .ok i)
  ∧ (∀ (s : State) (a : Nat), s.core.icache = [] →
      s.codeWord a = BitVec.ofNat 32 (fromBytes ((List.range 4).map (fun i => s.rdByte (s.physOf (a + i) .fetch)))))
  ∧ (∀ (s : State) (e : Instr) (es : List (Nat × Instr)), s.agenda = (0, e) :: es → isEvent e = true →
      ((s.mgmt.power = 0 ∨ rowKind e = .outside) → step s = exec e { s with agenda := es })
      ∧ (s.mgmt.power ≠ 0 → rowKind e ≠ .outside → step s = .next { s with agenda := es }))
  ∧ (∀ s : State, s.agenda = [] → s.mgmt.boot = .booting → step s = exec .boot s)

/-- 00 R2, 18 R318 and the model's form of memory: every step that answers a next state keeps memory in canonical
form. -/
def Obligations.MemWfStep : Prop :=
  ∀ s t : State, step s = .next t → s.MemWf → t.MemWf

/-- 19 R355, R366, 01 R9: right after reset boot step 1 is to be run, the management window's registers read what R355
gives them, 192 cores are present, no wave, launch or context exists, and memory is in canonical form. That no wave
stands at the issue port at reset is the model's choice (log 3). -/
def Obligations.ResetState : Prop :=
  let s := State.reset
  s.MemWf ∧ s.mgmt.boot = .booting ∧ s.mgmt.step = 1 ∧ s.mgmt.begun = none ∧ s.mgmt.journal = []
    ∧ s.mgmt.retry = 0 ∧ s.mgmt.retryNow = 0
  ∧ s.mgmt.verified = [] ∧ s.mgmt.secretLocked = false ∧ s.mgmt.identity = []
  ∧ s.mgmt.tol = 0 ∧ s.mgmt.power = 0 ∧ s.mgmt.devno = 0 ∧ s.mgmt.evbase = 0
  ∧ s.allCores.map (fun c => c.num) = List.range 192
  ∧ (∀ c ∈ s.allCores, c.enabled = true ∧ c.retired = none ∧ c.waves = [] ∧ c.arrayQ = [] ∧ c.bins = []
  ∧ c.preempt = .none)
  ∧ s.wave.anyActive = false ∧ s.groups = [] ∧ s.launches = [] ∧ s.contexts = [] ∧ s.moves = [] ∧ s.agenda = []
  ∧ ∃ t, step s = .next t ∧ t.mgmt.begun = some 0
end

