-- ==== Sys2Proof/Laws/IntOps.lean ====
section
/-!
SUPPORT. Sys2Proof/Laws/IntOps.lean: the integer results of 05 R101 as the plain operations on 32-bit patterns.
-/

namespace Sys2Proof.Machine

open Sys2Proof

theorem shlOp_eq (x y : Word) : shlOp x y = x <<< (y.toNat % 32) := by
  apply BitVec.eq_of_toNat_eq
  simp [shlOp, w32, shiftCount, BitVec.toNat_shiftLeft, Nat.shiftLeft_eq]

theorem shrOp_eq (x y : Word) : shrOp x y = x >>> (y.toNat % 32) := by
  apply BitVec.eq_of_toNat_eq
  have : x.toNat / 2 ^ (y.toNat % 32) < 2 ^ 32 := Nat.lt_of_le_of_lt (Nat.div_le_self _ _) x.isLt
  simp only [shrOp, w32, shiftCount, BitVec.toNat_ofNat, BitVec.toNat_ushiftRight, Nat.shiftRight_eq_div_pow]
  exact Nat.mod_eq_of_lt this

theorem sarOp_eq (x y : Word) : sarOp x y = x.sshiftRight (y.toNat % 32) := by
  simp only [sarOp, i32, shiftCount, BitVec.sshiftRight, Int.shiftRight_eq_div_pow]

theorem rolOp_eq (x y : Word) : rolOp x y = x.rotateLeft (y.toNat % 32) := by
  have h : y.toNat % 32 < 32 := Nat.mod_lt _ (by decide)
  have e1 : w32 (x.toNat * 2 ^ (y.toNat % 32)) = x <<< (y.toNat % 32) := shlOp_eq x y
  have e2 : w32 (x.toNat / 2 ^ (32 - y.toNat % 32)) = x >>> (32 - y.toNat % 32) := by
    apply BitVec.eq_of_toNat_eq
    have : x.toNat / 2 ^ (32 - y.toNat % 32) < 2 ^ 32 := Nat.lt_of_le_of_lt (Nat.div_le_self _ _) x.isLt
    simp only [w32, BitVec.toNat_ofNat, BitVec.toNat_ushiftRight, Nat.shiftRight_eq_div_pow]
    exact Nat.mod_eq_of_lt this
  unfold rolOp shiftCount
  rw [e1, e2]
  simp only [BitVec.rotateLeft, BitVec.rotateLeftAux, Nat.mod_eq_of_lt h]

theorem mulhS_eq (x y : Word) : mulhS x y = BitVec.ofInt 32 (x.toInt * y.toInt / 2 ^ 32) := by
  apply BitVec.eq_of_toNat_eq
  simp only [mulhS, wrapI, w32, BitVec.toNat_ofNat, BitVec.toNat_ofInt]
  generalize x.toInt * y.toInt = p
  omega

theorem minS_eq (x y : Word) : minS x y = if x.toInt < y.toInt then x else y := by
  unfold minS
  by_cases h : x.toInt < y.toInt
  · simp [h, Int.le_of_lt h]
  · by_cases h2 : x.toInt ≤ y.toInt
    · have : x = y := BitVec.eq_of_toInt_eq (by omega)
      simp [this]
    · simp [h, h2]

theorem maxS_eq (x y : Word) : maxS x y = if x.toInt < y.toInt then y else x := by
  unfold maxS
  by_cases h : x.toInt < y.toInt
  · simp [h, Int.le_of_lt h]
  · by_cases h2 : x.toInt ≤ y.toInt
    · have : x = y := BitVec.eq_of_toInt_eq (by omega)
      simp [this]
    · simp [h, h2]

theorem minU_eq (x y : Word) : minU x y = if x < y then x else y := by
  unfold minU
  simp only [BitVec.lt_def]
  by_cases h : x.toNat < y.toNat
  · simp [h, Nat.le_of_lt h]
  · by_cases h2 : x.toNat ≤ y.toNat
    · have : x = y := BitVec.eq_of_toNat_eq (by omega)
      simp [this]
    · simp [h, h2]

theorem maxU_eq (x y : Word) : maxU x y = if x < y then y else x := by
  unfold maxU
  simp only [BitVec.lt_def]
  by_cases h : x.toNat < y.toNat
  · simp [h, Nat.le_of_lt h]
  · by_cases h2 : x.toNat ≤ y.toNat
    · have : x = y := BitVec.eq_of_toNat_eq (by omega)
      simp [this]
    · simp [h, h2]

theorem bit_eq (x : Word) (i : Nat) : bit x.toNat i = x.getLsbD i := by
  simp only [bit, BitVec.getLsbD, Nat.testBit_eq_decide_div_mod_eq]
  by_cases h : x.toNat / 2 ^ i % 2 = 1 <;> simp [h]


theorem brevGo (x : Word) (n : Nat) : ∀ j, ((List.range n).foldl (fun acc i => acc * 2 + b2n (bit x.toNat i)) 0).testBit j = (decide (j < n) && x.getLsbD (n - 1 - j)) := by
  induction n with
  | zero => intro j; simp
  | succ n ih =>
    intro j
    rw [List.range_succ, List.foldl_append]
    simp only [List.foldl_cons, List.foldl_nil]
    generalize hA : (List.range n).foldl (fun acc i => acc * 2 + b2n (bit x.toNat i)) 0 = A at ih
    have hb : b2n (bit x.toNat n) < 2 := by unfold b2n; split <;> decide
    rw [Nat.mul_comm A 2]
    cases j with
    | zero =>
      simp only [Nat.testBit_zero, bit_eq, b2n]
      cases hx : x.getLsbD n <;> simp [hx]
    | succ j =>
      have : (2 * A + b2n (bit x.toNat n)).testBit (j+1) = A.testBit j := by
        rw [Nat.testBit_succ]; congr 1; omega
      rw [this, ih j]
      have e : n + 1 - 1 - (j + 1) = n - 1 - j := by omega
      rw [e]
      by_cases h2 : j < n <;> simp [h2]

theorem brevOp_eq (x : Word) : brevOp x = x.reverse := by
  apply BitVec.eq_of_getLsbD_eq
  intro i hi
  have := brevGo x 32 i
  simp only [brevOp, w32, BitVec.getLsbD_ofNat, this, BitVec.getLsbD_reverse, BitVec.getMsbD]
  simp [hi]

theorem clzOp_eq (x : Word) : clzOp x = x.clz := by
  unfold clzOp
  by_cases h : x = 0
  · simp only [h, if_true]; decide
  · simp only [h, if_false]
    have h1 := BitVec.two_pow_sub_clz_le_toNat_of_ne_zero (w := 32) (x := x) (by decide) h
    have h2 := BitVec.toNat_lt_two_pow_sub_clz (w := 32) (x := x)
    have h3 : x.clz < (32 : Nat) := BitVec.clz_lt_iff_ne_zero.mpr h
    have h4 : x.clz.toNat < 32 := by simpa [BitVec.lt_def] using h3
    have h5 : x.toNat ≠ 0 := fun e => h (BitVec.eq_of_toNat_eq e)
    have h6 : x.toNat.log2 = 31 - x.clz.toNat := by
      apply (Nat.log2_eq_iff h5).mpr
      have e : 31 - x.clz.toNat + 1 = 32 - x.clz.toNat := by omega
      have e' : 32 - 1 - x.clz.toNat = 31 - x.clz.toNat := by omega
      rw [e]; rw [e'] at h1; exact ⟨h1, h2⟩
    apply BitVec.eq_of_toNat_eq
    simp only [w32, BitVec.toNat_ofNat, h6]
    omega

theorem popGo (x : Word) (n acc : Nat) : x.cpopNatRec n acc = acc + (List.range n).countP (fun i => bit x.toNat i) := by
  induction n generalizing acc with
  | zero => simp [BitVec.cpopNatRec]
  | succ n ih =>
    rw [BitVec.cpopNatRec_succ, ih, List.range_succ, List.countP_append]
    simp only [List.countP_cons, List.countP_nil, bit_eq]
    cases x.getLsbD n <;> simp <;> omega

theorem popcOp_eq (x : Word) : popcOp x = x.cpop := by
  simp only [popcOp, w32, BitVec.cpop, popGo, Nat.zero_add]

end Sys2Proof.Machine
end

