-- ==== Sys2Proof/Laws/Maps.lean ====
section
/-!
SUPPORT. Sys2Proof/Laws/Maps.lean: what the sparse maps do: reading what was written, leaving every other key
alone, and keeping the canonical form.
-/

namespace Sys2Proof.Machine

open Sys2Proof

variable {β : Type}

@[simp] theorem sget_nil (dflt : β) (a : Nat) : sget dflt [] a = dflt := rfl

theorem sget_cons (dflt : β) (k : Nat) (v : β) (m : List (Nat × β)) (a : Nat) :
    sget dflt ((k, v) :: m) a = if k = a then v else sget dflt m a := rfl

/-- Reading after a listing. -/
theorem sget_sins (dflt : β) (m : List (Nat × β)) (a b : Nat) (v : β) :
    sget dflt (sins m a v) b = if a = b then v else sget dflt m b := by
  induction m with
  | nil => simp [sins, sget_cons]
  | cons x m ih =>
    obtain ⟨k, w⟩ := x
    by_cases h1 : k = a
    · subst h1
      by_cases h : k = b <;> simp [sins, sget_cons, h]
    · by_cases h2 : a < k
      · simp [sins, h1, h2, sget_cons]
      · simp only [sins, h1, h2, if_false, sget_cons, ih]
        by_cases h3 : k = b
        · subst h3
          simp [Ne.symm h1]
        · simp [h3]

/-- Reading after a removal. -/
theorem sget_sdel (dflt : β) (m : List (Nat × β)) (a b : Nat) :
    sget dflt (sdel m a) b = if a = b then dflt else sget dflt m b := by
  induction m with
  | nil => simp [sdel]
  | cons x m ih =>
    obtain ⟨k, w⟩ := x
    by_cases h1 : k = a
    · subst h1
      simp only [sdel, if_true, ih, sget_cons]
      by_cases h : k = b <;> simp [h]
    · simp only [sdel, h1, if_false, sget_cons, ih]
      by_cases h3 : k = b
      · subst h3
        simp [Ne.symm h1]
      · simp [h3]

/-- Reading after a write: the value written at its key, every other key as before. -/
theorem sget_sput [DecidableEq β] (dflt : β) (m : List (Nat × β)) (a b : Nat) (v : β) :
    sget dflt (sput dflt m a v) b = if a = b then v else sget dflt m b := by
  unfold sput
  split
  · next h => subst h; exact sget_sdel v m a b
  · exact sget_sins dflt m a b v

@[simp] theorem sget_sput_self [DecidableEq β] (dflt : β) (m : List (Nat × β)) (a : Nat) (v : β) :
    sget dflt (sput dflt m a v) a = v := by simp [sget_sput]

theorem sget_sput_of_ne [DecidableEq β] (dflt : β) (m : List (Nat × β)) {a b : Nat} (v : β)
    (h : a ≠ b) : sget dflt (sput dflt m a v) b = sget dflt m b := by simp [sget_sput, h]

/-! ### The canonical form -/

section Canonical

variable [DecidableEq β] {dflt : β}

theorem swfFrom_mono {m : List (Nat × β)} {lo lo' : Nat} (h : swfFrom dflt lo m = true)
    (hl : lo' ≤ lo) : swfFrom dflt lo' m = true := by
  cases m with
  | nil => rfl
  | cons x m =>
    obtain ⟨k, v⟩ := x
    simp only [swfFrom, Bool.and_eq_true, decide_eq_true_eq] at h ⊢
    exact ⟨⟨Nat.le_trans hl h.1.1, h.1.2⟩, h.2⟩

theorem swfFrom_sins {m : List (Nat × β)} {lo a : Nat} {v : β} (h : swfFrom dflt lo m = true)
    (ha : lo ≤ a) (hv : v ≠ dflt) : swfFrom dflt lo (sins m a v) = true := by
  induction m generalizing lo with
  | nil => simp [sins, swfFrom, ha, hv]
  | cons x m ih =>
    obtain ⟨k, w⟩ := x
    simp only [swfFrom, Bool.and_eq_true, decide_eq_true_eq] at h
    by_cases h1 : k = a
    · subst h1
      simp [sins, swfFrom, ha, hv, h.2]
    · by_cases h2 : a < k
      · simp only [sins, h1, h2, if_false, if_true, swfFrom, Bool.and_eq_true, decide_eq_true_eq]
        exact ⟨⟨ha, hv⟩, ⟨h2, h.1.2⟩, h.2⟩
      · simp only [sins, h1, h2, if_false, swfFrom, Bool.and_eq_true, decide_eq_true_eq]
        exact ⟨h.1, ih h.2 (by omega)⟩

theorem swfFrom_sdel {m : List (Nat × β)} {lo : Nat} (a : Nat) (h : swfFrom dflt lo m = true) :
    swfFrom dflt lo (sdel m a) = true := by
  induction m generalizing lo with
  | nil => rfl
  | cons x m ih =>
    obtain ⟨k, w⟩ := x
    simp only [swfFrom, Bool.and_eq_true, decide_eq_true_eq] at h
    by_cases h1 : k = a
    · simp only [sdel, h1, if_true]
      exact swfFrom_mono (ih h.2) (by omega)
    · simp only [sdel, h1, if_false, swfFrom, Bool.and_eq_true, decide_eq_true_eq]
      exact ⟨h.1, ih h.2⟩

/-- A write keeps the canonical form. -/
theorem swf_sput {m : List (Nat × β)} (a : Nat) (v : β) (h : swf dflt m = true) :
    swf dflt (sput dflt m a v) = true := by
  unfold sput swf at *
  split
  · exact swfFrom_sdel a h
  · next hv => exact swfFrom_sins h (Nat.zero_le a) hv

/-- Dropping entries keeps the canonical form. -/
theorem swfFrom_filter {m : List (Nat × β)} {lo : Nat} (p : Nat × β → Bool)
    (h : swfFrom dflt lo m = true) : swfFrom dflt lo (m.filter p) = true := by
  induction m generalizing lo with
  | nil => rfl
  | cons x m ih =>
    obtain ⟨k, w⟩ := x
    simp only [swfFrom, Bool.and_eq_true, decide_eq_true_eq] at h
    by_cases hp : p (k, w) = true
    · simp only [List.filter_cons, hp, if_true, swfFrom, Bool.and_eq_true, decide_eq_true_eq]
      exact ⟨h.1, ih h.2⟩
    · simp only [List.filter_cons, hp]
      exact swfFrom_mono (ih h.2) (by omega)

theorem swf_filter {m : List (Nat × β)} (p : Nat × β → Bool) (h : swf dflt m = true) :
    swf dflt (m.filter p) = true := swfFrom_filter p h

theorem swf_sclear {m : List (Nat × β)} (lo n : Nat) (h : swf dflt m = true) :
    swf dflt (sclear m lo n) = true := swf_filter _ h

end Canonical

/-! ### Bytes -/

theorem bytesOf_length (v n : Nat) : (bytesOf v n).length = n := by
  induction n generalizing v with
  | zero => rfl
  | succ n ih => simp [bytesOf, ih]

/-- A number survives its own bytes. -/
theorem fromBytes_bytesOf (v n : Nat) : fromBytes (bytesOf v n) = v % 256 ^ n := by
  induction n generalizing v with
  | zero => simp [bytesOf, fromBytes, Nat.mod_one]
  | succ n ih =>
    have h : v % (256 * 256 ^ n) = v % 256 + 256 * (v / 256 % 256 ^ n) := Nat.mod_mul
    have e : 256 ^ (n + 1) = 256 * 256 ^ n := by rw [Nat.pow_succ, Nat.mul_comm]
    have t : (BitVec.ofNat 8 v).toNat = v % 256 := BitVec.toNat_ofNat v 8
    rw [bytesOf, fromBytes, ih, t, e, h]

/-- A byte of memory after a run of bytes is written: the byte of the run, or what it was. -/
theorem sget_putBytes (m : Memory) (a b : Nat) (bs : List Byte) :
    sget 0 (putBytes m a bs) b
      = if a ≤ b ∧ b < a + bs.length then bs.getD (b - a) 0 else sget 0 m b := by
  induction bs generalizing m a with
  | nil =>
    have : ¬ (a ≤ b ∧ b < a) := by omega
    simp [putBytes, this]
  | cons x bs ih =>
    simp only [putBytes, ih, sget_sput, List.length_cons]
    by_cases h1 : a = b
    · subst h1
      have h2 : ¬ (a + 1 ≤ a ∧ a < a + 1 + bs.length) := by omega
      simp [h2]
    · by_cases h3 : a + 1 ≤ b ∧ b < a + 1 + bs.length
      · have h4 : a ≤ b ∧ b < a + (bs.length + 1) := by omega
        obtain ⟨n, rfl⟩ : ∃ n, b = a + 1 + n := ⟨b - (a + 1), by omega⟩
        have e1 : a + 1 + n - (a + 1) = n := by omega
        have e2 : a + 1 + n - a = n + 1 := by omega
        rw [if_pos h3, if_pos h4, e1, e2, List.getD_cons_succ]
      · have h4 : ¬ (a ≤ b ∧ b < a + (bs.length + 1)) := by omega
        rw [if_neg h3, if_neg h4]
        simp [h1]

/-- Writing bytes keeps the canonical form of memory. -/
theorem swf_putBytes {m : Memory} (a : Nat) (bs : List Byte) (h : swf 0 m = true) :
    swf 0 (putBytes m a bs) = true := by
  induction bs generalizing m a with
  | nil => exact h
  | cons x bs ih => exact ih _ (swf_sput a x h)

/-- Folding writes keeps the canonical form. -/
theorem swf_foldl_sput {α : Type} (f : α → Nat) (g : α → Byte) (xs : List α) {m : Memory}
    (h : swf 0 m = true) : swf 0 (xs.foldl (fun m x => sput 0 m (f x) (g x)) m) = true := by
  induction xs generalizing m with
  | nil => exact h
  | cons x xs ih => exact ih (swf_sput _ _ h)

/-! ### Runs of bytes -/

/-- A list with every key below another's floor goes before it. -/
theorem swfFrom_append {xs ys : Memory} {lo b : Nat} (h1 : swfFrom 0 lo xs = true)
    (hk : ∀ c ∈ xs, c.1 < b) (hl : lo ≤ b) (h2 : swfFrom 0 b ys = true) : swfFrom 0 lo (xs ++ ys) = true := by
  induction xs generalizing lo with
  | nil => exact swfFrom_mono h2 hl
  | cons x xs ih =>
    obtain ⟨k, w⟩ := x
    simp only [swfFrom, Bool.and_eq_true, decide_eq_true_eq, List.cons_append] at *
    exact ⟨h1.1, ih h1.2 (fun c hc => hk c (List.mem_cons_of_mem _ hc)) (hk (k, w) List.mem_cons_self)⟩

/-- The entries at or above a floor are canonical from it on. -/
theorem swfFrom_above {m : Memory} {lo : Nat} (b : Nat) (h : swfFrom 0 lo m = true) :
    swfFrom 0 b (m.filter (fun c => decide (b ≤ c.1))) = true := by
  induction m generalizing lo with
  | nil => rfl
  | cons x m ih =>
    obtain ⟨k, w⟩ := x
    simp only [swfFrom, Bool.and_eq_true, decide_eq_true_eq] at h
    by_cases hb : b ≤ k
    · simp only [List.filter_cons, hb, decide_true, if_true, swfFrom, Bool.and_eq_true, decide_eq_true_eq]
      exact ⟨⟨trivial, h.1.2⟩, swfFrom_filter _ h.2⟩
    · simp only [List.filter_cons, hb, decide_false]
      exact ih h.2

/-- Above every listed key a map reads as the default. -/
theorem sget_above (dflt : β) (m : List (Nat × β)) (a : Nat) (h : ∀ c ∈ m, c.1 < a) : sget dflt m a = dflt := by
  induction m with
  | nil => rfl
  | cons x m ih =>
    rw [sget_cons, if_neg (Nat.ne_of_lt (h x List.mem_cons_self))]
    exact ih (fun c hc => h c (List.mem_cons_of_mem _ hc))

/-- A module-tier unit above every byte of memory listed, with no tag listed, holds the tag of its bytes. -/
theorem State.unitHolds_zero (s : State) (u : Nat) (ht : s.unitTags = []) (hm : ∀ c ∈ s.mem, c.1 < u * 4096) :
    s.unitHolds u = s.tagOf u := by
  have hz : s.rdBytes (u * 4096) 4096 = List.replicate 4096 0 := by
    rw [List.eq_replicate_iff]
    refine ⟨by simp [State.rdBytes], fun b hb => ?_⟩
    obtain ⟨i, -, rfl⟩ := List.mem_map.mp hb
    exact sget_above _ _ _ (fun c hc => Nat.lt_of_lt_of_le (hm c hc) (Nat.le_add_right _ _))
  rw [State.unitHolds, State.tagOf, ht, hz, sget_nil]

/-- The entries of a run: canonical from its address on, all of them below its end. -/
theorem runCells_wf (a : Nat) (bs : List Byte) :
    swfFrom 0 a (runCells a bs) = true ∧ ∀ c ∈ runCells a bs, a ≤ c.1 ∧ c.1 < a + bs.length := by
  induction bs generalizing a with
  | nil => exact ⟨rfl, fun c hc => absurd hc List.not_mem_nil⟩
  | cons x bs ih =>
    have ⟨h1, h2⟩ := ih (a + 1)
    by_cases hx : x = 0
    · simp only [runCells, hx, if_true, List.length_cons]
      exact ⟨swfFrom_mono h1 (Nat.le_succ a), fun c hc => by have := h2 c hc; omega⟩
    · simp only [runCells, hx, if_false, List.length_cons]
      refine ⟨by simpa [swfFrom] using And.intro hx h1, fun c hc => ?_⟩
      rcases List.mem_cons.mp hc with rfl | hc
      · exact ⟨Nat.le_refl _, by simp⟩
      · have := h2 c hc; omega

/-- Writing a run keeps the canonical form of memory. -/
theorem swf_putRun {m : Memory} (a : Nat) (bs : List Byte) (h : swf 0 m = true) : swf 0 (putRun m a bs) = true := by
  have ⟨h1, h2⟩ := runCells_wf a bs
  unfold putRun swf at *
  refine swfFrom_append (swfFrom_filter _ h) (b := a) (fun c hc => ?_) (Nat.zero_le a) ?_
  · simpa using (List.mem_filter.mp hc).2
  · exact swfFrom_append h1 (fun c hc => (h2 c hc).2) (Nat.le_add_right a bs.length) (swfFrom_above _ h)

end Sys2Proof.Machine
end

