-- ==== Sys2Proof/Laws/State.lean ====
section
/-!
SUPPORT. Sys2Proof/Laws/State.lean: what each update of the state and of the issuing wave leaves in each field,
so that no later proof unfolds a record update.
-/

namespace Sys2Proof.Machine

open Sys2Proof

/-! ### Updates of the state -/

@[simp] theorem State.setWave_wave (s : State) (w : Wave) :
    (s.setWave w).wave = w := rfl

@[simp] theorem State.setWave_core (s : State) (w : Wave) :
    (s.setWave w).core = s.core := rfl

@[simp] theorem State.setWave_cores (s : State) (w : Wave) :
    (s.setWave w).cores = s.cores := rfl

@[simp] theorem State.setWave_clusters (s : State) (w : Wave) :
    (s.setWave w).clusters = s.clusters := rfl

@[simp] theorem State.setWave_dies (s : State) (w : Wave) :
    (s.setWave w).dies = s.dies := rfl

@[simp] theorem State.setWave_groups (s : State) (w : Wave) :
    (s.setWave w).groups = s.groups := rfl

@[simp] theorem State.setWave_launches (s : State) (w : Wave) :
    (s.setWave w).launches = s.launches := rfl

@[simp] theorem State.setWave_contexts (s : State) (w : Wave) :
    (s.setWave w).contexts = s.contexts := rfl

@[simp] theorem State.setWave_moves (s : State) (w : Wave) :
    (s.setWave w).moves = s.moves := rfl

@[simp] theorem State.setWave_losses (s : State) (w : Wave) :
    (s.setWave w).losses = s.losses := rfl

@[simp] theorem State.setWave_mem (s : State) (w : Wave) :
    (s.setWave w).mem = s.mem := rfl

@[simp] theorem State.setWave_unitTags (s : State) (w : Wave) :
    (s.setWave w).unitTags = s.unitTags := rfl

@[simp] theorem State.setWave_badUnits (s : State) (w : Wave) :
    (s.setWave w).badUnits = s.badUnits := rfl

@[simp] theorem State.setWave_deadUnits (s : State) (w : Wave) :
    (s.setWave w).deadUnits = s.deadUnits := rfl

@[simp] theorem State.setWave_retried (s : State) (w : Wave) :
    (s.setWave w).retried = s.retried := rfl

@[simp] theorem State.setWave_refuseNext (s : State) (w : Wave) :
    (s.setWave w).refuseNext = s.refuseNext := rfl

@[simp] theorem State.setWave_mgmt (s : State) (w : Wave) :
    (s.setWave w).mgmt = s.mgmt := rfl

@[simp] theorem State.setWave_agenda (s : State) (w : Wave) :
    (s.setWave w).agenda = s.agenda := rfl

@[simp] theorem State.setWave_turn (s : State) (w : Wave) :
    (s.setWave w).turn = s.turn := rfl

@[simp] theorem State.setWave_fresh (s : State) (w : Wave) :
    (s.setWave w).fresh = s.fresh := rfl

@[simp] theorem State.setWave_nextWid (s : State) (w : Wave) :
    (s.setWave w).nextWid = s.nextWid := rfl

@[simp] theorem State.setWave_nextGroup (s : State) (w : Wave) :
    (s.setWave w).nextGroup = s.nextGroup := rfl

@[simp] theorem State.setWave_nextLaunch (s : State) (w : Wave) :
    (s.setWave w).nextLaunch = s.nextLaunch := rfl

@[simp] theorem State.setWave_nextRes (s : State) (w : Wave) :
    (s.setWave w).nextRes = s.nextRes := rfl

@[simp] theorem State.setWave_heap (s : State) (w : Wave) :
    (s.setWave w).heap = s.heap := rfl

@[simp] theorem State.setWave_classRot (s : State) (w : Wave) :
    (s.setWave w).classRot = s.classRot := rfl

@[simp] theorem State.setWave_reply (s : State) (w : Wave) :
    (s.setWave w).reply = s.reply := rfl

@[simp] theorem State.onWave_wave (s : State) (f : Wave → Wave) :
    (s.onWave f).wave = f s.wave := rfl

@[simp] theorem State.onWave_core (s : State) (f : Wave → Wave) :
    (s.onWave f).core = s.core := rfl

@[simp] theorem State.onWave_cores (s : State) (f : Wave → Wave) :
    (s.onWave f).cores = s.cores := rfl

@[simp] theorem State.onWave_clusters (s : State) (f : Wave → Wave) :
    (s.onWave f).clusters = s.clusters := rfl

@[simp] theorem State.onWave_dies (s : State) (f : Wave → Wave) :
    (s.onWave f).dies = s.dies := rfl

@[simp] theorem State.onWave_groups (s : State) (f : Wave → Wave) :
    (s.onWave f).groups = s.groups := rfl

@[simp] theorem State.onWave_launches (s : State) (f : Wave → Wave) :
    (s.onWave f).launches = s.launches := rfl

@[simp] theorem State.onWave_contexts (s : State) (f : Wave → Wave) :
    (s.onWave f).contexts = s.contexts := rfl

@[simp] theorem State.onWave_moves (s : State) (f : Wave → Wave) :
    (s.onWave f).moves = s.moves := rfl

@[simp] theorem State.onWave_losses (s : State) (f : Wave → Wave) :
    (s.onWave f).losses = s.losses := rfl

@[simp] theorem State.onWave_mem (s : State) (f : Wave → Wave) :
    (s.onWave f).mem = s.mem := rfl

@[simp] theorem State.onWave_unitTags (s : State) (f : Wave → Wave) :
    (s.onWave f).unitTags = s.unitTags := rfl

@[simp] theorem State.onWave_badUnits (s : State) (f : Wave → Wave) :
    (s.onWave f).badUnits = s.badUnits := rfl

@[simp] theorem State.onWave_deadUnits (s : State) (f : Wave → Wave) :
    (s.onWave f).deadUnits = s.deadUnits := rfl

@[simp] theorem State.onWave_retried (s : State) (f : Wave → Wave) :
    (s.onWave f).retried = s.retried := rfl

@[simp] theorem State.onWave_refuseNext (s : State) (f : Wave → Wave) :
    (s.onWave f).refuseNext = s.refuseNext := rfl

@[simp] theorem State.onWave_mgmt (s : State) (f : Wave → Wave) :
    (s.onWave f).mgmt = s.mgmt := rfl

@[simp] theorem State.onWave_agenda (s : State) (f : Wave → Wave) :
    (s.onWave f).agenda = s.agenda := rfl

@[simp] theorem State.onWave_turn (s : State) (f : Wave → Wave) :
    (s.onWave f).turn = s.turn := rfl

@[simp] theorem State.onWave_fresh (s : State) (f : Wave → Wave) :
    (s.onWave f).fresh = s.fresh := rfl

@[simp] theorem State.onWave_nextWid (s : State) (f : Wave → Wave) :
    (s.onWave f).nextWid = s.nextWid := rfl

@[simp] theorem State.onWave_nextGroup (s : State) (f : Wave → Wave) :
    (s.onWave f).nextGroup = s.nextGroup := rfl

@[simp] theorem State.onWave_nextLaunch (s : State) (f : Wave → Wave) :
    (s.onWave f).nextLaunch = s.nextLaunch := rfl

@[simp] theorem State.onWave_nextRes (s : State) (f : Wave → Wave) :
    (s.onWave f).nextRes = s.nextRes := rfl

@[simp] theorem State.onWave_heap (s : State) (f : Wave → Wave) :
    (s.onWave f).heap = s.heap := rfl

@[simp] theorem State.onWave_classRot (s : State) (f : Wave → Wave) :
    (s.onWave f).classRot = s.classRot := rfl

@[simp] theorem State.onWave_reply (s : State) (f : Wave → Wave) :
    (s.onWave f).reply = s.reply := rfl

@[simp] theorem State.onCore_wave (s : State) (f : Core → Core) :
    (s.onCore f).wave = s.wave := rfl

@[simp] theorem State.onCore_core (s : State) (f : Core → Core) :
    (s.onCore f).core = f s.core := rfl

@[simp] theorem State.onCore_cores (s : State) (f : Core → Core) :
    (s.onCore f).cores = s.cores := rfl

@[simp] theorem State.onCore_clusters (s : State) (f : Core → Core) :
    (s.onCore f).clusters = s.clusters := rfl

@[simp] theorem State.onCore_dies (s : State) (f : Core → Core) :
    (s.onCore f).dies = s.dies := rfl

@[simp] theorem State.onCore_groups (s : State) (f : Core → Core) :
    (s.onCore f).groups = s.groups := rfl

@[simp] theorem State.onCore_launches (s : State) (f : Core → Core) :
    (s.onCore f).launches = s.launches := rfl

@[simp] theorem State.onCore_contexts (s : State) (f : Core → Core) :
    (s.onCore f).contexts = s.contexts := rfl

@[simp] theorem State.onCore_moves (s : State) (f : Core → Core) :
    (s.onCore f).moves = s.moves := rfl

@[simp] theorem State.onCore_losses (s : State) (f : Core → Core) :
    (s.onCore f).losses = s.losses := rfl

@[simp] theorem State.onCore_mem (s : State) (f : Core → Core) :
    (s.onCore f).mem = s.mem := rfl

@[simp] theorem State.onCore_unitTags (s : State) (f : Core → Core) :
    (s.onCore f).unitTags = s.unitTags := rfl

@[simp] theorem State.onCore_badUnits (s : State) (f : Core → Core) :
    (s.onCore f).badUnits = s.badUnits := rfl

@[simp] theorem State.onCore_deadUnits (s : State) (f : Core → Core) :
    (s.onCore f).deadUnits = s.deadUnits := rfl

@[simp] theorem State.onCore_retried (s : State) (f : Core → Core) :
    (s.onCore f).retried = s.retried := rfl

@[simp] theorem State.onCore_refuseNext (s : State) (f : Core → Core) :
    (s.onCore f).refuseNext = s.refuseNext := rfl

@[simp] theorem State.onCore_mgmt (s : State) (f : Core → Core) :
    (s.onCore f).mgmt = s.mgmt := rfl

@[simp] theorem State.onCore_agenda (s : State) (f : Core → Core) :
    (s.onCore f).agenda = s.agenda := rfl

@[simp] theorem State.onCore_turn (s : State) (f : Core → Core) :
    (s.onCore f).turn = s.turn := rfl

@[simp] theorem State.onCore_fresh (s : State) (f : Core → Core) :
    (s.onCore f).fresh = s.fresh := rfl

@[simp] theorem State.onCore_nextWid (s : State) (f : Core → Core) :
    (s.onCore f).nextWid = s.nextWid := rfl

@[simp] theorem State.onCore_nextGroup (s : State) (f : Core → Core) :
    (s.onCore f).nextGroup = s.nextGroup := rfl

@[simp] theorem State.onCore_nextLaunch (s : State) (f : Core → Core) :
    (s.onCore f).nextLaunch = s.nextLaunch := rfl

@[simp] theorem State.onCore_nextRes (s : State) (f : Core → Core) :
    (s.onCore f).nextRes = s.nextRes := rfl

@[simp] theorem State.onCore_heap (s : State) (f : Core → Core) :
    (s.onCore f).heap = s.heap := rfl

@[simp] theorem State.onCore_classRot (s : State) (f : Core → Core) :
    (s.onCore f).classRot = s.classRot := rfl

@[simp] theorem State.onCore_reply (s : State) (f : Core → Core) :
    (s.onCore f).reply = s.reply := rfl

@[simp] theorem State.setDie_wave (s : State) (d : Nat) (x : Die) :
    (s.setDie d x).wave = s.wave := rfl

@[simp] theorem State.setDie_core (s : State) (d : Nat) (x : Die) :
    (s.setDie d x).core = s.core := rfl

@[simp] theorem State.setDie_cores (s : State) (d : Nat) (x : Die) :
    (s.setDie d x).cores = s.cores := rfl

@[simp] theorem State.setDie_clusters (s : State) (d : Nat) (x : Die) :
    (s.setDie d x).clusters = s.clusters := rfl

@[simp] theorem State.setDie_dies (s : State) (d : Nat) (x : Die) :
    (s.setDie d x).dies = sins s.dies d x := rfl

@[simp] theorem State.setDie_groups (s : State) (d : Nat) (x : Die) :
    (s.setDie d x).groups = s.groups := rfl

@[simp] theorem State.setDie_launches (s : State) (d : Nat) (x : Die) :
    (s.setDie d x).launches = s.launches := rfl

@[simp] theorem State.setDie_contexts (s : State) (d : Nat) (x : Die) :
    (s.setDie d x).contexts = s.contexts := rfl

@[simp] theorem State.setDie_moves (s : State) (d : Nat) (x : Die) :
    (s.setDie d x).moves = s.moves := rfl

@[simp] theorem State.setDie_losses (s : State) (d : Nat) (x : Die) :
    (s.setDie d x).losses = s.losses := rfl

@[simp] theorem State.setDie_mem (s : State) (d : Nat) (x : Die) :
    (s.setDie d x).mem = s.mem := rfl

@[simp] theorem State.setDie_unitTags (s : State) (d : Nat) (x : Die) :
    (s.setDie d x).unitTags = s.unitTags := rfl

@[simp] theorem State.setDie_badUnits (s : State) (d : Nat) (x : Die) :
    (s.setDie d x).badUnits = s.badUnits := rfl

@[simp] theorem State.setDie_deadUnits (s : State) (d : Nat) (x : Die) :
    (s.setDie d x).deadUnits = s.deadUnits := rfl

@[simp] theorem State.setDie_retried (s : State) (d : Nat) (x : Die) :
    (s.setDie d x).retried = s.retried := rfl

@[simp] theorem State.setDie_refuseNext (s : State) (d : Nat) (x : Die) :
    (s.setDie d x).refuseNext = s.refuseNext := rfl

@[simp] theorem State.setDie_mgmt (s : State) (d : Nat) (x : Die) :
    (s.setDie d x).mgmt = s.mgmt := rfl

@[simp] theorem State.setDie_agenda (s : State) (d : Nat) (x : Die) :
    (s.setDie d x).agenda = s.agenda := rfl

@[simp] theorem State.setDie_turn (s : State) (d : Nat) (x : Die) :
    (s.setDie d x).turn = s.turn := rfl

@[simp] theorem State.setDie_fresh (s : State) (d : Nat) (x : Die) :
    (s.setDie d x).fresh = s.fresh := rfl

@[simp] theorem State.setDie_nextWid (s : State) (d : Nat) (x : Die) :
    (s.setDie d x).nextWid = s.nextWid := rfl

@[simp] theorem State.setDie_nextGroup (s : State) (d : Nat) (x : Die) :
    (s.setDie d x).nextGroup = s.nextGroup := rfl

@[simp] theorem State.setDie_nextLaunch (s : State) (d : Nat) (x : Die) :
    (s.setDie d x).nextLaunch = s.nextLaunch := rfl

@[simp] theorem State.setDie_nextRes (s : State) (d : Nat) (x : Die) :
    (s.setDie d x).nextRes = s.nextRes := rfl

@[simp] theorem State.setDie_heap (s : State) (d : Nat) (x : Die) :
    (s.setDie d x).heap = s.heap := rfl

@[simp] theorem State.setDie_classRot (s : State) (d : Nat) (x : Die) :
    (s.setDie d x).classRot = s.classRot := rfl

@[simp] theorem State.setDie_reply (s : State) (d : Nat) (x : Die) :
    (s.setDie d x).reply = s.reply := rfl

@[simp] theorem State.onContext_wave (s : State) (id : Nat) (f : Context → Context) :
    (s.onContext id f).wave = s.wave := rfl

@[simp] theorem State.onContext_core (s : State) (id : Nat) (f : Context → Context) :
    (s.onContext id f).core = s.core := rfl

@[simp] theorem State.onContext_cores (s : State) (id : Nat) (f : Context → Context) :
    (s.onContext id f).cores = s.cores := rfl

@[simp] theorem State.onContext_clusters (s : State) (id : Nat) (f : Context → Context) :
    (s.onContext id f).clusters = s.clusters := rfl

@[simp] theorem State.onContext_dies (s : State) (id : Nat) (f : Context → Context) :
    (s.onContext id f).dies = s.dies := rfl

@[simp] theorem State.onContext_groups (s : State) (id : Nat) (f : Context → Context) :
    (s.onContext id f).groups = s.groups := rfl

@[simp] theorem State.onContext_launches (s : State) (id : Nat) (f : Context → Context) :
    (s.onContext id f).launches = s.launches := rfl

@[simp] theorem State.onContext_contexts (s : State) (id : Nat) (f : Context → Context) :
    (s.onContext id f).contexts = updateWhere (fun c => c.id == id) f s.contexts := rfl

@[simp] theorem State.onContext_moves (s : State) (id : Nat) (f : Context → Context) :
    (s.onContext id f).moves = s.moves := rfl

@[simp] theorem State.onContext_losses (s : State) (id : Nat) (f : Context → Context) :
    (s.onContext id f).losses = s.losses := rfl

@[simp] theorem State.onContext_mem (s : State) (id : Nat) (f : Context → Context) :
    (s.onContext id f).mem = s.mem := rfl

@[simp] theorem State.onContext_unitTags (s : State) (id : Nat) (f : Context → Context) :
    (s.onContext id f).unitTags = s.unitTags := rfl

@[simp] theorem State.onContext_badUnits (s : State) (id : Nat) (f : Context → Context) :
    (s.onContext id f).badUnits = s.badUnits := rfl

@[simp] theorem State.onContext_deadUnits (s : State) (id : Nat) (f : Context → Context) :
    (s.onContext id f).deadUnits = s.deadUnits := rfl

@[simp] theorem State.onContext_retried (s : State) (id : Nat) (f : Context → Context) :
    (s.onContext id f).retried = s.retried := rfl

@[simp] theorem State.onContext_refuseNext (s : State) (id : Nat) (f : Context → Context) :
    (s.onContext id f).refuseNext = s.refuseNext := rfl

@[simp] theorem State.onContext_mgmt (s : State) (id : Nat) (f : Context → Context) :
    (s.onContext id f).mgmt = s.mgmt := rfl

@[simp] theorem State.onContext_agenda (s : State) (id : Nat) (f : Context → Context) :
    (s.onContext id f).agenda = s.agenda := rfl

@[simp] theorem State.onContext_turn (s : State) (id : Nat) (f : Context → Context) :
    (s.onContext id f).turn = s.turn := rfl

@[simp] theorem State.onContext_fresh (s : State) (id : Nat) (f : Context → Context) :
    (s.onContext id f).fresh = s.fresh := rfl

@[simp] theorem State.onContext_nextWid (s : State) (id : Nat) (f : Context → Context) :
    (s.onContext id f).nextWid = s.nextWid := rfl

@[simp] theorem State.onContext_nextGroup (s : State) (id : Nat) (f : Context → Context) :
    (s.onContext id f).nextGroup = s.nextGroup := rfl

@[simp] theorem State.onContext_nextLaunch (s : State) (id : Nat) (f : Context → Context) :
    (s.onContext id f).nextLaunch = s.nextLaunch := rfl

@[simp] theorem State.onContext_nextRes (s : State) (id : Nat) (f : Context → Context) :
    (s.onContext id f).nextRes = s.nextRes := rfl

@[simp] theorem State.onContext_heap (s : State) (id : Nat) (f : Context → Context) :
    (s.onContext id f).heap = s.heap := rfl

@[simp] theorem State.onContext_classRot (s : State) (id : Nat) (f : Context → Context) :
    (s.onContext id f).classRot = s.classRot := rfl

@[simp] theorem State.onContext_reply (s : State) (id : Nat) (f : Context → Context) :
    (s.onContext id f).reply = s.reply := rfl

@[simp] theorem State.onLaunch_wave (s : State) (id : Nat) (f : Launch → Launch) :
    (s.onLaunch id f).wave = s.wave := rfl

@[simp] theorem State.onLaunch_core (s : State) (id : Nat) (f : Launch → Launch) :
    (s.onLaunch id f).core = s.core := rfl

@[simp] theorem State.onLaunch_cores (s : State) (id : Nat) (f : Launch → Launch) :
    (s.onLaunch id f).cores = s.cores := rfl

@[simp] theorem State.onLaunch_clusters (s : State) (id : Nat) (f : Launch → Launch) :
    (s.onLaunch id f).clusters = s.clusters := rfl

@[simp] theorem State.onLaunch_dies (s : State) (id : Nat) (f : Launch → Launch) :
    (s.onLaunch id f).dies = s.dies := rfl

@[simp] theorem State.onLaunch_groups (s : State) (id : Nat) (f : Launch → Launch) :
    (s.onLaunch id f).groups = s.groups := rfl

@[simp] theorem State.onLaunch_launches (s : State) (id : Nat) (f : Launch → Launch) :
    (s.onLaunch id f).launches = updateWhere (fun x => x.id == id) f s.launches := rfl

@[simp] theorem State.onLaunch_contexts (s : State) (id : Nat) (f : Launch → Launch) :
    (s.onLaunch id f).contexts = s.contexts := rfl

@[simp] theorem State.onLaunch_moves (s : State) (id : Nat) (f : Launch → Launch) :
    (s.onLaunch id f).moves = s.moves := rfl

@[simp] theorem State.onLaunch_losses (s : State) (id : Nat) (f : Launch → Launch) :
    (s.onLaunch id f).losses = s.losses := rfl

@[simp] theorem State.onLaunch_mem (s : State) (id : Nat) (f : Launch → Launch) :
    (s.onLaunch id f).mem = s.mem := rfl

@[simp] theorem State.onLaunch_unitTags (s : State) (id : Nat) (f : Launch → Launch) :
    (s.onLaunch id f).unitTags = s.unitTags := rfl

@[simp] theorem State.onLaunch_badUnits (s : State) (id : Nat) (f : Launch → Launch) :
    (s.onLaunch id f).badUnits = s.badUnits := rfl

@[simp] theorem State.onLaunch_deadUnits (s : State) (id : Nat) (f : Launch → Launch) :
    (s.onLaunch id f).deadUnits = s.deadUnits := rfl

@[simp] theorem State.onLaunch_retried (s : State) (id : Nat) (f : Launch → Launch) :
    (s.onLaunch id f).retried = s.retried := rfl

@[simp] theorem State.onLaunch_refuseNext (s : State) (id : Nat) (f : Launch → Launch) :
    (s.onLaunch id f).refuseNext = s.refuseNext := rfl

@[simp] theorem State.onLaunch_mgmt (s : State) (id : Nat) (f : Launch → Launch) :
    (s.onLaunch id f).mgmt = s.mgmt := rfl

@[simp] theorem State.onLaunch_agenda (s : State) (id : Nat) (f : Launch → Launch) :
    (s.onLaunch id f).agenda = s.agenda := rfl

@[simp] theorem State.onLaunch_turn (s : State) (id : Nat) (f : Launch → Launch) :
    (s.onLaunch id f).turn = s.turn := rfl

@[simp] theorem State.onLaunch_fresh (s : State) (id : Nat) (f : Launch → Launch) :
    (s.onLaunch id f).fresh = s.fresh := rfl

@[simp] theorem State.onLaunch_nextWid (s : State) (id : Nat) (f : Launch → Launch) :
    (s.onLaunch id f).nextWid = s.nextWid := rfl

@[simp] theorem State.onLaunch_nextGroup (s : State) (id : Nat) (f : Launch → Launch) :
    (s.onLaunch id f).nextGroup = s.nextGroup := rfl

@[simp] theorem State.onLaunch_nextLaunch (s : State) (id : Nat) (f : Launch → Launch) :
    (s.onLaunch id f).nextLaunch = s.nextLaunch := rfl

@[simp] theorem State.onLaunch_nextRes (s : State) (id : Nat) (f : Launch → Launch) :
    (s.onLaunch id f).nextRes = s.nextRes := rfl

@[simp] theorem State.onLaunch_heap (s : State) (id : Nat) (f : Launch → Launch) :
    (s.onLaunch id f).heap = s.heap := rfl

@[simp] theorem State.onLaunch_classRot (s : State) (id : Nat) (f : Launch → Launch) :
    (s.onLaunch id f).classRot = s.classRot := rfl

@[simp] theorem State.onLaunch_reply (s : State) (id : Nat) (f : Launch → Launch) :
    (s.onLaunch id f).reply = s.reply := rfl

@[simp] theorem State.onGroup_wave (s : State) (id : Nat) (f : Group → Group) :
    (s.onGroup id f).wave = s.wave := rfl

@[simp] theorem State.onGroup_core (s : State) (id : Nat) (f : Group → Group) :
    (s.onGroup id f).core = s.core := rfl

@[simp] theorem State.onGroup_cores (s : State) (id : Nat) (f : Group → Group) :
    (s.onGroup id f).cores = s.cores := rfl

@[simp] theorem State.onGroup_clusters (s : State) (id : Nat) (f : Group → Group) :
    (s.onGroup id f).clusters = s.clusters := rfl

@[simp] theorem State.onGroup_dies (s : State) (id : Nat) (f : Group → Group) :
    (s.onGroup id f).dies = s.dies := rfl

@[simp] theorem State.onGroup_groups (s : State) (id : Nat) (f : Group → Group) :
    (s.onGroup id f).groups = updateWhere (fun g => g.id == id) f s.groups := rfl

@[simp] theorem State.onGroup_launches (s : State) (id : Nat) (f : Group → Group) :
    (s.onGroup id f).launches = s.launches := rfl

@[simp] theorem State.onGroup_contexts (s : State) (id : Nat) (f : Group → Group) :
    (s.onGroup id f).contexts = s.contexts := rfl

@[simp] theorem State.onGroup_moves (s : State) (id : Nat) (f : Group → Group) :
    (s.onGroup id f).moves = s.moves := rfl

@[simp] theorem State.onGroup_losses (s : State) (id : Nat) (f : Group → Group) :
    (s.onGroup id f).losses = s.losses := rfl

@[simp] theorem State.onGroup_mem (s : State) (id : Nat) (f : Group → Group) :
    (s.onGroup id f).mem = s.mem := rfl

@[simp] theorem State.onGroup_unitTags (s : State) (id : Nat) (f : Group → Group) :
    (s.onGroup id f).unitTags = s.unitTags := rfl

@[simp] theorem State.onGroup_badUnits (s : State) (id : Nat) (f : Group → Group) :
    (s.onGroup id f).badUnits = s.badUnits := rfl

@[simp] theorem State.onGroup_deadUnits (s : State) (id : Nat) (f : Group → Group) :
    (s.onGroup id f).deadUnits = s.deadUnits := rfl

@[simp] theorem State.onGroup_retried (s : State) (id : Nat) (f : Group → Group) :
    (s.onGroup id f).retried = s.retried := rfl

@[simp] theorem State.onGroup_refuseNext (s : State) (id : Nat) (f : Group → Group) :
    (s.onGroup id f).refuseNext = s.refuseNext := rfl

@[simp] theorem State.onGroup_mgmt (s : State) (id : Nat) (f : Group → Group) :
    (s.onGroup id f).mgmt = s.mgmt := rfl

@[simp] theorem State.onGroup_agenda (s : State) (id : Nat) (f : Group → Group) :
    (s.onGroup id f).agenda = s.agenda := rfl

@[simp] theorem State.onGroup_turn (s : State) (id : Nat) (f : Group → Group) :
    (s.onGroup id f).turn = s.turn := rfl

@[simp] theorem State.onGroup_fresh (s : State) (id : Nat) (f : Group → Group) :
    (s.onGroup id f).fresh = s.fresh := rfl

@[simp] theorem State.onGroup_nextWid (s : State) (id : Nat) (f : Group → Group) :
    (s.onGroup id f).nextWid = s.nextWid := rfl

@[simp] theorem State.onGroup_nextGroup (s : State) (id : Nat) (f : Group → Group) :
    (s.onGroup id f).nextGroup = s.nextGroup := rfl

@[simp] theorem State.onGroup_nextLaunch (s : State) (id : Nat) (f : Group → Group) :
    (s.onGroup id f).nextLaunch = s.nextLaunch := rfl

@[simp] theorem State.onGroup_nextRes (s : State) (id : Nat) (f : Group → Group) :
    (s.onGroup id f).nextRes = s.nextRes := rfl

@[simp] theorem State.onGroup_heap (s : State) (id : Nat) (f : Group → Group) :
    (s.onGroup id f).heap = s.heap := rfl

@[simp] theorem State.onGroup_classRot (s : State) (id : Nat) (f : Group → Group) :
    (s.onGroup id f).classRot = s.classRot := rfl

@[simp] theorem State.onGroup_reply (s : State) (id : Nat) (f : Group → Group) :
    (s.onGroup id f).reply = s.reply := rfl

/-! ### Issuing a word -/

@[simp] theorem State.finish_wave (s : State) (st : Stall) (now : Bool) :
    (s.finish st now).wave = { s.wave.next st with retcnt := s.wave.retcnt + (if now then 1 else 0) } := rfl

@[simp] theorem State.finish_core (s : State) (st : Stall) (now : Bool) :
    (s.finish st now).core = s.core := rfl

@[simp] theorem State.finish_cores (s : State) (st : Stall) (now : Bool) :
    (s.finish st now).cores = s.cores := rfl

@[simp] theorem State.finish_clusters (s : State) (st : Stall) (now : Bool) :
    (s.finish st now).clusters = s.clusters := rfl

@[simp] theorem State.finish_dies (s : State) (st : Stall) (now : Bool) :
    (s.finish st now).dies = s.dies := rfl

@[simp] theorem State.finish_groups (s : State) (st : Stall) (now : Bool) :
    (s.finish st now).groups = s.groups := rfl

@[simp] theorem State.finish_launches (s : State) (st : Stall) (now : Bool) :
    (s.finish st now).launches = s.launches := rfl

@[simp] theorem State.finish_contexts (s : State) (st : Stall) (now : Bool) :
    (s.finish st now).contexts = s.contexts := rfl

@[simp] theorem State.finish_moves (s : State) (st : Stall) (now : Bool) :
    (s.finish st now).moves = s.moves := rfl

@[simp] theorem State.finish_losses (s : State) (st : Stall) (now : Bool) :
    (s.finish st now).losses = s.losses := rfl

@[simp] theorem State.finish_mem (s : State) (st : Stall) (now : Bool) :
    (s.finish st now).mem = s.mem := rfl

@[simp] theorem State.finish_unitTags (s : State) (st : Stall) (now : Bool) :
    (s.finish st now).unitTags = s.unitTags := rfl

@[simp] theorem State.finish_badUnits (s : State) (st : Stall) (now : Bool) :
    (s.finish st now).badUnits = s.badUnits := rfl

@[simp] theorem State.finish_deadUnits (s : State) (st : Stall) (now : Bool) :
    (s.finish st now).deadUnits = s.deadUnits := rfl

@[simp] theorem State.finish_retried (s : State) (st : Stall) (now : Bool) :
    (s.finish st now).retried = s.retried := rfl

@[simp] theorem State.finish_refuseNext (s : State) (st : Stall) (now : Bool) :
    (s.finish st now).refuseNext = s.refuseNext := rfl

@[simp] theorem State.finish_mgmt (s : State) (st : Stall) (now : Bool) :
    (s.finish st now).mgmt = s.mgmt := rfl

@[simp] theorem State.finish_agenda (s : State) (st : Stall) (now : Bool) :
    (s.finish st now).agenda = s.agenda := rfl

@[simp] theorem State.finish_turn (s : State) (st : Stall) (now : Bool) :
    (s.finish st now).turn = s.turn := rfl

@[simp] theorem State.finish_fresh (s : State) (st : Stall) (now : Bool) :
    (s.finish st now).fresh = s.fresh + freshStride := rfl

@[simp] theorem State.finish_nextWid (s : State) (st : Stall) (now : Bool) :
    (s.finish st now).nextWid = s.nextWid := rfl

@[simp] theorem State.finish_nextGroup (s : State) (st : Stall) (now : Bool) :
    (s.finish st now).nextGroup = s.nextGroup := rfl

@[simp] theorem State.finish_nextLaunch (s : State) (st : Stall) (now : Bool) :
    (s.finish st now).nextLaunch = s.nextLaunch := rfl

@[simp] theorem State.finish_nextRes (s : State) (st : Stall) (now : Bool) :
    (s.finish st now).nextRes = s.nextRes := rfl

@[simp] theorem State.finish_heap (s : State) (st : Stall) (now : Bool) :
    (s.finish st now).heap = s.heap := rfl

@[simp] theorem State.finish_classRot (s : State) (st : Stall) (now : Bool) :
    (s.finish st now).classRot = s.classRot := rfl

@[simp] theorem State.finish_reply (s : State) (st : Stall) (now : Bool) :
    (s.finish st now).reply = s.reply := rfl

/-! ### Updates of the issuing wave -/

@[simp] theorem Wave.mapLanes_wid (w : Wave) (f : Nat → Fibre → Fibre) :
    (w.mapLanes f).wid = w.wid := rfl

@[simp] theorem Wave.mapLanes_slot (w : Wave) (f : Nat → Fibre → Fibre) :
    (w.mapLanes f).slot = w.slot := rfl

@[simp] theorem Wave.mapLanes_ctx (w : Wave) (f : Nat → Fibre → Fibre) :
    (w.mapLanes f).ctx = w.ctx := rfl

@[simp] theorem Wave.mapLanes_launch (w : Wave) (f : Nat → Fibre → Fibre) :
    (w.mapLanes f).launch = w.launch := rfl

@[simp] theorem Wave.mapLanes_group (w : Wave) (f : Nat → Fibre → Fibre) :
    (w.mapLanes f).group = w.group := rfl

@[simp] theorem Wave.mapLanes_index (w : Wave) (f : Nat → Fibre → Fibre) :
    (w.mapLanes f).index = w.index := rfl

@[simp] theorem Wave.mapLanes_steward (w : Wave) (f : Nat → Fibre → Fibre) :
    (w.mapLanes f).steward = w.steward := rfl

@[simp] theorem Wave.mapLanes_g (w : Wave) (f : Nat → Fibre → Fibre) :
    (w.mapLanes f).g = w.g := rfl

@[simp] theorem Wave.mapLanes_lanes (w : Wave) (f : Nat → Fibre → Fibre) :
    (w.mapLanes f).lanes = w.lanes.mapIdx f := rfl

@[simp] theorem Wave.mapLanes_s (w : Wave) (f : Nat → Fibre → Fibre) :
    (w.mapLanes f).s = w.s := rfl

@[simp] theorem Wave.mapLanes_stags (w : Wave) (f : Nat → Fibre → Fibre) :
    (w.mapLanes f).stags = w.stags := rfl

@[simp] theorem Wave.mapLanes_d (w : Wave) (f : Nat → Fibre → Fibre) :
    (w.mapLanes f).d = w.d := rfl

@[simp] theorem Wave.mapLanes_wchg (w : Wave) (f : Nat → Fibre → Fibre) :
    (w.mapLanes f).wchg = w.wchg := rfl

@[simp] theorem Wave.mapLanes_chk (w : Wave) (f : Nat → Fibre → Fibre) :
    (w.mapLanes f).chk = w.chk := rfl

@[simp] theorem Wave.mapLanes_det (w : Wave) (f : Nat → Fibre → Fibre) :
    (w.mapLanes f).det = w.det := rfl

@[simp] theorem Wave.mapLanes_chkd (w : Wave) (f : Nat → Fibre → Fibre) :
    (w.mapLanes f).chkd = w.chkd := rfl

@[simp] theorem Wave.mapLanes_fpctl (w : Wave) (f : Nat → Fibre → Fibre) :
    (w.mapLanes f).fpctl = w.fpctl := rfl

@[simp] theorem Wave.mapLanes_fpstat (w : Wave) (f : Nat → Fibre → Fibre) :
    (w.mapLanes f).fpstat = w.fpstat := rfl

@[simp] theorem Wave.mapLanes_timer (w : Wave) (f : Nat → Fibre → Fibre) :
    (w.mapLanes f).timer = w.timer := rfl

@[simp] theorem Wave.mapLanes_tctl (w : Wave) (f : Nat → Fibre → Fibre) :
    (w.mapLanes f).tctl = w.tctl := rfl

@[simp] theorem Wave.mapLanes_ctxcyc (w : Wave) (f : Nat → Fibre → Fibre) :
    (w.mapLanes f).ctxcyc = w.ctxcyc := rfl

@[simp] theorem Wave.mapLanes_retcnt (w : Wave) (f : Nat → Fibre → Fibre) :
    (w.mapLanes f).retcnt = w.retcnt := rfl

@[simp] theorem Wave.mapLanes_retseen (w : Wave) (f : Nat → Fibre → Fibre) :
    (w.mapLanes f).retseen = w.retseen := rfl

@[simp] theorem Wave.mapLanes_tvec (w : Wave) (f : Nat → Fibre → Fibre) :
    (w.mapLanes f).tvec = w.tvec := rfl

@[simp] theorem Wave.mapLanes_tpc (w : Wave) (f : Nat → Fibre → Fibre) :
    (w.mapLanes f).tpc = w.tpc := rfl

@[simp] theorem Wave.mapLanes_tcause (w : Wave) (f : Nat → Fibre → Fibre) :
    (w.mapLanes f).tcause = w.tcause := rfl

@[simp] theorem Wave.mapLanes_tdet0 (w : Wave) (f : Nat → Fibre → Fibre) :
    (w.mapLanes f).tdet0 = w.tdet0 := rfl

@[simp] theorem Wave.mapLanes_tdet1 (w : Wave) (f : Nat → Fibre → Fibre) :
    (w.mapLanes f).tdet1 = w.tdet1 := rfl

@[simp] theorem Wave.mapLanes_tdet2 (w : Wave) (f : Nat → Fibre → Fibre) :
    (w.mapLanes f).tdet2 = w.tdet2 := rfl

@[simp] theorem Wave.mapLanes_sctx (w : Wave) (f : Nat → Fibre → Fibre) :
    (w.mapLanes f).sctx = w.sctx := rfl

@[simp] theorem Wave.mapLanes_cur (w : Wave) (f : Nat → Fibre → Fibre) :
    (w.mapLanes f).cur = w.cur := rfl

@[simp] theorem Wave.mapLanes_handler (w : Wave) (f : Nat → Fibre → Fibre) :
    (w.mapLanes f).handler = w.handler := rfl

@[simp] theorem Wave.mapLanes_resume (w : Wave) (f : Nat → Fibre → Fibre) :
    (w.mapLanes f).resume = w.resume := rfl

@[simp] theorem Wave.mapLanes_pend17 (w : Wave) (f : Nat → Fibre → Fibre) :
    (w.mapLanes f).pend17 = w.pend17 := rfl

@[simp] theorem Wave.mapLanes_pend19 (w : Wave) (f : Nat → Fibre → Fibre) :
    (w.mapLanes f).pend19 = w.pend19 := rfl

@[simp] theorem Wave.mapLanes_joins (w : Wave) (f : Nat → Fibre → Fibre) :
    (w.mapLanes f).joins = w.joins := rfl

@[simp] theorem Wave.mapLanes_slotNo (w : Wave) (f : Nat → Fibre → Fibre) :
    (w.mapLanes f).slotNo = w.slotNo := rfl

@[simp] theorem Wave.mapLanes_board (w : Wave) (f : Nat → Fibre → Fibre) :
    (w.mapLanes f).board = w.board := rfl

@[simp] theorem Wave.mapLanes_sysBoard (w : Wave) (f : Nat → Fibre → Fibre) :
    (w.mapLanes f).sysBoard = w.sysBoard := rfl

@[simp] theorem Wave.mapLanes_interlocks (w : Wave) (f : Nat → Fibre → Fibre) :
    (w.mapLanes f).interlocks = w.interlocks := rfl

@[simp] theorem Wave.mapLanes_outst (w : Wave) (f : Nat → Fibre → Fibre) :
    (w.mapLanes f).outst = w.outst := rfl

@[simp] theorem Wave.mapLanes_lent (w : Wave) (f : Nat → Fibre → Fibre) :
    (w.mapLanes f).lent = w.lent := rfl

@[simp] theorem Wave.mapLanes_engW (w : Wave) (f : Nat → Fibre → Fibre) :
    (w.mapLanes f).engW = w.engW := rfl

@[simp] theorem Wave.mapLanes_lasthdr (w : Wave) (f : Nat → Fibre → Fibre) :
    (w.mapLanes f).lasthdr = w.lasthdr := rfl

@[simp] theorem Wave.mapLanes_waitMask (w : Wave) (f : Nat → Fibre → Fibre) :
    (w.mapLanes f).waitMask = w.waitMask := rfl

@[simp] theorem Wave.mapLanes_stalled (w : Wave) (f : Nat → Fibre → Fibre) :
    (w.mapLanes f).stalled = w.stalled := rfl

@[simp] theorem Wave.mapLanes_dying (w : Wave) (f : Nat → Fibre → Fibre) :
    (w.mapLanes f).dying = w.dying := rfl

@[simp] theorem Wave.mapLanes_tlbiWait (w : Wave) (f : Nat → Fibre → Fibre) :
    (w.mapLanes f).tlbiWait = w.tlbiWait := rfl

@[simp] theorem Wave.mapLanes_passed (w : Wave) (f : Nat → Fibre → Fibre) :
    (w.mapLanes f).passed = w.passed := rfl

@[simp] theorem Wave.mapLanes_heldFor (w : Wave) (f : Nat → Fibre → Fibre) :
    (w.mapLanes f).heldFor = w.heldFor := rfl

@[simp] theorem Wave.mapLanes_resident (w : Wave) (f : Nat → Fibre → Fibre) :
    (w.mapLanes f).resident = w.resident := rfl

@[simp] theorem Wave.mapLanes_turnDone (w : Wave) (f : Nat → Fibre → Fibre) :
    (w.mapLanes f).turnDone = w.turnDone := rfl

@[simp] theorem Wave.mapLanes_saved (w : Wave) (f : Nat → Fibre → Fibre) :
    (w.mapLanes f).saved = w.saved := rfl

@[simp] theorem Wave.meetMask_wid (w : Wave)  :
    (w.meetMask).wid = w.wid := rfl

@[simp] theorem Wave.meetMask_slot (w : Wave)  :
    (w.meetMask).slot = w.slot := rfl

@[simp] theorem Wave.meetMask_ctx (w : Wave)  :
    (w.meetMask).ctx = w.ctx := rfl

@[simp] theorem Wave.meetMask_launch (w : Wave)  :
    (w.meetMask).launch = w.launch := rfl

@[simp] theorem Wave.meetMask_group (w : Wave)  :
    (w.meetMask).group = w.group := rfl

@[simp] theorem Wave.meetMask_index (w : Wave)  :
    (w.meetMask).index = w.index := rfl

@[simp] theorem Wave.meetMask_steward (w : Wave)  :
    (w.meetMask).steward = w.steward := rfl

@[simp] theorem Wave.meetMask_g (w : Wave)  :
    (w.meetMask).g = w.g := rfl

@[simp] theorem Wave.meetMask_lanes (w : Wave)  :
    (w.meetMask).lanes = w.lanes := rfl

@[simp] theorem Wave.meetMask_s (w : Wave)  :
    (w.meetMask).s = w.s := rfl

@[simp] theorem Wave.meetMask_stags (w : Wave)  :
    (w.meetMask).stags = w.stags := rfl

@[simp] theorem Wave.meetMask_d (w : Wave)  :
    (w.meetMask).d = w.d := rfl

@[simp] theorem Wave.meetMask_wchg (w : Wave)  :
    (w.meetMask).wchg = w.wchg := rfl

@[simp] theorem Wave.meetMask_chk (w : Wave)  :
    (w.meetMask).chk = w.chk := rfl

@[simp] theorem Wave.meetMask_det (w : Wave)  :
    (w.meetMask).det = w.det := rfl

@[simp] theorem Wave.meetMask_chkd (w : Wave)  :
    (w.meetMask).chkd = w.chkd := rfl

@[simp] theorem Wave.meetMask_fpctl (w : Wave)  :
    (w.meetMask).fpctl = w.fpctl := rfl

@[simp] theorem Wave.meetMask_fpstat (w : Wave)  :
    (w.meetMask).fpstat = w.fpstat := rfl

@[simp] theorem Wave.meetMask_timer (w : Wave)  :
    (w.meetMask).timer = w.timer := rfl

@[simp] theorem Wave.meetMask_tctl (w : Wave)  :
    (w.meetMask).tctl = w.tctl := rfl

@[simp] theorem Wave.meetMask_ctxcyc (w : Wave)  :
    (w.meetMask).ctxcyc = w.ctxcyc := rfl

@[simp] theorem Wave.meetMask_retcnt (w : Wave)  :
    (w.meetMask).retcnt = w.retcnt := rfl

@[simp] theorem Wave.meetMask_retseen (w : Wave)  :
    (w.meetMask).retseen = w.retseen := rfl

@[simp] theorem Wave.meetMask_tvec (w : Wave)  :
    (w.meetMask).tvec = w.tvec := rfl

@[simp] theorem Wave.meetMask_tpc (w : Wave)  :
    (w.meetMask).tpc = w.tpc := rfl

@[simp] theorem Wave.meetMask_tcause (w : Wave)  :
    (w.meetMask).tcause = w.tcause := rfl

@[simp] theorem Wave.meetMask_tdet0 (w : Wave)  :
    (w.meetMask).tdet0 = w.tdet0 := rfl

@[simp] theorem Wave.meetMask_tdet1 (w : Wave)  :
    (w.meetMask).tdet1 = w.tdet1 := rfl

@[simp] theorem Wave.meetMask_tdet2 (w : Wave)  :
    (w.meetMask).tdet2 = w.tdet2 := rfl

@[simp] theorem Wave.meetMask_sctx (w : Wave)  :
    (w.meetMask).sctx = w.sctx := rfl

@[simp] theorem Wave.meetMask_cur (w : Wave)  :
    (w.meetMask).cur = w.cur := rfl

@[simp] theorem Wave.meetMask_handler (w : Wave)  :
    (w.meetMask).handler = w.handler := rfl

@[simp] theorem Wave.meetMask_resume (w : Wave)  :
    (w.meetMask).resume = w.resume := rfl

@[simp] theorem Wave.meetMask_pend17 (w : Wave)  :
    (w.meetMask).pend17 = w.pend17 := rfl

@[simp] theorem Wave.meetMask_pend19 (w : Wave)  :
    (w.meetMask).pend19 = w.pend19 := rfl

@[simp] theorem Wave.meetMask_joins (w : Wave)  :
    (w.meetMask).joins = w.joins := rfl

@[simp] theorem Wave.meetMask_slotNo (w : Wave)  :
    (w.meetMask).slotNo = w.slotNo := rfl

@[simp] theorem Wave.meetMask_board (w : Wave)  :
    (w.meetMask).board = (w.landed w.waitMask).board := rfl

@[simp] theorem Wave.meetMask_sysBoard (w : Wave)  :
    (w.meetMask).sysBoard = w.sysBoard := rfl

@[simp] theorem Wave.meetMask_interlocks (w : Wave)  :
    (w.meetMask).interlocks = w.interlocks := rfl

@[simp] theorem Wave.meetMask_outst (w : Wave)  :
    (w.meetMask).outst = w.outst := rfl

@[simp] theorem Wave.meetMask_lent (w : Wave)  :
    (w.meetMask).lent = w.lent.filter (fun x => !w.waitMask.getLsbD x.ctr) := rfl

@[simp] theorem Wave.meetMask_engW (w : Wave)  :
    (w.meetMask).engW = w.engW := rfl

@[simp] theorem Wave.meetMask_lasthdr (w : Wave)  :
    (w.meetMask).lasthdr = w.lasthdr := rfl

@[simp] theorem Wave.meetMask_waitMask (w : Wave)  :
    (w.meetMask).waitMask = 0 := rfl

@[simp] theorem Wave.meetMask_stalled (w : Wave)  :
    (w.meetMask).stalled = w.stalled := rfl

@[simp] theorem Wave.meetMask_dying (w : Wave)  :
    (w.meetMask).dying = w.dying := rfl

@[simp] theorem Wave.meetMask_tlbiWait (w : Wave)  :
    (w.meetMask).tlbiWait = w.tlbiWait := rfl

@[simp] theorem Wave.meetMask_passed (w : Wave)  :
    (w.meetMask).passed = w.passed := rfl

@[simp] theorem Wave.meetMask_heldFor (w : Wave)  :
    (w.meetMask).heldFor = w.heldFor := rfl

@[simp] theorem Wave.meetMask_resident (w : Wave)  :
    (w.meetMask).resident = w.resident := rfl

@[simp] theorem Wave.meetMask_turnDone (w : Wave)  :
    (w.meetMask).turnDone = w.turnDone := rfl

@[simp] theorem Wave.meetMask_saved (w : Wave)  :
    (w.meetMask).saved = w.saved := rfl

@[simp] theorem Wave.tick_wid (w : Wave) (st : Stall) :
    (w.tick st).wid = w.wid := rfl

@[simp] theorem Wave.tick_slot (w : Wave) (st : Stall) :
    (w.tick st).slot = w.slot := rfl

@[simp] theorem Wave.tick_ctx (w : Wave) (st : Stall) :
    (w.tick st).ctx = w.ctx := rfl

@[simp] theorem Wave.tick_launch (w : Wave) (st : Stall) :
    (w.tick st).launch = w.launch := rfl

@[simp] theorem Wave.tick_group (w : Wave) (st : Stall) :
    (w.tick st).group = w.group := rfl

@[simp] theorem Wave.tick_index (w : Wave) (st : Stall) :
    (w.tick st).index = w.index := rfl

@[simp] theorem Wave.tick_steward (w : Wave) (st : Stall) :
    (w.tick st).steward = w.steward := rfl

@[simp] theorem Wave.tick_g (w : Wave) (st : Stall) :
    (w.tick st).g = w.g := rfl

@[simp] theorem Wave.tick_lanes (w : Wave) (st : Stall) :
    (w.tick st).lanes = w.lanes := rfl

@[simp] theorem Wave.tick_s (w : Wave) (st : Stall) :
    (w.tick st).s = w.s := rfl

@[simp] theorem Wave.tick_stags (w : Wave) (st : Stall) :
    (w.tick st).stags = w.stags := rfl

@[simp] theorem Wave.tick_d (w : Wave) (st : Stall) :
    (w.tick st).d = w.d := rfl

@[simp] theorem Wave.tick_wchg (w : Wave) (st : Stall) :
    (w.tick st).wchg = w.wchg := rfl

@[simp] theorem Wave.tick_chk (w : Wave) (st : Stall) :
    (w.tick st).chk = w.chk := rfl

@[simp] theorem Wave.tick_det (w : Wave) (st : Stall) :
    (w.tick st).det = w.det := rfl

@[simp] theorem Wave.tick_chkd (w : Wave) (st : Stall) :
    (w.tick st).chkd = w.chkd := rfl

@[simp] theorem Wave.tick_fpctl (w : Wave) (st : Stall) :
    (w.tick st).fpctl = w.fpctl := rfl

@[simp] theorem Wave.tick_fpstat (w : Wave) (st : Stall) :
    (w.tick st).fpstat = w.fpstat := rfl

@[simp] theorem Wave.tick_timer (w : Wave) (st : Stall) :
    (w.tick st).timer = w.timer := rfl

@[simp] theorem Wave.tick_tctl (w : Wave) (st : Stall) :
    (w.tick st).tctl = w.tctl := rfl

@[simp] theorem Wave.tick_ctxcyc (w : Wave) (st : Stall) :
    (w.tick st).ctxcyc = w.ctxcyc := rfl

@[simp] theorem Wave.tick_retcnt (w : Wave) (st : Stall) :
    (w.tick st).retcnt = w.retcnt := rfl

@[simp] theorem Wave.tick_retseen (w : Wave) (st : Stall) :
    (w.tick st).retseen = w.retseen := rfl

@[simp] theorem Wave.tick_tvec (w : Wave) (st : Stall) :
    (w.tick st).tvec = w.tvec := rfl

@[simp] theorem Wave.tick_tpc (w : Wave) (st : Stall) :
    (w.tick st).tpc = w.tpc := rfl

@[simp] theorem Wave.tick_tcause (w : Wave) (st : Stall) :
    (w.tick st).tcause = w.tcause := rfl

@[simp] theorem Wave.tick_tdet0 (w : Wave) (st : Stall) :
    (w.tick st).tdet0 = w.tdet0 := rfl

@[simp] theorem Wave.tick_tdet1 (w : Wave) (st : Stall) :
    (w.tick st).tdet1 = w.tdet1 := rfl

@[simp] theorem Wave.tick_tdet2 (w : Wave) (st : Stall) :
    (w.tick st).tdet2 = w.tdet2 := rfl

@[simp] theorem Wave.tick_sctx (w : Wave) (st : Stall) :
    (w.tick st).sctx = w.sctx := rfl

@[simp] theorem Wave.tick_cur (w : Wave) (st : Stall) :
    (w.tick st).cur = w.cur := rfl

@[simp] theorem Wave.tick_handler (w : Wave) (st : Stall) :
    (w.tick st).handler = w.handler := rfl

@[simp] theorem Wave.tick_resume (w : Wave) (st : Stall) :
    (w.tick st).resume = w.resume := rfl

@[simp] theorem Wave.tick_pend17 (w : Wave) (st : Stall) :
    (w.tick st).pend17 = w.pend17 := rfl

@[simp] theorem Wave.tick_pend19 (w : Wave) (st : Stall) :
    (w.tick st).pend19 = w.pend19 := rfl

@[simp] theorem Wave.tick_joins (w : Wave) (st : Stall) :
    (w.tick st).joins = w.joins := rfl

@[simp] theorem Wave.tick_slotNo (w : Wave) (st : Stall) :
    (w.tick st).slotNo = w.slotNo + 1 + st.toNat := rfl

@[simp] theorem Wave.tick_board (w : Wave) (st : Stall) :
    (w.tick st).board = flying (w.slotNo + 1 + st.toNat) w.board := rfl

@[simp] theorem Wave.tick_sysBoard (w : Wave) (st : Stall) :
    (w.tick st).sysBoard = w.sysBoard.filter (fun e => decide (w.slotNo + 1 + st.toNat < e.slot + latSys)) := rfl

@[simp] theorem Wave.tick_interlocks (w : Wave) (st : Stall) :
    (w.tick st).interlocks = w.interlocks := rfl

@[simp] theorem Wave.tick_outst (w : Wave) (st : Stall) :
    (w.tick st).outst = w.outst := rfl

@[simp] theorem Wave.tick_lent (w : Wave) (st : Stall) :
    (w.tick st).lent = w.lent := rfl

@[simp] theorem Wave.tick_engW (w : Wave) (st : Stall) :
    (w.tick st).engW = w.engW := rfl

@[simp] theorem Wave.tick_lasthdr (w : Wave) (st : Stall) :
    (w.tick st).lasthdr = w.lasthdr := rfl

@[simp] theorem Wave.tick_waitMask (w : Wave) (st : Stall) :
    (w.tick st).waitMask = w.waitMask := rfl

@[simp] theorem Wave.tick_stalled (w : Wave) (st : Stall) :
    (w.tick st).stalled = w.stalled := rfl

@[simp] theorem Wave.tick_dying (w : Wave) (st : Stall) :
    (w.tick st).dying = w.dying := rfl

@[simp] theorem Wave.tick_tlbiWait (w : Wave) (st : Stall) :
    (w.tick st).tlbiWait = w.tlbiWait := rfl

@[simp] theorem Wave.tick_passed (w : Wave) (st : Stall) :
    (w.tick st).passed = w.passed := rfl

@[simp] theorem Wave.tick_heldFor (w : Wave) (st : Stall) :
    (w.tick st).heldFor = w.heldFor := rfl

@[simp] theorem Wave.tick_resident (w : Wave) (st : Stall) :
    (w.tick st).resident = w.resident := rfl

@[simp] theorem Wave.tick_turnDone (w : Wave) (st : Stall) :
    (w.tick st).turnDone = w.turnDone := rfl

@[simp] theorem Wave.tick_saved (w : Wave) (st : Stall) :
    (w.tick st).saved = w.saved := rfl

@[simp] theorem Wave.mergeFlags_wid (w : Wave) (fl : Word) :
    (w.mergeFlags fl).wid = w.wid := rfl

@[simp] theorem Wave.mergeFlags_slot (w : Wave) (fl : Word) :
    (w.mergeFlags fl).slot = w.slot := rfl

@[simp] theorem Wave.mergeFlags_ctx (w : Wave) (fl : Word) :
    (w.mergeFlags fl).ctx = w.ctx := rfl

@[simp] theorem Wave.mergeFlags_launch (w : Wave) (fl : Word) :
    (w.mergeFlags fl).launch = w.launch := rfl

@[simp] theorem Wave.mergeFlags_group (w : Wave) (fl : Word) :
    (w.mergeFlags fl).group = w.group := rfl

@[simp] theorem Wave.mergeFlags_index (w : Wave) (fl : Word) :
    (w.mergeFlags fl).index = w.index := rfl

@[simp] theorem Wave.mergeFlags_steward (w : Wave) (fl : Word) :
    (w.mergeFlags fl).steward = w.steward := rfl

@[simp] theorem Wave.mergeFlags_g (w : Wave) (fl : Word) :
    (w.mergeFlags fl).g = w.g := rfl

@[simp] theorem Wave.mergeFlags_lanes (w : Wave) (fl : Word) :
    (w.mergeFlags fl).lanes = w.lanes := rfl

@[simp] theorem Wave.mergeFlags_s (w : Wave) (fl : Word) :
    (w.mergeFlags fl).s = w.s := rfl

@[simp] theorem Wave.mergeFlags_stags (w : Wave) (fl : Word) :
    (w.mergeFlags fl).stags = w.stags := rfl

@[simp] theorem Wave.mergeFlags_d (w : Wave) (fl : Word) :
    (w.mergeFlags fl).d = w.d := rfl

@[simp] theorem Wave.mergeFlags_wchg (w : Wave) (fl : Word) :
    (w.mergeFlags fl).wchg = w.wchg := rfl

@[simp] theorem Wave.mergeFlags_chk (w : Wave) (fl : Word) :
    (w.mergeFlags fl).chk = w.chk := rfl

@[simp] theorem Wave.mergeFlags_det (w : Wave) (fl : Word) :
    (w.mergeFlags fl).det = w.det := rfl

@[simp] theorem Wave.mergeFlags_chkd (w : Wave) (fl : Word) :
    (w.mergeFlags fl).chkd = w.chkd := rfl

@[simp] theorem Wave.mergeFlags_fpctl (w : Wave) (fl : Word) :
    (w.mergeFlags fl).fpctl = w.fpctl := rfl

@[simp] theorem Wave.mergeFlags_fpstat (w : Wave) (fl : Word) :
    (w.mergeFlags fl).fpstat = w.fpstat ||| fl := rfl

@[simp] theorem Wave.mergeFlags_timer (w : Wave) (fl : Word) :
    (w.mergeFlags fl).timer = w.timer := rfl

@[simp] theorem Wave.mergeFlags_tctl (w : Wave) (fl : Word) :
    (w.mergeFlags fl).tctl = w.tctl := rfl

@[simp] theorem Wave.mergeFlags_ctxcyc (w : Wave) (fl : Word) :
    (w.mergeFlags fl).ctxcyc = w.ctxcyc := rfl

@[simp] theorem Wave.mergeFlags_retcnt (w : Wave) (fl : Word) :
    (w.mergeFlags fl).retcnt = w.retcnt := rfl

@[simp] theorem Wave.mergeFlags_retseen (w : Wave) (fl : Word) :
    (w.mergeFlags fl).retseen = w.retseen := rfl

@[simp] theorem Wave.mergeFlags_tvec (w : Wave) (fl : Word) :
    (w.mergeFlags fl).tvec = w.tvec := rfl

@[simp] theorem Wave.mergeFlags_tpc (w : Wave) (fl : Word) :
    (w.mergeFlags fl).tpc = w.tpc := rfl

@[simp] theorem Wave.mergeFlags_tcause (w : Wave) (fl : Word) :
    (w.mergeFlags fl).tcause = w.tcause := rfl

@[simp] theorem Wave.mergeFlags_tdet0 (w : Wave) (fl : Word) :
    (w.mergeFlags fl).tdet0 = w.tdet0 := rfl

@[simp] theorem Wave.mergeFlags_tdet1 (w : Wave) (fl : Word) :
    (w.mergeFlags fl).tdet1 = w.tdet1 := rfl

@[simp] theorem Wave.mergeFlags_tdet2 (w : Wave) (fl : Word) :
    (w.mergeFlags fl).tdet2 = w.tdet2 := rfl

@[simp] theorem Wave.mergeFlags_sctx (w : Wave) (fl : Word) :
    (w.mergeFlags fl).sctx = w.sctx := rfl

@[simp] theorem Wave.mergeFlags_cur (w : Wave) (fl : Word) :
    (w.mergeFlags fl).cur = w.cur := rfl

@[simp] theorem Wave.mergeFlags_handler (w : Wave) (fl : Word) :
    (w.mergeFlags fl).handler = w.handler := rfl

@[simp] theorem Wave.mergeFlags_resume (w : Wave) (fl : Word) :
    (w.mergeFlags fl).resume = w.resume := rfl

@[simp] theorem Wave.mergeFlags_pend17 (w : Wave) (fl : Word) :
    (w.mergeFlags fl).pend17 = w.pend17 := rfl

@[simp] theorem Wave.mergeFlags_pend19 (w : Wave) (fl : Word) :
    (w.mergeFlags fl).pend19 = w.pend19 := rfl

@[simp] theorem Wave.mergeFlags_joins (w : Wave) (fl : Word) :
    (w.mergeFlags fl).joins = w.joins := rfl

@[simp] theorem Wave.mergeFlags_slotNo (w : Wave) (fl : Word) :
    (w.mergeFlags fl).slotNo = w.slotNo := rfl

@[simp] theorem Wave.mergeFlags_board (w : Wave) (fl : Word) :
    (w.mergeFlags fl).board = w.board := rfl

@[simp] theorem Wave.mergeFlags_sysBoard (w : Wave) (fl : Word) :
    (w.mergeFlags fl).sysBoard = w.sysBoard := rfl

@[simp] theorem Wave.mergeFlags_interlocks (w : Wave) (fl : Word) :
    (w.mergeFlags fl).interlocks = w.interlocks := rfl

@[simp] theorem Wave.mergeFlags_outst (w : Wave) (fl : Word) :
    (w.mergeFlags fl).outst = w.outst := rfl

@[simp] theorem Wave.mergeFlags_lent (w : Wave) (fl : Word) :
    (w.mergeFlags fl).lent = w.lent := rfl

@[simp] theorem Wave.mergeFlags_engW (w : Wave) (fl : Word) :
    (w.mergeFlags fl).engW = w.engW := rfl

@[simp] theorem Wave.mergeFlags_lasthdr (w : Wave) (fl : Word) :
    (w.mergeFlags fl).lasthdr = w.lasthdr := rfl

@[simp] theorem Wave.mergeFlags_waitMask (w : Wave) (fl : Word) :
    (w.mergeFlags fl).waitMask = w.waitMask := rfl

@[simp] theorem Wave.mergeFlags_stalled (w : Wave) (fl : Word) :
    (w.mergeFlags fl).stalled = w.stalled := rfl

@[simp] theorem Wave.mergeFlags_dying (w : Wave) (fl : Word) :
    (w.mergeFlags fl).dying = w.dying := rfl

@[simp] theorem Wave.mergeFlags_tlbiWait (w : Wave) (fl : Word) :
    (w.mergeFlags fl).tlbiWait = w.tlbiWait := rfl

@[simp] theorem Wave.mergeFlags_passed (w : Wave) (fl : Word) :
    (w.mergeFlags fl).passed = w.passed := rfl

@[simp] theorem Wave.mergeFlags_heldFor (w : Wave) (fl : Word) :
    (w.mergeFlags fl).heldFor = w.heldFor := rfl

@[simp] theorem Wave.mergeFlags_resident (w : Wave) (fl : Word) :
    (w.mergeFlags fl).resident = w.resident := rfl

@[simp] theorem Wave.mergeFlags_turnDone (w : Wave) (fl : Word) :
    (w.mergeFlags fl).turnDone = w.turnDone := rfl

@[simp] theorem Wave.mergeFlags_saved (w : Wave) (fl : Word) :
    (w.mergeFlags fl).saved = w.saved := rfl

@[simp] theorem Wave.incCtr_wid (w : Wave) (n : Nat) :
    (w.incCtr n).wid = w.wid := rfl

@[simp] theorem Wave.incCtr_slot (w : Wave) (n : Nat) :
    (w.incCtr n).slot = w.slot := rfl

@[simp] theorem Wave.incCtr_ctx (w : Wave) (n : Nat) :
    (w.incCtr n).ctx = w.ctx := rfl

@[simp] theorem Wave.incCtr_launch (w : Wave) (n : Nat) :
    (w.incCtr n).launch = w.launch := rfl

@[simp] theorem Wave.incCtr_group (w : Wave) (n : Nat) :
    (w.incCtr n).group = w.group := rfl

@[simp] theorem Wave.incCtr_index (w : Wave) (n : Nat) :
    (w.incCtr n).index = w.index := rfl

@[simp] theorem Wave.incCtr_steward (w : Wave) (n : Nat) :
    (w.incCtr n).steward = w.steward := rfl

@[simp] theorem Wave.incCtr_g (w : Wave) (n : Nat) :
    (w.incCtr n).g = w.g := rfl

@[simp] theorem Wave.incCtr_lanes (w : Wave) (n : Nat) :
    (w.incCtr n).lanes = w.lanes := rfl

@[simp] theorem Wave.incCtr_s (w : Wave) (n : Nat) :
    (w.incCtr n).s = w.s := rfl

@[simp] theorem Wave.incCtr_stags (w : Wave) (n : Nat) :
    (w.incCtr n).stags = w.stags := rfl

@[simp] theorem Wave.incCtr_d (w : Wave) (n : Nat) :
    (w.incCtr n).d = sput 0 w.d n (w.ctr n + 1) := rfl

@[simp] theorem Wave.incCtr_wchg (w : Wave) (n : Nat) :
    (w.incCtr n).wchg = w.wchg := rfl

@[simp] theorem Wave.incCtr_chk (w : Wave) (n : Nat) :
    (w.incCtr n).chk = w.chk := rfl

@[simp] theorem Wave.incCtr_det (w : Wave) (n : Nat) :
    (w.incCtr n).det = w.det := rfl

@[simp] theorem Wave.incCtr_chkd (w : Wave) (n : Nat) :
    (w.incCtr n).chkd = w.chkd := rfl

@[simp] theorem Wave.incCtr_fpctl (w : Wave) (n : Nat) :
    (w.incCtr n).fpctl = w.fpctl := rfl

@[simp] theorem Wave.incCtr_fpstat (w : Wave) (n : Nat) :
    (w.incCtr n).fpstat = w.fpstat := rfl

@[simp] theorem Wave.incCtr_timer (w : Wave) (n : Nat) :
    (w.incCtr n).timer = w.timer := rfl

@[simp] theorem Wave.incCtr_tctl (w : Wave) (n : Nat) :
    (w.incCtr n).tctl = w.tctl := rfl

@[simp] theorem Wave.incCtr_ctxcyc (w : Wave) (n : Nat) :
    (w.incCtr n).ctxcyc = w.ctxcyc := rfl

@[simp] theorem Wave.incCtr_retcnt (w : Wave) (n : Nat) :
    (w.incCtr n).retcnt = w.retcnt := rfl

@[simp] theorem Wave.incCtr_retseen (w : Wave) (n : Nat) :
    (w.incCtr n).retseen = w.retseen := rfl

@[simp] theorem Wave.incCtr_tvec (w : Wave) (n : Nat) :
    (w.incCtr n).tvec = w.tvec := rfl

@[simp] theorem Wave.incCtr_tpc (w : Wave) (n : Nat) :
    (w.incCtr n).tpc = w.tpc := rfl

@[simp] theorem Wave.incCtr_tcause (w : Wave) (n : Nat) :
    (w.incCtr n).tcause = w.tcause := rfl

@[simp] theorem Wave.incCtr_tdet0 (w : Wave) (n : Nat) :
    (w.incCtr n).tdet0 = w.tdet0 := rfl

@[simp] theorem Wave.incCtr_tdet1 (w : Wave) (n : Nat) :
    (w.incCtr n).tdet1 = w.tdet1 := rfl

@[simp] theorem Wave.incCtr_tdet2 (w : Wave) (n : Nat) :
    (w.incCtr n).tdet2 = w.tdet2 := rfl

@[simp] theorem Wave.incCtr_sctx (w : Wave) (n : Nat) :
    (w.incCtr n).sctx = w.sctx := rfl

@[simp] theorem Wave.incCtr_cur (w : Wave) (n : Nat) :
    (w.incCtr n).cur = w.cur := rfl

@[simp] theorem Wave.incCtr_handler (w : Wave) (n : Nat) :
    (w.incCtr n).handler = w.handler := rfl

@[simp] theorem Wave.incCtr_resume (w : Wave) (n : Nat) :
    (w.incCtr n).resume = w.resume := rfl

@[simp] theorem Wave.incCtr_pend17 (w : Wave) (n : Nat) :
    (w.incCtr n).pend17 = w.pend17 := rfl

@[simp] theorem Wave.incCtr_pend19 (w : Wave) (n : Nat) :
    (w.incCtr n).pend19 = w.pend19 := rfl

@[simp] theorem Wave.incCtr_joins (w : Wave) (n : Nat) :
    (w.incCtr n).joins = w.joins := rfl

@[simp] theorem Wave.incCtr_slotNo (w : Wave) (n : Nat) :
    (w.incCtr n).slotNo = w.slotNo := rfl

@[simp] theorem Wave.incCtr_board (w : Wave) (n : Nat) :
    (w.incCtr n).board = w.board := rfl

@[simp] theorem Wave.incCtr_sysBoard (w : Wave) (n : Nat) :
    (w.incCtr n).sysBoard = w.sysBoard := rfl

@[simp] theorem Wave.incCtr_interlocks (w : Wave) (n : Nat) :
    (w.incCtr n).interlocks = w.interlocks := rfl

@[simp] theorem Wave.incCtr_outst (w : Wave) (n : Nat) :
    (w.incCtr n).outst = w.outst := rfl

@[simp] theorem Wave.incCtr_lent (w : Wave) (n : Nat) :
    (w.incCtr n).lent = w.lent := rfl

@[simp] theorem Wave.incCtr_engW (w : Wave) (n : Nat) :
    (w.incCtr n).engW = w.engW := rfl

@[simp] theorem Wave.incCtr_lasthdr (w : Wave) (n : Nat) :
    (w.incCtr n).lasthdr = w.lasthdr := rfl

@[simp] theorem Wave.incCtr_waitMask (w : Wave) (n : Nat) :
    (w.incCtr n).waitMask = w.waitMask := rfl

@[simp] theorem Wave.incCtr_stalled (w : Wave) (n : Nat) :
    (w.incCtr n).stalled = w.stalled := rfl

@[simp] theorem Wave.incCtr_dying (w : Wave) (n : Nat) :
    (w.incCtr n).dying = w.dying := rfl

@[simp] theorem Wave.incCtr_tlbiWait (w : Wave) (n : Nat) :
    (w.incCtr n).tlbiWait = w.tlbiWait := rfl

@[simp] theorem Wave.incCtr_passed (w : Wave) (n : Nat) :
    (w.incCtr n).passed = w.passed := rfl

@[simp] theorem Wave.incCtr_heldFor (w : Wave) (n : Nat) :
    (w.incCtr n).heldFor = w.heldFor := rfl

@[simp] theorem Wave.incCtr_resident (w : Wave) (n : Nat) :
    (w.incCtr n).resident = w.resident := rfl

@[simp] theorem Wave.incCtr_turnDone (w : Wave) (n : Nat) :
    (w.incCtr n).turnDone = w.turnDone := rfl

@[simp] theorem Wave.incCtr_saved (w : Wave) (n : Nat) :
    (w.incCtr n).saved = w.saved := rfl

@[simp] theorem Wave.decCtr_wid (w : Wave) (n : Nat) :
    (w.decCtr n).wid = w.wid := rfl

@[simp] theorem Wave.decCtr_slot (w : Wave) (n : Nat) :
    (w.decCtr n).slot = w.slot := rfl

@[simp] theorem Wave.decCtr_ctx (w : Wave) (n : Nat) :
    (w.decCtr n).ctx = w.ctx := rfl

@[simp] theorem Wave.decCtr_launch (w : Wave) (n : Nat) :
    (w.decCtr n).launch = w.launch := rfl

@[simp] theorem Wave.decCtr_group (w : Wave) (n : Nat) :
    (w.decCtr n).group = w.group := rfl

@[simp] theorem Wave.decCtr_index (w : Wave) (n : Nat) :
    (w.decCtr n).index = w.index := rfl

@[simp] theorem Wave.decCtr_steward (w : Wave) (n : Nat) :
    (w.decCtr n).steward = w.steward := rfl

@[simp] theorem Wave.decCtr_g (w : Wave) (n : Nat) :
    (w.decCtr n).g = w.g := rfl

@[simp] theorem Wave.decCtr_lanes (w : Wave) (n : Nat) :
    (w.decCtr n).lanes = w.lanes := rfl

@[simp] theorem Wave.decCtr_s (w : Wave) (n : Nat) :
    (w.decCtr n).s = w.s := rfl

@[simp] theorem Wave.decCtr_stags (w : Wave) (n : Nat) :
    (w.decCtr n).stags = w.stags := rfl

@[simp] theorem Wave.decCtr_d (w : Wave) (n : Nat) :
    (w.decCtr n).d = sput 0 w.d n (w.ctr n - 1) := rfl

@[simp] theorem Wave.decCtr_wchg (w : Wave) (n : Nat) :
    (w.decCtr n).wchg = w.wchg := rfl

@[simp] theorem Wave.decCtr_chk (w : Wave) (n : Nat) :
    (w.decCtr n).chk = w.chk := rfl

@[simp] theorem Wave.decCtr_det (w : Wave) (n : Nat) :
    (w.decCtr n).det = w.det := rfl

@[simp] theorem Wave.decCtr_chkd (w : Wave) (n : Nat) :
    (w.decCtr n).chkd = w.chkd := rfl

@[simp] theorem Wave.decCtr_fpctl (w : Wave) (n : Nat) :
    (w.decCtr n).fpctl = w.fpctl := rfl

@[simp] theorem Wave.decCtr_fpstat (w : Wave) (n : Nat) :
    (w.decCtr n).fpstat = w.fpstat := rfl

@[simp] theorem Wave.decCtr_timer (w : Wave) (n : Nat) :
    (w.decCtr n).timer = w.timer := rfl

@[simp] theorem Wave.decCtr_tctl (w : Wave) (n : Nat) :
    (w.decCtr n).tctl = w.tctl := rfl

@[simp] theorem Wave.decCtr_ctxcyc (w : Wave) (n : Nat) :
    (w.decCtr n).ctxcyc = w.ctxcyc := rfl

@[simp] theorem Wave.decCtr_retcnt (w : Wave) (n : Nat) :
    (w.decCtr n).retcnt = w.retcnt := rfl

@[simp] theorem Wave.decCtr_retseen (w : Wave) (n : Nat) :
    (w.decCtr n).retseen = w.retseen := rfl

@[simp] theorem Wave.decCtr_tvec (w : Wave) (n : Nat) :
    (w.decCtr n).tvec = w.tvec := rfl

@[simp] theorem Wave.decCtr_tpc (w : Wave) (n : Nat) :
    (w.decCtr n).tpc = w.tpc := rfl

@[simp] theorem Wave.decCtr_tcause (w : Wave) (n : Nat) :
    (w.decCtr n).tcause = w.tcause := rfl

@[simp] theorem Wave.decCtr_tdet0 (w : Wave) (n : Nat) :
    (w.decCtr n).tdet0 = w.tdet0 := rfl

@[simp] theorem Wave.decCtr_tdet1 (w : Wave) (n : Nat) :
    (w.decCtr n).tdet1 = w.tdet1 := rfl

@[simp] theorem Wave.decCtr_tdet2 (w : Wave) (n : Nat) :
    (w.decCtr n).tdet2 = w.tdet2 := rfl

@[simp] theorem Wave.decCtr_sctx (w : Wave) (n : Nat) :
    (w.decCtr n).sctx = w.sctx := rfl

@[simp] theorem Wave.decCtr_cur (w : Wave) (n : Nat) :
    (w.decCtr n).cur = w.cur := rfl

@[simp] theorem Wave.decCtr_handler (w : Wave) (n : Nat) :
    (w.decCtr n).handler = w.handler := rfl

@[simp] theorem Wave.decCtr_resume (w : Wave) (n : Nat) :
    (w.decCtr n).resume = w.resume := rfl

@[simp] theorem Wave.decCtr_pend17 (w : Wave) (n : Nat) :
    (w.decCtr n).pend17 = w.pend17 := rfl

@[simp] theorem Wave.decCtr_pend19 (w : Wave) (n : Nat) :
    (w.decCtr n).pend19 = w.pend19 := rfl

@[simp] theorem Wave.decCtr_joins (w : Wave) (n : Nat) :
    (w.decCtr n).joins = w.joins := rfl

@[simp] theorem Wave.decCtr_slotNo (w : Wave) (n : Nat) :
    (w.decCtr n).slotNo = w.slotNo := rfl

@[simp] theorem Wave.decCtr_board (w : Wave) (n : Nat) :
    (w.decCtr n).board = w.board := rfl

@[simp] theorem Wave.decCtr_sysBoard (w : Wave) (n : Nat) :
    (w.decCtr n).sysBoard = w.sysBoard := rfl

@[simp] theorem Wave.decCtr_interlocks (w : Wave) (n : Nat) :
    (w.decCtr n).interlocks = w.interlocks := rfl

@[simp] theorem Wave.decCtr_outst (w : Wave) (n : Nat) :
    (w.decCtr n).outst = w.outst := rfl

@[simp] theorem Wave.decCtr_lent (w : Wave) (n : Nat) :
    (w.decCtr n).lent = w.lent := rfl

@[simp] theorem Wave.decCtr_engW (w : Wave) (n : Nat) :
    (w.decCtr n).engW = w.engW := rfl

@[simp] theorem Wave.decCtr_lasthdr (w : Wave) (n : Nat) :
    (w.decCtr n).lasthdr = w.lasthdr := rfl

@[simp] theorem Wave.decCtr_waitMask (w : Wave) (n : Nat) :
    (w.decCtr n).waitMask = w.waitMask := rfl

@[simp] theorem Wave.decCtr_stalled (w : Wave) (n : Nat) :
    (w.decCtr n).stalled = w.stalled := rfl

@[simp] theorem Wave.decCtr_dying (w : Wave) (n : Nat) :
    (w.decCtr n).dying = w.dying := rfl

@[simp] theorem Wave.decCtr_tlbiWait (w : Wave) (n : Nat) :
    (w.decCtr n).tlbiWait = w.tlbiWait := rfl

@[simp] theorem Wave.decCtr_passed (w : Wave) (n : Nat) :
    (w.decCtr n).passed = w.passed := rfl

@[simp] theorem Wave.decCtr_heldFor (w : Wave) (n : Nat) :
    (w.decCtr n).heldFor = w.heldFor := rfl

@[simp] theorem Wave.decCtr_resident (w : Wave) (n : Nat) :
    (w.decCtr n).resident = w.resident := rfl

@[simp] theorem Wave.decCtr_turnDone (w : Wave) (n : Nat) :
    (w.decCtr n).turnDone = w.turnDone := rfl

@[simp] theorem Wave.decCtr_saved (w : Wave) (n : Nat) :
    (w.decCtr n).saved = w.saved := rfl

@[simp] theorem Wave.putS_wid (w : Wave) (n : Nat) (x : Word) :
    (w.putS n x).wid = w.wid := rfl

@[simp] theorem Wave.putS_slot (w : Wave) (n : Nat) (x : Word) :
    (w.putS n x).slot = w.slot := rfl

@[simp] theorem Wave.putS_ctx (w : Wave) (n : Nat) (x : Word) :
    (w.putS n x).ctx = w.ctx := rfl

@[simp] theorem Wave.putS_launch (w : Wave) (n : Nat) (x : Word) :
    (w.putS n x).launch = w.launch := rfl

@[simp] theorem Wave.putS_group (w : Wave) (n : Nat) (x : Word) :
    (w.putS n x).group = w.group := rfl

@[simp] theorem Wave.putS_index (w : Wave) (n : Nat) (x : Word) :
    (w.putS n x).index = w.index := rfl

@[simp] theorem Wave.putS_steward (w : Wave) (n : Nat) (x : Word) :
    (w.putS n x).steward = w.steward := rfl

@[simp] theorem Wave.putS_g (w : Wave) (n : Nat) (x : Word) :
    (w.putS n x).g = w.g := rfl

@[simp] theorem Wave.putS_lanes (w : Wave) (n : Nat) (x : Word) :
    (w.putS n x).lanes = w.lanes := rfl

@[simp] theorem Wave.putS_s (w : Wave) (n : Nat) (x : Word) :
    (w.putS n x).s = sput 0 w.s n x := rfl

@[simp] theorem Wave.putS_stags (w : Wave) (n : Nat) (x : Word) :
    (w.putS n x).stags = sput false w.stags (n / 4) false := rfl

@[simp] theorem Wave.putS_d (w : Wave) (n : Nat) (x : Word) :
    (w.putS n x).d = w.d := rfl

@[simp] theorem Wave.putS_wchg (w : Wave) (n : Nat) (x : Word) :
    (w.putS n x).wchg = w.wchg := rfl

@[simp] theorem Wave.putS_chk (w : Wave) (n : Nat) (x : Word) :
    (w.putS n x).chk = w.chk := rfl

@[simp] theorem Wave.putS_det (w : Wave) (n : Nat) (x : Word) :
    (w.putS n x).det = w.det := rfl

@[simp] theorem Wave.putS_chkd (w : Wave) (n : Nat) (x : Word) :
    (w.putS n x).chkd = w.chkd := rfl

@[simp] theorem Wave.putS_fpctl (w : Wave) (n : Nat) (x : Word) :
    (w.putS n x).fpctl = w.fpctl := rfl

@[simp] theorem Wave.putS_fpstat (w : Wave) (n : Nat) (x : Word) :
    (w.putS n x).fpstat = w.fpstat := rfl

@[simp] theorem Wave.putS_timer (w : Wave) (n : Nat) (x : Word) :
    (w.putS n x).timer = w.timer := rfl

@[simp] theorem Wave.putS_tctl (w : Wave) (n : Nat) (x : Word) :
    (w.putS n x).tctl = w.tctl := rfl

@[simp] theorem Wave.putS_ctxcyc (w : Wave) (n : Nat) (x : Word) :
    (w.putS n x).ctxcyc = w.ctxcyc := rfl

@[simp] theorem Wave.putS_retcnt (w : Wave) (n : Nat) (x : Word) :
    (w.putS n x).retcnt = w.retcnt := rfl

@[simp] theorem Wave.putS_retseen (w : Wave) (n : Nat) (x : Word) :
    (w.putS n x).retseen = w.retseen := rfl

@[simp] theorem Wave.putS_tvec (w : Wave) (n : Nat) (x : Word) :
    (w.putS n x).tvec = w.tvec := rfl

@[simp] theorem Wave.putS_tpc (w : Wave) (n : Nat) (x : Word) :
    (w.putS n x).tpc = w.tpc := rfl

@[simp] theorem Wave.putS_tcause (w : Wave) (n : Nat) (x : Word) :
    (w.putS n x).tcause = w.tcause := rfl

@[simp] theorem Wave.putS_tdet0 (w : Wave) (n : Nat) (x : Word) :
    (w.putS n x).tdet0 = w.tdet0 := rfl

@[simp] theorem Wave.putS_tdet1 (w : Wave) (n : Nat) (x : Word) :
    (w.putS n x).tdet1 = w.tdet1 := rfl

@[simp] theorem Wave.putS_tdet2 (w : Wave) (n : Nat) (x : Word) :
    (w.putS n x).tdet2 = w.tdet2 := rfl

@[simp] theorem Wave.putS_sctx (w : Wave) (n : Nat) (x : Word) :
    (w.putS n x).sctx = w.sctx := rfl

@[simp] theorem Wave.putS_cur (w : Wave) (n : Nat) (x : Word) :
    (w.putS n x).cur = w.cur := rfl

@[simp] theorem Wave.putS_handler (w : Wave) (n : Nat) (x : Word) :
    (w.putS n x).handler = w.handler := rfl

@[simp] theorem Wave.putS_resume (w : Wave) (n : Nat) (x : Word) :
    (w.putS n x).resume = w.resume := rfl

@[simp] theorem Wave.putS_pend17 (w : Wave) (n : Nat) (x : Word) :
    (w.putS n x).pend17 = w.pend17 := rfl

@[simp] theorem Wave.putS_pend19 (w : Wave) (n : Nat) (x : Word) :
    (w.putS n x).pend19 = w.pend19 := rfl

@[simp] theorem Wave.putS_joins (w : Wave) (n : Nat) (x : Word) :
    (w.putS n x).joins = w.joins := rfl

@[simp] theorem Wave.putS_slotNo (w : Wave) (n : Nat) (x : Word) :
    (w.putS n x).slotNo = w.slotNo := rfl

@[simp] theorem Wave.putS_board (w : Wave) (n : Nat) (x : Word) :
    (w.putS n x).board = w.board := rfl

@[simp] theorem Wave.putS_sysBoard (w : Wave) (n : Nat) (x : Word) :
    (w.putS n x).sysBoard = w.sysBoard := rfl

@[simp] theorem Wave.putS_interlocks (w : Wave) (n : Nat) (x : Word) :
    (w.putS n x).interlocks = w.interlocks := rfl

@[simp] theorem Wave.putS_outst (w : Wave) (n : Nat) (x : Word) :
    (w.putS n x).outst = w.outst := rfl

@[simp] theorem Wave.putS_lent (w : Wave) (n : Nat) (x : Word) :
    (w.putS n x).lent = w.lent := rfl

@[simp] theorem Wave.putS_engW (w : Wave) (n : Nat) (x : Word) :
    (w.putS n x).engW = w.engW := rfl

@[simp] theorem Wave.putS_lasthdr (w : Wave) (n : Nat) (x : Word) :
    (w.putS n x).lasthdr = w.lasthdr := rfl

@[simp] theorem Wave.putS_waitMask (w : Wave) (n : Nat) (x : Word) :
    (w.putS n x).waitMask = w.waitMask := rfl

@[simp] theorem Wave.putS_stalled (w : Wave) (n : Nat) (x : Word) :
    (w.putS n x).stalled = w.stalled := rfl

@[simp] theorem Wave.putS_dying (w : Wave) (n : Nat) (x : Word) :
    (w.putS n x).dying = w.dying := rfl

@[simp] theorem Wave.putS_tlbiWait (w : Wave) (n : Nat) (x : Word) :
    (w.putS n x).tlbiWait = w.tlbiWait := rfl

@[simp] theorem Wave.putS_passed (w : Wave) (n : Nat) (x : Word) :
    (w.putS n x).passed = w.passed := rfl

@[simp] theorem Wave.putS_heldFor (w : Wave) (n : Nat) (x : Word) :
    (w.putS n x).heldFor = w.heldFor := rfl

@[simp] theorem Wave.putS_resident (w : Wave) (n : Nat) (x : Word) :
    (w.putS n x).resident = w.resident := rfl

@[simp] theorem Wave.putS_turnDone (w : Wave) (n : Nat) (x : Word) :
    (w.putS n x).turnDone = w.turnDone := rfl

@[simp] theorem Wave.putS_saved (w : Wave) (n : Nat) (x : Word) :
    (w.putS n x).saved = w.saved := rfl

@[simp] theorem Wave.setTrapRegs_wid (w : Wave) (i : TrapInfo) (pc : Nat) :
    (w.setTrapRegs i pc).wid = w.wid := rfl

@[simp] theorem Wave.setTrapRegs_slot (w : Wave) (i : TrapInfo) (pc : Nat) :
    (w.setTrapRegs i pc).slot = w.slot := rfl

@[simp] theorem Wave.setTrapRegs_ctx (w : Wave) (i : TrapInfo) (pc : Nat) :
    (w.setTrapRegs i pc).ctx = w.ctx := rfl

@[simp] theorem Wave.setTrapRegs_launch (w : Wave) (i : TrapInfo) (pc : Nat) :
    (w.setTrapRegs i pc).launch = w.launch := rfl

@[simp] theorem Wave.setTrapRegs_group (w : Wave) (i : TrapInfo) (pc : Nat) :
    (w.setTrapRegs i pc).group = w.group := rfl

@[simp] theorem Wave.setTrapRegs_index (w : Wave) (i : TrapInfo) (pc : Nat) :
    (w.setTrapRegs i pc).index = w.index := rfl

@[simp] theorem Wave.setTrapRegs_steward (w : Wave) (i : TrapInfo) (pc : Nat) :
    (w.setTrapRegs i pc).steward = w.steward := rfl

@[simp] theorem Wave.setTrapRegs_g (w : Wave) (i : TrapInfo) (pc : Nat) :
    (w.setTrapRegs i pc).g = w.g := rfl

@[simp] theorem Wave.setTrapRegs_lanes (w : Wave) (i : TrapInfo) (pc : Nat) :
    (w.setTrapRegs i pc).lanes = w.lanes := rfl

@[simp] theorem Wave.setTrapRegs_s (w : Wave) (i : TrapInfo) (pc : Nat) :
    (w.setTrapRegs i pc).s = w.s := rfl

@[simp] theorem Wave.setTrapRegs_stags (w : Wave) (i : TrapInfo) (pc : Nat) :
    (w.setTrapRegs i pc).stags = w.stags := rfl

@[simp] theorem Wave.setTrapRegs_d (w : Wave) (i : TrapInfo) (pc : Nat) :
    (w.setTrapRegs i pc).d = w.d := rfl

@[simp] theorem Wave.setTrapRegs_wchg (w : Wave) (i : TrapInfo) (pc : Nat) :
    (w.setTrapRegs i pc).wchg = w.wchg := rfl

@[simp] theorem Wave.setTrapRegs_chk (w : Wave) (i : TrapInfo) (pc : Nat) :
    (w.setTrapRegs i pc).chk = w.chk := rfl

@[simp] theorem Wave.setTrapRegs_det (w : Wave) (i : TrapInfo) (pc : Nat) :
    (w.setTrapRegs i pc).det = w.det := rfl

@[simp] theorem Wave.setTrapRegs_chkd (w : Wave) (i : TrapInfo) (pc : Nat) :
    (w.setTrapRegs i pc).chkd = w.chkd := rfl

@[simp] theorem Wave.setTrapRegs_fpctl (w : Wave) (i : TrapInfo) (pc : Nat) :
    (w.setTrapRegs i pc).fpctl = w.fpctl := rfl

@[simp] theorem Wave.setTrapRegs_fpstat (w : Wave) (i : TrapInfo) (pc : Nat) :
    (w.setTrapRegs i pc).fpstat = w.fpstat := rfl

@[simp] theorem Wave.setTrapRegs_timer (w : Wave) (i : TrapInfo) (pc : Nat) :
    (w.setTrapRegs i pc).timer = w.timer := rfl

@[simp] theorem Wave.setTrapRegs_tctl (w : Wave) (i : TrapInfo) (pc : Nat) :
    (w.setTrapRegs i pc).tctl = w.tctl := rfl

@[simp] theorem Wave.setTrapRegs_ctxcyc (w : Wave) (i : TrapInfo) (pc : Nat) :
    (w.setTrapRegs i pc).ctxcyc = w.ctxcyc := rfl

@[simp] theorem Wave.setTrapRegs_retcnt (w : Wave) (i : TrapInfo) (pc : Nat) :
    (w.setTrapRegs i pc).retcnt = w.retcnt := rfl

@[simp] theorem Wave.setTrapRegs_retseen (w : Wave) (i : TrapInfo) (pc : Nat) :
    (w.setTrapRegs i pc).retseen = w.retseen := rfl

@[simp] theorem Wave.setTrapRegs_tvec (w : Wave) (i : TrapInfo) (pc : Nat) :
    (w.setTrapRegs i pc).tvec = w.tvec := rfl

@[simp] theorem Wave.setTrapRegs_tpc (w : Wave) (i : TrapInfo) (pc : Nat) :
    (w.setTrapRegs i pc).tpc = BitVec.ofNat 64 pc := rfl

@[simp] theorem Wave.setTrapRegs_tcause (w : Wave) (i : TrapInfo) (pc : Nat) :
    (w.setTrapRegs i pc).tcause = w32 (i.group * 2048 + i.code) := rfl

@[simp] theorem Wave.setTrapRegs_tdet0 (w : Wave) (i : TrapInfo) (pc : Nat) :
    (w.setTrapRegs i pc).tdet0 = i.d0 := rfl

@[simp] theorem Wave.setTrapRegs_tdet1 (w : Wave) (i : TrapInfo) (pc : Nat) :
    (w.setTrapRegs i pc).tdet1 = i.d1 := rfl

@[simp] theorem Wave.setTrapRegs_tdet2 (w : Wave) (i : TrapInfo) (pc : Nat) :
    (w.setTrapRegs i pc).tdet2 = i.d2 := rfl

@[simp] theorem Wave.setTrapRegs_sctx (w : Wave) (i : TrapInfo) (pc : Nat) :
    (w.setTrapRegs i pc).sctx = w.sctx := rfl

@[simp] theorem Wave.setTrapRegs_cur (w : Wave) (i : TrapInfo) (pc : Nat) :
    (w.setTrapRegs i pc).cur = w.cur := rfl

@[simp] theorem Wave.setTrapRegs_handler (w : Wave) (i : TrapInfo) (pc : Nat) :
    (w.setTrapRegs i pc).handler = w.handler := rfl

@[simp] theorem Wave.setTrapRegs_resume (w : Wave) (i : TrapInfo) (pc : Nat) :
    (w.setTrapRegs i pc).resume = w.resume := rfl

@[simp] theorem Wave.setTrapRegs_pend17 (w : Wave) (i : TrapInfo) (pc : Nat) :
    (w.setTrapRegs i pc).pend17 = w.pend17 := rfl

@[simp] theorem Wave.setTrapRegs_pend19 (w : Wave) (i : TrapInfo) (pc : Nat) :
    (w.setTrapRegs i pc).pend19 = w.pend19 := rfl

@[simp] theorem Wave.setTrapRegs_joins (w : Wave) (i : TrapInfo) (pc : Nat) :
    (w.setTrapRegs i pc).joins = w.joins := rfl

@[simp] theorem Wave.setTrapRegs_slotNo (w : Wave) (i : TrapInfo) (pc : Nat) :
    (w.setTrapRegs i pc).slotNo = w.slotNo := rfl

@[simp] theorem Wave.setTrapRegs_board (w : Wave) (i : TrapInfo) (pc : Nat) :
    (w.setTrapRegs i pc).board = w.board := rfl

@[simp] theorem Wave.setTrapRegs_sysBoard (w : Wave) (i : TrapInfo) (pc : Nat) :
    (w.setTrapRegs i pc).sysBoard = w.sysBoard.filter (fun e => decide (e.reg ≠ .tpc)) := rfl

@[simp] theorem Wave.setTrapRegs_interlocks (w : Wave) (i : TrapInfo) (pc : Nat) :
    (w.setTrapRegs i pc).interlocks = w.interlocks := rfl

@[simp] theorem Wave.setTrapRegs_outst (w : Wave) (i : TrapInfo) (pc : Nat) :
    (w.setTrapRegs i pc).outst = w.outst := rfl

@[simp] theorem Wave.setTrapRegs_lent (w : Wave) (i : TrapInfo) (pc : Nat) :
    (w.setTrapRegs i pc).lent = w.lent := rfl

@[simp] theorem Wave.setTrapRegs_engW (w : Wave) (i : TrapInfo) (pc : Nat) :
    (w.setTrapRegs i pc).engW = w.engW := rfl

@[simp] theorem Wave.setTrapRegs_lasthdr (w : Wave) (i : TrapInfo) (pc : Nat) :
    (w.setTrapRegs i pc).lasthdr = w.lasthdr := rfl

@[simp] theorem Wave.setTrapRegs_waitMask (w : Wave) (i : TrapInfo) (pc : Nat) :
    (w.setTrapRegs i pc).waitMask = w.waitMask := rfl

@[simp] theorem Wave.setTrapRegs_stalled (w : Wave) (i : TrapInfo) (pc : Nat) :
    (w.setTrapRegs i pc).stalled = w.stalled := rfl

@[simp] theorem Wave.setTrapRegs_dying (w : Wave) (i : TrapInfo) (pc : Nat) :
    (w.setTrapRegs i pc).dying = w.dying := rfl

@[simp] theorem Wave.setTrapRegs_tlbiWait (w : Wave) (i : TrapInfo) (pc : Nat) :
    (w.setTrapRegs i pc).tlbiWait = w.tlbiWait := rfl

@[simp] theorem Wave.setTrapRegs_passed (w : Wave) (i : TrapInfo) (pc : Nat) :
    (w.setTrapRegs i pc).passed = w.passed := rfl

@[simp] theorem Wave.setTrapRegs_heldFor (w : Wave) (i : TrapInfo) (pc : Nat) :
    (w.setTrapRegs i pc).heldFor = w.heldFor := rfl

@[simp] theorem Wave.setTrapRegs_resident (w : Wave) (i : TrapInfo) (pc : Nat) :
    (w.setTrapRegs i pc).resident = w.resident := rfl

@[simp] theorem Wave.setTrapRegs_turnDone (w : Wave) (i : TrapInfo) (pc : Nat) :
    (w.setTrapRegs i pc).turnDone = w.turnDone := rfl

@[simp] theorem Wave.setTrapRegs_saved (w : Wave) (i : TrapInfo) (pc : Nat) :
    (w.setTrapRegs i pc).saved = w.saved := rfl

end Sys2Proof.Machine
end

