-- ==== Sys2Proof/Laws/Ops.lean ====
section
/-!
SUPPORT. Sys2Proof/Laws/Ops.lean: what the checks of every word, the writing of results and retiring do; one
lemma for each shared operation.
-/

namespace Sys2Proof.Machine

open Sys2Proof

/-! ### The checks that every word passes -/

theorem State.checked_of_ready {s : State} {u : Uses} (k : State → Out)
    (h1 : s.wave.checking = true → s.wave.schedFault u = none)
    (h2 : s.wave.checking = true → s.wave.lentFault u = none) : s.checked u k = k s := by
  unfold State.checked
  split
  · next h => simp [h1 h, h2 h]
  · rfl

/-- A ready word executes on the state whose wait mask is met. -/
theorem State.gate_of_ready {s : State} {u : Uses} (h : s.Ready u) (k : State → Out) :
    s.gate u k = k s.met := by
  have hr : (s.onWave Wave.meetMask).wave.rangeFault u = none := h.room
  unfold State.gate
  simp only [h.free, hr]
  exact checked_of_ready k h.sched h.lent

theorem State.gateOpen_of_open {s : State} {u : Uses} (h : s.Open u) (k : State → Out) :
    s.gateOpen u k = k s.met := by
  unfold State.gateOpen
  simp only [h.free]
  exact checked_of_ready k h.sched h.lent

@[simp] theorem State.met_wave (s : State) : s.met.wave = s.wave.meetMask := rfl
@[simp] theorem State.met_core (s : State) : s.met.core = s.core := rfl
@[simp] theorem State.met_mem (s : State) : s.met.mem = s.mem := rfl
@[simp] theorem State.met_fresh (s : State) : s.met.fresh = s.fresh := rfl
@[simp] theorem Wave.meetMask_anyActive (w : Wave) : w.meetMask.anyActive = w.anyActive := rfl
@[simp] theorem Wave.meetMask_activeLanes (w : Wave) : w.meetMask.activeLanes = w.activeLanes := rfl
@[simp] theorem Wave.meetMask_lowest (w : Wave) : w.meetMask.lowest = w.lowest := rfl
@[simp] theorem Wave.meetMask_fib (w : Wave) (l : Nat) : w.meetMask.fib l = w.fib l := rfl
@[simp] theorem Wave.meetMask_pc (w : Wave) : w.meetMask.pc = w.pc := rfl

/-! ### Computing -/

theorem orFlags_zero (ls : List Nat) (r : Nat → LaneRes) (h : ∀ l, (r l).flags = 0) : orFlags ls r = 0 := by
  unfold orFlags
  induction ls with
  | nil => rfl
  | cons l ls ih => simp only [List.foldl_cons, h l]; exact ih

theorem arithTrap_zero (c : Word) (ls : List Nat) (r : Nat → LaneRes) (h : ∀ l, (r l).flags = 0) :
    arithTrap c ls r = none := by
  unfold arithTrap
  rw [List.findSome?_eq_none_iff]
  intro l _
  simp [h l]

@[simp] theorem Wave.mergeFlags_zero (w : Wave) : w.mergeFlags 0 = w := by
  simp [Wave.mergeFlags]

theorem Wave.writeDest_val (w : Wave) (lat : Nat) (d : Dest) (r : Nat → LaneRes) :
    w.writeDest lat d r = w.writeDest lat d (fun l => { val := (r l).val }) := by
  cases d <;> rfl

/-- A ready ALU word that raises no enabled arithmetic trap writes its destination, merges its flags and
retires. -/
theorem State.alu_of_ready {s : State} (st : Stall) (lat : Nat) {d : Dest} {u : Uses}
    (r : State → Nat → LaneRes) (h : s.Ready (d.uses.plus u))
    (ht : arithTrap s.wave.fpctl s.wave.activeLanes (r s.met) = none) :
    s.alu st lat d u r
      = .next (s.wrote st lat d (fun l => (r s.met l).val) (orFlags s.wave.activeLanes (r s.met))) := by
  have ht' : arithTrap s.met.wave.fpctl s.met.wave.activeLanes (r s.met) = none := ht
  unfold State.alu
  rw [State.gate_of_ready h]
  unfold State.compute
  simp only [ht', State.retire, State.wrote]
  congr 2

/-- A ready ALU word whose lanes raise no flag. -/
theorem State.alu_noFlag {s : State} (st : Stall) (lat : Nat) {d : Dest} {u : Uses}
    (r : State → Nat → LaneRes) (h : s.Ready (d.uses.plus u)) (hf : ∀ l, (r s.met l).flags = 0) :
    s.alu st lat d u r = .next (s.wrote st lat d (fun l => (r s.met l).val)) := by
  rw [State.alu_of_ready st lat r h (arithTrap_zero _ _ _ hf), orFlags_zero _ _ hf]

end Sys2Proof.Machine
end

