-- ==== Sys2Proof/Laws/Regs.lean ====
section
/-!
SUPPORT. Sys2Proof/Laws/Regs.lean: what writing a result and passing on to the next word leave in each lane's
registers.
-/

namespace Sys2Proof.Machine

open Sys2Proof

/-! ### Lanes -/

theorem Wave.fib_of_le {w : Wave} {l : Nat} (h : w.lanes.length ≤ l) : w.fib l = {} := by
  simp [Wave.fib, List.getD_eq_getElem?_getD, List.getElem?_eq_none h]

theorem Wave.fib_mapLanes (w : Wave) (f : Nat → Fibre → Fibre) (l : Nat) :
    (w.mapLanes f).fib l = if l < w.lanes.length then f l (w.fib l) else {} := by
  unfold Wave.mapLanes Wave.fib
  simp only [List.getD_eq_getElem?_getD, List.getElem?_mapIdx]
  by_cases h : l < w.lanes.length
  · simp [h]
  · simp [h]

theorem Wave.fib_onActive (w : Wave) (f : Nat → Fibre → Fibre) (l : Nat) :
    (w.onActive f).fib l = if (w.fib l).active then f l (w.fib l) else w.fib l := by
  unfold Wave.onActive
  rw [Wave.fib_mapLanes]
  by_cases h : l < w.lanes.length
  · simp [h]
  · have e : w.fib l = {} := Wave.fib_of_le (Nat.le_of_not_lt h)
    simp only [h, if_false, e]
    rfl

@[simp] theorem Wave.mapLanes_lanes_length (w : Wave) (f : Nat → Fibre → Fibre) :
    (w.mapLanes f).lanes.length = w.lanes.length := by simp [Wave.mapLanes]

/-- The lanes of a wave depend on its list of lanes alone. -/
theorem Wave.fib_congr {w v : Wave} (h : w.lanes = v.lanes) (l : Nat) : w.fib l = v.fib l := by
  simp [Wave.fib, h]

/-- A wave whose lanes are changed only in ways that keep a field keeps the field of every lane. -/
theorem Wave.field_mapLanes {α : Type} (w : Wave) (f : Nat → Fibre → Fibre) (g : Fibre → α)
    (h : ∀ l x, g (f l x) = g x) (l : Nat) : g ((w.mapLanes f).fib l) = g (w.fib l) := by
  rw [Wave.fib_mapLanes]
  by_cases hl : l < w.lanes.length
  · simp [hl, h]
  · simp [hl, Wave.fib_of_le (Nat.le_of_not_lt hl)]

/-! ### Passing on to the next word -/

/-- What passing a word leaves of a fibre. -/
structure Fibre.SameRegs (f g : Fibre) : Prop where
  v     : g.v = f.v
  vtags : g.vtags = f.vtags
  preds : g.preds = f.preds
  base  : g.base = f.base
  alloc : g.alloc = f.alloc
  fibid : g.fibid = f.fibid
  lvl   : g.lvl = f.lvl
  slim  : g.slim = f.slim
  frames : g.frames = f.frames
  present : g.present = f.present
  run   : g.run = f.run

theorem Fibre.SameRegs.refl (f : Fibre) : f.SameRegs f := ⟨rfl, rfl, rfl, rfl, rfl, rfl, rfl, rfl, rfl, rfl, rfl⟩

theorem Fibre.SameRegs.trans {f g h : Fibre} (a : f.SameRegs g) (b : g.SameRegs h) : f.SameRegs h :=
  ⟨b.1.trans a.1, b.2.trans a.2, b.3.trans a.3, b.4.trans a.4, b.5.trans a.5, b.6.trans a.6, b.7.trans a.7,
    b.8.trans a.8, b.9.trans a.9, b.10.trans a.10, b.11.trans a.11⟩

theorem Fibre.sameRegs_advance (c : Option ClauseBuf) (f : Fibre) : f.SameRegs (f.advance c) := by
  unfold Fibre.advance
  split
  · split <;> exact ⟨rfl, rfl, rfl, rfl, rfl, rfl, rfl, rfl, rfl, rfl, rfl⟩
  · exact ⟨rfl, rfl, rfl, rfl, rfl, rfl, rfl, rfl, rfl, rfl, rfl⟩

theorem Wave.sameRegs_mapLanes (w : Wave) (f : Nat → Fibre → Fibre) (h : ∀ l (x : Fibre), x.SameRegs (f l x))
    (l : Nat) : (w.fib l).SameRegs ((w.mapLanes f).fib l) := by
  rw [Wave.fib_mapLanes]
  by_cases hl : l < w.lanes.length
  · simp only [hl, if_true]
    exact h l _
  · simp only [hl, if_false, Wave.fib_of_le (Nat.le_of_not_lt hl)]
    exact Fibre.SameRegs.refl _

theorem Wave.sameRegs_closeClause (w : Wave) (l : Nat) : (w.fib l).SameRegs (w.closeClause.fib l) := by
  have : w.closeClause.fib l = (w.mapLanes (fun _ f =>
      if f.inSet then { f with inSet := false, spans := [], clause := none } else f)).fib l := rfl
  rw [this]
  apply Wave.sameRegs_mapLanes
  intro _ x
  split
  · exact ⟨rfl, rfl, rfl, rfl, rfl, rfl, rfl, rfl, rfl, rfl, rfl⟩
  · exact Fibre.SameRegs.refl _

theorem Wave.fib_leaveClause (w : Wave) (l : Nat) : w.leaveClause.fib l = w.fib l := by
  unfold Wave.leaveClause
  split <;> rfl

/-- Passing on to the next word changes no register, predicate, tag, window, stack or run state. -/
theorem Wave.sameRegs_next (w : Wave) (st : Stall) (l : Nat) :
    (w.fib l).SameRegs ((w.next st).fib l) := by
  have hm : (w.fib l).SameRegs (((w.tick st).mapLanes
      (fun _ f => if f.inSet then f.advance w.cur else f)).fib l) := by
    refine Wave.sameRegs_mapLanes (w.tick st) _ ?_ l
    intro _ x
    split
    · exact Fibre.sameRegs_advance _ _
    · exact Fibre.SameRegs.refl _
  unfold Wave.next
  simp only
  split
  · exact hm.trans (Wave.sameRegs_closeClause _ l)
  · rw [Wave.fib_leaveClause]
    exact hm

/-- Every other field that a word which passes leaves as it is. -/
structure Wave.SameBut (w v : Wave) : Prop where
  wid : v.wid = w.wid
  slot : v.slot = w.slot
  ctx : v.ctx = w.ctx
  launch : v.launch = w.launch
  group : v.group = w.group
  steward : v.steward = w.steward
  g : v.g = w.g
  det : v.det = w.det
  chkd : v.chkd = w.chkd
  chk : v.chk = w.chk
  wchg : v.wchg = w.wchg
  s : v.s = w.s
  stags : v.stags = w.stags
  d : v.d = w.d
  fpctl : v.fpctl = w.fpctl
  fpstat : v.fpstat = w.fpstat
  timer : v.timer = w.timer
  tctl : v.tctl = w.tctl
  tvec : v.tvec = w.tvec
  tpc : v.tpc = w.tpc
  tcause : v.tcause = w.tcause
  tdet0 : v.tdet0 = w.tdet0
  tdet1 : v.tdet1 = w.tdet1
  tdet2 : v.tdet2 = w.tdet2
  sctx : v.sctx = w.sctx
  handler : v.handler = w.handler
  resume : v.resume = w.resume
  joins : v.joins = w.joins
  outst : v.outst = w.outst
  lent : v.lent = w.lent
  interlocks : v.interlocks = w.interlocks
  waitMask : v.waitMask = w.waitMask

theorem Wave.sameBut_next (w : Wave) (st : Stall) : w.SameBut (w.next st) := by
  unfold Wave.next
  simp only
  split
  · constructor <;> rfl
  · unfold Wave.leaveClause
    split <;> constructor <;> rfl

/-! ### Writing a result -/

theorem Wave.supersede_lanes (w : Wave) (xs : List (RegFile × Nat × Nat)) : (w.supersede xs).lanes = w.lanes := by
  unfold Wave.supersede
  split <;> rfl

theorem Wave.supersede_s (w : Wave) (xs : List (RegFile × Nat × Nat)) : (w.supersede xs).s = w.s := by
  unfold Wave.supersede
  split <;> rfl

theorem Wave.supersede_stags (w : Wave) (xs : List (RegFile × Nat × Nat)) : (w.supersede xs).stags = w.stags := by
  unfold Wave.supersede
  split <;> rfl

/-- A V destination: the active lanes' register, and nothing else of any lane. -/
theorem Wave.fib_writeV (w : Wave) (lat n : Nat) (val : Nat → Word) (l : Nat) :
    (w.writeV lat n val).fib l
      = if (w.fib l).active then (w.fib l).putV ((w.fib l).base + n) (val l) else w.fib l := by
  have e : (w.writeV lat n val).fib l = ((w.supersede (w.activeLanes.map (fun l =>
      (RegFile.v, l, (w.fib l).base + n)))).onActive (fun l f => f.putV (f.base + n) (val l))).fib l := rfl
  rw [e, Wave.fib_onActive]
  have h : (w.supersede (w.activeLanes.map (fun l => (RegFile.v, l, (w.fib l).base + n)))).fib l = w.fib l :=
    Wave.fib_congr (Wave.supersede_lanes _ _) l
  rw [h]

/-- A P destination: the active lanes' predicate, and nothing else of any lane. -/
theorem Wave.fib_writeP (w : Wave) (lat p : Nat) (val : Nat → Bool) (l : Nat) :
    (w.writeP lat p val).fib l
      = if (w.fib l).active then (w.fib l).setPred p (val l) else w.fib l := by
  by_cases hp : p = 0
  · subst hp
    simp [Wave.writeP, Fibre.setPred]
  · have e : (w.writeP lat p val).fib l = ((w.supersede (w.activeLanes.map (fun l =>
        (RegFile.p, l, p)))).onActive (fun l f => f.setPred p (val l))).fib l := by
      unfold Wave.writeP
      simp only [hp, if_false]
      rfl
    rw [e, Wave.fib_onActive]
    have h : (w.supersede (w.activeLanes.map (fun l => (RegFile.p, l, p)))).fib l = w.fib l :=
      Wave.fib_congr (Wave.supersede_lanes _ _) l
    rw [h]

/-- An S destination changes no lane. -/
theorem Wave.fib_writeS (w : Wave) (lat n : Nat) (x : Word) (l : Nat) : (w.writeS lat n x).fib l = w.fib l := by
  unfold Wave.writeS
  split
  · exact Wave.fib_congr (Wave.supersede_lanes _ _) l
  · rfl

theorem Wave.sreg_writeS (w : Wave) (lat n m : Nat) (x : Word) (h : w.anyActive = true) :
    (w.writeS lat n x).sreg m = if n = m then x else w.sreg m := by
  unfold Wave.writeS
  simp only [h, if_true]
  show sget 0 (sput 0 (w.supersede [(RegFile.s, 0, n)]).s n x) m = _
  rw [Wave.supersede_s, sget_sput]
  rfl

theorem Fibre.reg_putV (f : Fibre) (r q : Nat) (x : Word) :
    (f.putV r x).reg q = if r = q then x else f.reg q := by
  show sget 0 (sput 0 f.v r x) q = _
  rw [sget_sput]
  rfl

theorem Fibre.pred_setPred (f : Fibre) (p q : Nat) (b : Bool) :
    (f.setPred p b).pred q = if p = q ∧ q ≠ 0 then b else f.pred q := by
  unfold Fibre.setPred Fibre.pred
  by_cases hp : p = 0
  · subst hp
    by_cases hq : q = 0
    · simp [hq]
    · have : ¬ (0 = q) := Ne.symm hq
      simp [hq, this]
  · by_cases hq : q = 0
    · simp [hp, hq]
    · by_cases h : p = q
      · subst h
        simp [hp]
      · simp [hp, hq, h, sget_sput_of_ne]

end Sys2Proof.Machine
end

