-- ==== Sys2Proof/Laws/SaveImage.lean ====
section
/-!
SUPPORT. Sys2Proof/Laws/SaveImage.lean: the records of a save image have the sizes of 21 R394 to R396.
-/

namespace Sys2Proof.Machine

open Sys2Proof

/-- A flatMap whose parts all have one length. -/
theorem flatMap_length {α : Type} (f : α → List Byte) (k : Nat) (h : ∀ x, (f x).length = k) (l : List α) :
    (l.flatMap f).length = k * l.length := by
  induction l with
  | nil => simp
  | cons x xs ih => simp [h, ih, Nat.mul_add, Nat.add_comm]

/-- 21 R392: an image header is 64 bytes. -/
theorem State.imageHeader_length (s : State) (i : Image) (ctx : Nat) : (s.imageHeader i ctx).length = 64 := by
  unfold State.imageHeader
  exact bytesOf_length _ _

/-- 21 R395: a fibre record is 32 bytes. -/
theorem Fibre.record_length (f : Fibre) : f.record.length = 32 := by
  unfold Fibre.record
  exact bytesOf_length _ _

theorem Wave.boardBytes_length (w : Wave) : w.boardBytes.length = 96 := by
  unfold Wave.boardBytes
  rw [flatMap_length _ 2 (fun x => bytesOf_length _ _)]
  simp <;> omega

theorem Wave.rec19_length (w : Wave) : w.rec19.length = 32 := by
  unfold Wave.rec19
  split
  · simp
  · simp [FaultRecord.bytes, bytesOf_length]

/-- 21 R394: a wave record is 1,152 bytes. -/
theorem Wave.record_length (w : Wave) (i : Image) : (w.record i).length = 1152 := by
  have h1 : ∀ w : Wave, ((List.range 64).flatMap (fun n => bytesOf (w.sreg n).toNat 4)).length = 4 * 64 := fun w => by
    rw [flatMap_length _ 4 (fun x => bytesOf_length _ _), List.length_range]
  have h2 : ((List.range 6).flatMap (fun n => bytesOf (w.ctr n) 1)).length = 1 * 6 := by
    rw [flatMap_length _ 1 (fun x => bytesOf_length _ _), List.length_range]
  have h3 : ((List.range 8).flatMap (fun j => bytesOf (((w.joins[j]?).map (fun r => r.id.toNat)).getD 0) 1)).length
      = 1 * 8 := by
    rw [flatMap_length _ 1 (fun x => bytesOf_length _ _), List.length_range]
  have h4 : ((List.range 8).flatMap w.joinBytes).length = 64 * 8 := by
    rw [flatMap_length _ 64 (fun x => by unfold Wave.joinBytes; split <;> simp [maskBytes, bytesOf_length]), List.length_range]
  unfold Wave.record
  simp only [List.length_append, h1, h2, h3, h4, bytesOf_length, Wave.boardBytes_length, Wave.rec19_length,
    Wave.rguards, List.length_replicate]

/-- 21 R396: a group record is 1,024 bytes. -/
theorem Group.record_length (g : Group) (n : Nat) : (g.record n).length = 1024 := by
  have h1 : ((List.range 64).flatMap (fun k => bytesOf (g.bars.getD k 0) 4)).length = 4 * 64 := by
    rw [flatMap_length _ 4 (fun x => bytesOf_length _ _), List.length_range]
  have h2 : ((List.range 8).flatMap (fun k =>
      ((g.binds[k]?).map Binding.record).getD (List.replicate 32 0))).length = 32 * 8 := by
    rw [flatMap_length _ 32 (fun x => by cases g.binds[x]? <;> simp [Binding.record, bytesOf_length]), List.length_range]
  unfold Group.record
  simp only [List.length_append, h1, h2, bytesOf_length, List.length_replicate]

end Sys2Proof.Machine
end

