-- ==== Sys2Proof/Tests/Slice0.lean ====
section
/-!
SUPPORT. Sys2Proof/Tests/Slice0.lean: ill-formed terms that the checks refuse, words written out and what they
decode to, single steps with results worked out from the spec, and for each statement states that meet its
hypotheses.
-/

namespace Sys2Proof.Tests

open Sys2Proof Sys2Proof.Machine

set_option maxRecDepth 20000

/-! ### Ill-formed terms, one for each check of Instr.wellFormed, and well-formed neighbours -/

/-- 03 R54: an odd register in a pair field of an arithmetic word. -/
theorem test_wf_odd_pair :
    Instr.wellFormed (.dadd 0 1 2 4) = false ∧ Instr.wellFormed (.dsub 0 2 3 4) = false
    ∧ Instr.wellFormed (.dmul 0 2 4 5) = false ∧ Instr.wellFormed (.dmin 0 3 4 6) = false
    ∧ Instr.wellFormed (.dmax 0 2 5 6) = false ∧ Instr.wellFormed (.dabs 0 2 3) = false
    ∧ Instr.wellFormed (.dneg 0 3 2) = false ∧ Instr.wellFormed (.dcmp 0 .eq 1 2 3) = false
    ∧ Instr.wellFormed (.dfma 0 2 4 6 7) = false ∧ Instr.wellFormed (.add64 0 2 4 7) = false
    ∧ Instr.wellFormed (.sub64 0 2 5 6) = false ∧ Instr.wellFormed (.cmp64 0 .ne 1 3 4) = false
    ∧ Instr.wellFormed (.lea 0 1 3 4 5) = false ∧ Instr.wellFormed (.lea 0 1 4 2 5) = true
    ∧ Instr.wellFormed (.cvt 0 .f64 .rne .f32 3 4) = false ∧ Instr.wellFormed (.cvt 0 .f32 .rne .i64 2 5) = false
    ∧ Instr.wellFormed (.cvt 0 .f32 .rne .f16 3 5) = true := by decide

/-- 03 R54: an odd register in a pair field, or a quad field that is no multiple of 4, of a memory word. -/
theorem test_wf_memory :
    Instr.wellFormed (.ld 0 .n64 .fibre 3 1 ⟨false, 1⟩ 0) = false
    ∧ Instr.wellFormed (.ld 0 .n32 .fibre 3 1 ⟨false, 1⟩ 0) = true
    ∧ Instr.wellFormed (.ldnr 0 .n64 .fibre 5 1 ⟨false, 1⟩ 0) = false
    ∧ Instr.wellFormed (.store 0 .n64nt .fibre 5 1 ⟨false, 1⟩ 0) = false
    ∧ Instr.wellFormed (.vldN64 0 5 .own ⟨false, 1⟩ 0) = false
    ∧ Instr.wellFormed (.vldCap 0 6 .own ⟨false, 1⟩ 0) = false
    ∧ Instr.wellFormed (.vstN64 0 7 .own ⟨false, 1⟩ 0) = false
    ∧ Instr.wellFormed (.vstCap 0 2 .own ⟨false, 1⟩ 0) = false
    ∧ Instr.wellFormed (.ldaN64 0 .fibre 1 1 ⟨false, 1⟩ 0) = false
    ∧ Instr.wellFormed (.stlN64 0 .fibre 1 1 ⟨false, 1⟩ 0) = false
    ∧ Instr.wellFormed (.gathN64 0 .fibre 1 1 ⟨false, 1⟩ 0) = false
    ∧ Instr.wellFormed (.scatN64 0 .fibre 1 1 ⟨false, 1⟩ 0) = false
    ∧ Instr.wellFormed (.kvalloc 0 .fibre 1 1 ⟨false, 1⟩ 0) = false
    ∧ Instr.wellFormed (.kvset 0 .fibre 1 1 ⟨false, 1⟩ 0) = false
    ∧ Instr.wellFormed (.vmap 0 .fibre 1 1 1 0) = false
    ∧ Instr.wellFormed (.cgetBase 0 1 1) = false ∧ Instr.wellFormed (.cgetLen 0 1 1) = false
    ∧ Instr.wellFormed (.cgetPerm 0 1 1) = true := by decide

/-- 03 R73: type .f32 has no .and, .or, .xor or .cas. -/
theorem test_wf_float_atomic :
    Instr.wellFormed (.atom 0 .f32 .cas .device 2 1 1 0) = false
    ∧ Instr.wellFormed (.ared 0 .f32 .bitAnd .device 2 1 1 0) = false
    ∧ Instr.wellFormed (.atom 0 .n32 .cas .device 2 1 1 0) = true := by decide

/-- 03 R71, 07 R166, 10 R215, R223: a WHEN of no word or of 15, LTEST at P15, a BRP that is BRA's word, and eight
values from V57 up. -/
theorem test_wf_ranges :
    Instr.wellFormed (.whenP 0 1 true 0) = false ∧ Instr.wellFormed (.whenP 0 1 true 15) = false
    ∧ Instr.wellFormed (.whenP 0 1 true 14) = true
    ∧ Instr.wellFormed (.ltest 0 1 15 1 false) = false ∧ Instr.wellFormed (.ltest 0 1 14 1 false) = true
    ∧ Instr.wellFormed (.brp 0 0 false 1) = false ∧ Instr.wellFormed (.brp 0 0 true 1) = true
    ∧ Instr.wellFormed (.fork 0 1 1 57) = false ∧ Instr.wellFormed (.spawn 0 1 1 57) = false
    ∧ Instr.wellFormed (.spawn 0 1 1 56) = true := by decide

/-- 03 R62, R75, 20 R386, R387: a counter read by the general SRD row, a read-only register written, a 64-bit register
at an odd pair, a TLBI of a scope it does not have. -/
theorem test_wf_system :
    Instr.wellFormed (.srd 0 2 .ctxcyc) = false ∧ Instr.wellFormed (.srd 0 3 .tpc) = false
    ∧ Instr.wellFormed (.srd 0 3 .fpstat) = true
    ∧ Instr.wellFormed (.swr 0 2 .grant) = false ∧ Instr.wellFormed (.swr 0 3 .ssave) = false
    ∧ Instr.wellFormed (.swr 0 3 .sctx) = true
    ∧ Instr.wellFormed (.cnt 0 3 .retcnt) = false ∧ Instr.wellFormed (.swrSlim 0 3) = false
    ∧ Instr.wellFormed (.srdCounter 0 3 .retcnt) = false
    ∧ Instr.wellFormed (.tlbiPage 0 .fibre 2 6) = false ∧ Instr.wellFormed (.tlbiCtx 0 .domain 6) = false
    ∧ Instr.wellFormed (.tlbiAll 0 .system) = false ∧ Instr.wellFormed (.tlbiAll 0 .die) = true := by decide

/-! ### Words and headers that the decoder refuses -/

/-- How the decoder refuses a word. -/
def refusal (w : Word) : Option Reject :=
  match decodeWord w with
  | .ok _ => none
  | .error e => some e

/-- 02 R21, R23, R26, 03 R65: each refusal by its name. -/
theorem test_reject :
    refusal 0xF1A00000 = some .headerShaped              -- bits 31:28 all 1
    ∧ refusal 0xCC000000 = some .unassignedMajor         -- major 0x33
    ∧ refusal 0xEC000000 = some .unassignedMajor         -- major 0x3B
    ∧ refusal 0xA0000006 = some .unassignedMinor         -- major 0x28 has minors 0 to 4
    ∧ refusal 0x94000020 = some .reservedCounter         -- counter code 0b10
    ∧ refusal 0xC4001001 = some .mustBeZero              -- TRET with a register field
    ∧ refusal 0x00000015 = none                          -- CLZ V0, V0
    ∧ refusal 0x00000055 = some .mustBeZero              -- a unary minor with b set
    := by decide

/-- The fates of the variants of 03's four words: ICMP with condition 10, ATOM.f32.cas, an odd pair. -/
theorem test_reject_variants :
    refusal 0x1808316A = some .unassignedMinor
    ∧ refusal 0x78210CBD = some .unassignedMinor
    ∧ refusal 0x481C2100 = some .mustBeZero := by decide

/-- The decode code of a header, 0 for a valid one. -/
def headerCode (w : Word) : Nat :=
  match decodeHeader w with
  | .ok _ => 0
  | .error c => c

/-- 02 R22, R27: a count of 0, a reserved class, reserved bits; a header of one word of class 5. -/
theorem test_header :
    headerCode 0xF0A00000 = 1 ∧ headerCode 0xF1C00000 = 2 ∧ headerCode 0xF1A00001 = 3 ∧ headerCode 0xF1A00000 = 0
    ∧ isHeader 0xF1A00000 = true ∧ isHeader 0xE1A00000 = false := by decide
/-! ### Decoding: the words that the spec writes out -/

/-- Words with their text, as the spec writes them out (1). -/
theorem test_decode_example_1 :
    decodeTableWord 32 0x040C1080 = some (.add 0 .vs 3 1 2)  -- ADD.i32 V3, V1, S2
    ∧ decodeTableWord 32 0x1C06FFFF = some (.addi 0 1 0xFFFF)  -- ADDI V1, -1
    ∧ decodeTableWord 32 0x78210CA1 = some (.atom 0 .f32 .add .device 2 1 1 1)  -- ATOM.f32.add.dev V8, C1, V2 &D1
    ∧ decodeTableWord 32 0x78210BA5 = some (.atom 0 .n64 .min .device 2 1 1 1)  -- ATOM.n64.min.dev V8, C1, V2 &D1
    ∧ decodeTableWord 32 0x9C1C0082 = some (.attld 0 7 2 false)  -- ATTLD 2, S7 &D4
    ∧ decodeTableWord 32 0x90162145 = some (.barr 0 .group 5 .own ⟨true, 1⟩ 1)  -- BARR.grp V5, VAT, S2 &D1
    ∧ decodeTableWord 32 0x5C244148 = some (.bcast 0 9 4 5)  -- BCAST V9, V4, S5
    ∧ decodeTableWord 32 0x901E2148 = some (.bexp 0 .group 7 .own ⟨true, 1⟩ 0)  -- BEXP.grp V7, VAT, S2 &D0
    ∧ decodeTableWord 32 0x901A2140 = some (.binit 0 .group 6 .own ⟨true, 1⟩ 0)  -- BINIT.grp V6, VAT, S2 &D0
    ∧ decodeTableWord 32 0x98300001 = some (.blendAcc 0 3 false)  -- BLEND.acc S12 &D4
    ∧ decodeTableWord 32 0x98200010 = some (.blendStat 0 2 true)  -- BLEND.stat S8 &D5
    ∧ decodeTableWord 32 0xC4000002 = some (.brk 0)  -- BRK
    ∧ decodeTableWord 32 0xB0008241 = some (.brt 0 2 9)  -- BRT C2, V9
    ∧ decodeTableWord 32 0xB0006000 = some (.brx 0 3)  -- BRX V6
    ∧ decodeTableWord 32 0x90222152 = some (.btest 0 .group 8 .own ⟨true, 1⟩ 2)  -- BTEST.grp V8, VAT, S2 &D2
    ∧ decodeTableWord 32 0x9016214C = some (.bwait 0 .group 5 .own ⟨true, 1⟩)  -- BWAIT.grp V5, VAT, S2
  := by decide

/-- Words with their text, as the spec writes them out (2). -/
theorem test_decode_example_2 :
    decodeTableWord 32 0xB0004002 = some (.callx 0 2)  -- CALLX V4
    ∧ decodeTableWord 32 0xC00A0001 = some (.cnt 0 2 .ctxcyc)  -- CNT V2, 1
    ∧ decodeTableWord 32 0x50081788 = some (.cvt 0 .bf16 .rne .f32 2 1)  -- CVT.bf16.f32.rn V2, V1
    ∧ decodeTableWord 32 0x7C0000B8 = some (.dfence 0 .device)  -- DFENCE.dev
    ∧ decodeTableWord 32 0x7C0000A0 = some (.fence 0 .device)  -- FENCE.dev
    ∧ decodeTableWord 32 0xB8042200 = some (.fork 0 1 1 8)  -- FORK P1, V2, V8
    ∧ decodeTableWord 32 0x40185001 = some (.frsq 0 6 5)  -- FRSQ.f32 V6, V5
    ∧ decodeTableWord 32 0x8030C2A2 = some (.gathN32 0 .device 12 3 ⟨false, 2⟩ 2)  -- GATH.n32.dev V12, Q3, V4 &D2
    ∧ decodeTableWord 32 0x18083162 = some (.icmp 0 .vi .ltI 2 3 5)  -- ICMP.lt.i32 P2, V3, 5
    ∧ decodeTableWord 32 0x7C0000B4 = some (.ifence 0 .device)  -- IFENCE.dev
    ∧ decodeTableWord 32 0xB4200100 = some (.join 0 0 1)  -- JOIN P0, 1
    ∧ decodeTableWord 32 0xB4220700 = some (.join 0 2 7)  -- JOIN P2, 7
    ∧ decodeTableWord 32 0x94100280 = some (.kick 0 4 10 false)  -- KICK S4, V10 &D4
    ∧ decodeTableWord 32 0x8C28A2A9 = some (.kvalloc 0 .device 10 2 ⟨true, 2⟩ 1)  -- KVALLOC.dev V10, C2, S4 &D1
    ∧ decodeTableWord 32 0x8C28C3AE = some (.kvset 0 .device 10 3 ⟨false, 3⟩ 2)  -- KVSET.dev V10, C3, V6 &D2
    ∧ decodeTableWord 32 0xB8114303 = some (.launch 0 4 20 12)  -- LAUNCH P4, S20, V12
  := by decide

/-- Words with their text, as the spec writes them out (3). -/
theorem test_decode_example_3 :
    decodeTableWord 32 0xA8400001 = some (.lblset 0 4 false)  -- LBLSET C4 &D4
    ∧ decodeTableWord 32 0x6D1041B0 = some (.ld 1 .n32 .device 4 1 ⟨false, 1⟩ 0)  -- LD.n32.dev V4, C1, V2 !1 &D0
    ∧ decodeTableWord 32 0x7C042144 = some (.ldaN32 0 .group 1 0 ⟨true, 1⟩ 0)  -- LDA.n32.grp V1, C0, S2 &D0
    ∧ decodeTableWord 32 0x6C104118 = some (.ldnr 0 .n32 .fibre 4 1 ⟨false, 1⟩ 0)  -- LDNR.n32 V4, C1, V2 &D0
    ∧ decodeTableWord 32 0xA0200000 = some (.ldstat 0 2 false)  -- LDSTAT S8 &D4
    ∧ decodeTableWord 32 0xA0204011 = some (.ldstatSp 0 2 4 true)  -- LDSTAT.sp S8, M4 &D5
    ∧ decodeTableWord 32 0xA8500012 = some (.lsum 0 5 true)  -- LSUM C5 &D5
    ∧ decodeTableWord 32 0xA81820C3 = some (.ltest 0 3 2 3 false)  -- LTEST P2, S6, 3 &D4
    ∧ decodeTableWord 32 0x5C284009 = some (.matchL 0 10 4)  -- MATCH V10, V4
    ∧ decodeTableWord 32 0x8C106301 = some (.mld 0 4 1 3 1)  -- MLD M4, C1, S6 &D1
    ∧ decodeTableWord 32 0xA0300513 = some (.mma 0 6 0 20 true)  -- MMA T0, S12, V20 &D5
    ∧ decodeTableWord 32 0xA0284014 = some (.mmar 0 5 4 true)  -- MMAR T4, S10 &D5
    ∧ decodeTableWord 32 0x1F05ABCD = some (.movh 3 1 0xABCD)  -- MOVH V1, 0xABCD !3
    ∧ decodeTableWord 32 0x1F041234 = some (.movl 3 1 0x1234)  -- MOVL V1, 0x1234 !3
    ∧ decodeTableWord 32 0x94000001 = some (.ofence 0)  -- OFENCE
    ∧ decodeTableWord 32 0x640C1080 = some (.pand 0 3 1 2)  -- PAND P3, P1, P2
  := by decide

/-- Words with their text, as the spec writes them out (4). -/
theorem test_decode_example_4 :
    decodeTableWord 32 0x88180015 = some (.pcancel 0 6 1)  -- PCANCEL V6 &D1
    ∧ decodeTableWord 32 0x5C2C4184 = some (.perm 0 11 4 6)  -- PERM V11, V4, V6
    ∧ decodeTableWord 32 0x8818410D = some (.preq 0 6 1 ⟨false, 1⟩ 1)  -- PREQ V6, C1, V2 &D1
    ∧ decodeTableWord 32 0x88184119 = some (.promo 0 6 1 ⟨false, 1⟩ 1)  -- PROMO V6, C1, V2 &D1
    ∧ decodeTableWord 32 0x88180010 = some (.pwait 0 6)  -- PWAIT V6
    ∧ decodeTableWord 32 0x541C6280 = some (.qnt 0 7 6 10)  -- QNT V7, V6, S10
    ∧ decodeTableWord 32 0x9C109200 = some (.rank 0 1 9 8 false)  -- RANK V9, V8, S4 &D4
    ∧ decodeTableWord 32 0xA820C0C0 = some (.relset 0 2 3 3 false)  -- RELSET 3, C2, C3 &D4
    ∧ decodeTableWord 32 0xB4100000 = some (.ret 0)  -- RET
    ∧ decodeTableWord 32 0x641410A4 = some (.sel 0 4 5 1 2)  -- SEL V5, V1, V2, P4
    ∧ decodeTableWord 32 0x5C1C4180 = some (.shflIdx 0 7 4 6)  -- SHFL.idx V7, V4, V6
    ∧ decodeTableWord 32 0x5C1C40C3 = some (.shflXor 0 7 4 3)  -- SHFL.xor V7, V4, S3
    ∧ decodeTableWord 32 0xB8042201 = some (.spawn 0 1 1 8)  -- SPAWN P1, V2, V8
    ∧ decodeTableWord 32 0xC0080021 = some (.srdCounter 0 2 .ctxcyc)  -- SRD V2, CTXCYC
    ∧ decodeTableWord 32 0x701882F5 = some (.store 0 .n64nt .system 6 2 ⟨false, 2⟩ 1)  -- ST.n64.nt.sys V6, C2, V4 &D1
    ∧ decodeTableWord 32 0xA0000002 = some (.swap 0)  -- SWAP
  := by decide

/-- Words with their text, as the spec writes them out (5). -/
theorem test_decode_example_5 :
    decodeTableWord 32 0xC0050030 = some (.swrFpctl 0 1)  -- SWR FPCTL, V1
    ∧ decodeTableWord 32 0xA4400040 = some (.tclrFill 0 16 0)  -- TCLR T0, S16
    ∧ decodeTableWord 32 0xA4003000 = some (.tclr 0 3)  -- TCLR T3
    ∧ decodeTableWord 32 0xC8100002 = some (.tlbiAll 0 .die)  -- TLBI.all.die
    ∧ decodeTableWord 32 0xC8144180 = some (.tlbiPage 0 .device 2 6)  -- TLBI.page.dev S4, S6
    ∧ decodeTableWord 32 0xA4500602 = some (.tmovV 0 20 0 24 false)  -- TMOV.v V24, T0, S20
    ∧ decodeTableWord 32 0xA4581011 = some (.tmovVat 0 11 1 true)  -- TMOV.vat T1, S22 &D5
    ∧ decodeTableWord 32 0xC4140A80 = some (.trap 0 5 42)  -- TRAP V5, 0x2A
    ∧ decodeTableWord 32 0xC4000001 = some (.tret 0)  -- TRET
    ∧ decodeTableWord 32 0xA4002203 = some (.trowMax 0 2 8 false)  -- TROW.max V8, T2 &D4
    ∧ decodeTableWord 32 0xA4002205 = some (.trowRescale 0 2 8 false)  -- TROW.rescale T2, V8
    ∧ decodeTableWord 32 0x9C180311 = some (.unrank 0 6 12 true)  -- UNRANK V12, S6 &D5
    ∧ decodeTableWord 32 0x740E0300 = some (.vldN32 0 3 .own ⟨false, 3⟩ 0)  -- VLD.n32 V3, VAT, V6
    ∧ decodeTableWord 32 0x7416241A = some (.vldsN32 0 5 .own 4 2)  -- VLDS.n32 S5, VAT, S8 &D2
    ∧ decodeTableWord 32 0x8820A640 = some (.vmap 0 .group 8 2 6 0)  -- VMAP.grp S8, C2, S12 &D0
    ∧ decodeTableWord 32 0x5C042005 = some (.voteAny 0 1 2)  -- VOTE.any P1, P2
  := by decide

/-- Words with their text, as the spec writes them out (6). -/
theorem test_decode_example_6 :
    decodeTableWord 32 0x5C202007 = some (.voteBallot 0 8 2 0)  -- VOTE.ballot V8, P2, S0
    ∧ decodeTableWord 32 0x74204514 = some (.vstCap 0 8 (.pos 1) ⟨false, 5⟩ 0)  -- VST.cap Q2, VAT1, V10
    ∧ decodeTableWord 32 0x680C2001 = some (.vxld 0 3 2)  -- VXLD V3, V2
    ∧ decodeTableWord 32 0x68085002 = some (.vxst 0 2 5)  -- VXST V2, V5
    ∧ decodeTableWord 32 0xBC000441 = some (.waitd 0 17)  -- WAITD D0+D4
    ∧ decodeTableWord 32 0x68081000 = some (.width 0 2 1)  -- WIDTH S2, S1
    ∧ decodeTableWord 32 0xBC000102 = some (.wset 0 4)  -- WSET 16
    ∧ decodeTableWord 32 0xBC000F83 = some (.wslide 0 62)  -- WSLIDE -8
    ∧ decodeTableWord 32 0xC8004143 = some (.wtwake 0 4 5)  -- WTWAKE S4, S5
    ∧ decodeTableWord 32 0x60144001 = some (.xred 0 .addF32 5 4)  -- XRED.add.f32 V5, V4
    ∧ decodeTableWord 32 0x60184011 = some (.xscanInc 0 .addF32 6 4)  -- XSCAN.inc.add.f32 V6, V4
    ∧ decodeTableWord 32 0x601C40F1 = some (.xseg 0 .addF32 7 4 3)  -- XSEG.add.f32 V7, V4, P3
    ∧ decodeTableWord 32 0xBC000000 = some (.yieldW 0)  -- YIELD
  := by decide

/-! ### Decoding: words put together from the encodings of 02 R19 and 03 R65 to R75 -/

/-- Some integer words (05 R101 to R106): the major, the minor and each field at its place in the word. -/
theorem test_decode_integer_1 :
    decodeTableWord 32 0x0009EA00 = some (.add 0 .vv 2 30 40)
    ∧ decodeTableWord 32 0x050DF9C1 = some (.sub 1 .vs 3 31 39)
    ∧ decodeTableWord 32 0x0A120982 = some (.mul 2 .vi 4 32 38)
    ∧ decodeTableWord 32 0x0F161943 = some (.mulhI32 3 .ss 5 33 37)
    ∧ decodeTableWord 32 0x101A2904 = some (.mulhN32 0 .si 6 34 36)
    ∧ decodeTableWord 32 0x011E38C5 = some (.divI32 1 .vv 7 35 35)
    ∧ decodeTableWord 32 0x06224886 = some (.divN32 2 .vs 8 36 34)
    ∧ decodeTableWord 32 0x0B265847 = some (.remI32 3 .vi 9 37 33)
    ∧ decodeTableWord 32 0x0C2A6808 = some (.remN32 0 .ss 10 38 32)
    ∧ decodeTableWord 32 0x112E77C9 = some (.andI 1 .si 11 39 31)
    ∧ decodeTableWord 32 0x0232878A = some (.orI 2 .vv 12 40 30)
    ∧ decodeTableWord 32 0x0736974B = some (.xorI 3 .vs 13 41 29)
    ∧ decodeTableWord 32 0x083AA70C = some (.andn 0 .vi 14 42 28)
    ∧ decodeTableWord 32 0x0D3EB6CD = some (.shl 1 .ss 15 43 27)
  := by decide

/-- Some integer words (05 R101 to R106): the major, the minor and each field at its place in the word. -/
theorem test_decode_integer_2 :
    decodeTableWord 32 0x1242C68E = some (.shr 2 .si 16 44 26)
    ∧ decodeTableWord 32 0x0346D64F = some (.sar 3 .vv 17 45 25)
    ∧ decodeTableWord 32 0x044AE610 = some (.rol 0 .vs 18 46 24)
    ∧ decodeTableWord 32 0x094EF5D1 = some (.minI32 1 .vi 19 47 23)
    ∧ decodeTableWord 32 0x0E530592 = some (.minN32 2 .ss 20 48 22)
    ∧ decodeTableWord 32 0x13571553 = some (.maxI32 3 .si 21 49 21)
    ∧ decodeTableWord 32 0x005B2514 = some (.maxN32 0 .vv 22 50 20)
    ∧ decodeTableWord 32 0x055F34D8 = some (.addsatI32 1 .vs 23 51 19)
    ∧ decodeTableWord 32 0x0A634499 = some (.subsatI32 2 .vi 24 52 18)
    ∧ decodeTableWord 32 0x01F07015 = some (.clz 1 .vv 60 7)
    ∧ decodeTableWord 32 0x0DF48016 = some (.popc 1 .ss 61 8)
    ∧ decodeTableWord 32 0x05F89017 = some (.brev 1 .vs 62 9)
    ∧ decodeTableWord 32 0x170420FF = some (.imad 3 1 2 3 63)
    ∧ decodeTableWord 32 0x183E1FB9 = some (.icmp 0 .ss .geN 15 33 62)
  := by decide

/-- Some integer words (05 R101 to R106): the major, the minor and each field at its place in the word. -/
theorem test_decode_integer_3 :
    decodeTableWord 32 0x1EFF8001 = some (.movlS 2 63 0x8001)
    ∧ decodeTableWord 32 0x1C15ABCD = some (.movh 0 5 0xABCD)
  := by decide

/-- Some floating-point words (05 R107 to R123): the major, the minor and each field at its place in the word. -/
theorem test_decode_float_1 :
    decodeTableWord 32 0x2009EA00 = some (.fadd 0 .vv 2 30 40)
    ∧ decodeTableWord 32 0x250DF9C1 = some (.fsub 1 .vs 3 31 39)
    ∧ decodeTableWord 32 0x2A120982 = some (.fmul 2 .ss 4 32 38)
    ∧ decodeTableWord 32 0x23161943 = some (.fmin 3 .vv 5 33 37)
    ∧ decodeTableWord 32 0x241A2904 = some (.fmax 0 .vs 6 34 36)
    ∧ decodeTableWord 32 0x24272005 = some (.fabs 0 .vs 9 50)
    ∧ decodeTableWord 32 0x282B3006 = some (.fneg 0 .ss 10 51)
    ∧ decodeTableWord 32 0x202F4007 = some (.fsat 0 .vv 11 52)
    ∧ decodeTableWord 32 0x2C0420E8 = some (.fma 0 1 2 3 40)
    ∧ decodeTableWord 32 0x31083129 = some (.fms 1 2 3 4 41)
    ∧ decodeTableWord 32 0x360C416A = some (.fnma 2 3 4 5 42)
    ∧ decodeTableWord 32 0x3B1051AB = some (.fnms 3 4 5 6 43)
    ∧ decodeTableWord 32 0x3C0420D7 = some (.fcmp 0 .vs .ord 1 2 3)
    ∧ decodeTableWord 32 0x40294000 = some (.frcp 0 10 20)
  := by decide

/-- Some floating-point words (05 R107 to R123): the major, the minor and each field at its place in the word. -/
theorem test_decode_float_2 :
    decodeTableWord 32 0x412D5002 = some (.fsqrt 1 11 21)
    ∧ decodeTableWord 32 0x42316004 = some (.fexp2 2 12 22)
    ∧ decodeTableWord 32 0x43357005 = some (.flog2 3 13 23)
    ∧ decodeTableWord 32 0x40398006 = some (.frndRn 0 14 24)
    ∧ decodeTableWord 32 0x413D9007 = some (.frndRz 1 15 25)
    ∧ decodeTableWord 32 0x4241A008 = some (.frndRu 2 16 26)
    ∧ decodeTableWord 32 0x4345B009 = some (.frndRd 3 17 27)
    ∧ decodeTableWord 32 0x40185103 = some (.fdiv 0 6 5 4)
    ∧ decodeTableWord 32 0x440557C0 = some (.padd 0 .f16 1 21 31)
    ∧ decodeTableWord 32 0x44096821 = some (.psub 0 .bf16 2 22 32)
    ∧ decodeTableWord 32 0x440D7842 = some (.pmul 0 .f16 3 23 33)
    ∧ decodeTableWord 32 0x441188A3 = some (.pmin 0 .bf16 4 24 34)
    ∧ decodeTableWord 32 0x441598C4 = some (.pmax 0 .f16 5 25 35)
    ∧ decodeTableWord 32 0x4419A925 = some (.pfma 0 .bf16 6 26 36)
  := by decide

/-- Some floating-point words (05 R107 to R123): the major, the minor and each field at its place in the word. -/
theorem test_decode_float_3 :
    decodeTableWord 32 0x48014A00 = some (.dadd 0 0 20 40)
    ∧ decodeTableWord 32 0x49096A81 = some (.dsub 1 2 22 42)
    ∧ decodeTableWord 32 0x4A118B02 = some (.dmul 2 4 24 44)
    ∧ decodeTableWord 32 0x4B19AB83 = some (.dmin 3 6 26 46)
    ∧ decodeTableWord 32 0x4821CC04 = some (.dmax 0 8 28 48)
    ∧ decodeTableWord 32 0x4823E005 = some (.dabs 0 8 62)
    ∧ decodeTableWord 32 0x48F88006 = some (.dneg 0 62 8)
    ∧ decodeTableWord 32 0x48244196 = some (.dcmp 0 .uno 9 4 6)
    ∧ decodeTableWord 32 0x4D0841BC = some (.dfma 1 2 4 6 60)
    ∧ decodeTableWord 32 0x541C6281 = some (.dqn 0 7 6 10)
  := by decide

/-- Some 64-bit address words (05 R106): the major, the minor and each field at its place in the word. -/
theorem test_decode_address :
    decodeTableWord 32 0x58102181 = some (.add64 0 4 2 6)
    ∧ decodeTableWord 32 0x5BFBCE82 = some (.sub64 3 62 60 58)
    ∧ decodeTableWord 32 0x580C828D = some (.cmp64 0 .leN 3 8 10)
    ∧ decodeTableWord 32 0x58102FD3 = some (.lea 0 3 4 2 63)
  := by decide

/-- Some cross-lane and predicate words (05 R124, 11 R239 to R245): the major, the minor and each field at its place
in the word. -/
theorem test_decode_lane :
    decodeTableWord 32 0x5C0420C1 = some (.shflUp 0 1 2 3)
    ∧ decodeTableWord 32 0x5CFFEF42 = some (.shflDown 0 63 62 61)
    ∧ decodeTableWord 32 0x5C1C8006 = some (.voteAll 0 7 8)
    ∧ decodeTableWord 32 0x60184027 = some (.xscanExc 0 .maxF32 6 4)
    ∧ decodeTableWord 32 0x64045241 = some (.por 0 1 5 9)
    ∧ decodeTableWord 32 0x64086282 = some (.pxor 0 2 6 10)
    ∧ decodeTableWord 32 0x640C72C3 = some (.pandn 0 3 7 11)
    ∧ decodeTableWord 32 0x643CE004 = some (.pnot 0 15 14)
    ∧ decodeTableWord 32 0x6438F005 = some (.pmov 0 14 15)
    ∧ decodeTableWord 32 0x64381013 = some (.whenP 0 3 true 14)
    ∧ decodeTableWord 32 0x65040010 = some (.whenP 1 0 false 1)
  := by decide

/-- Some memory words (13 R274 to R286): the major, the minor and each field at its place in the word. -/
theorem test_decode_memory :
    decodeTableWord 32 0x6CFBFFFF = some (.ldnr 0 .n64 .system 62 15 ⟨true, 31⟩ 3)
    ∧ decodeTableWord 32 0x7420E205 = some (.vldN64 0 8 (.pos 3) ⟨true, 2⟩ 1)
    ∧ decodeTableWord 32 0x7432040A = some (.vldCap 0 12 .own ⟨false, 4⟩ 2)
    ∧ decodeTableWord 32 0x7434040F = some (.vstN32 0 13 (.pos 0) ⟨false, 4⟩ 3)
    ∧ decodeTableWord 32 0x743A2410 = some (.vstN64 0 14 .own ⟨true, 4⟩ 0)
    ∧ decodeTableWord 32 0x743E011C = some (.vstN8 0 15 .own ⟨false, 1⟩ 0)
    ∧ decodeTableWord 32 0x78FFFACA = some (.ared 0 .i64 .max .domain 15 7 31 2)
    ∧ decodeTableWord 32 0x7C08E589 = some (.ldaN64 0 .die 2 3 ⟨true, 5⟩ 1)
    ∧ decodeTableWord 32 0x7C0CC52D = some (.stlN32 0 .wave 3 3 ⟨false, 5⟩ 1)
    ∧ decodeTableWord 32 0x7C10C571 = some (.stlN64 0 .cluster 4 3 ⟨false, 5⟩ 1)
    ∧ decodeTableWord 32 0x8030C2A6 = some (.gathN64 0 .device 12 3 ⟨false, 2⟩ 2)
    ∧ decodeTableWord 32 0x8034C2AA = some (.scatN32 0 .device 13 3 ⟨false, 2⟩ 2)
    ∧ decodeTableWord 32 0x8038E24E = some (.scatN64 0 .group 14 3 ⟨true, 2⟩ 2)
  := by decide

/-- Some capability and mapped-region words (18 R341, 13 R288): the major, the minor and each field at its place in
the word. -/
theorem test_decode_capability :
    decodeTableWord 32 0x84108300 = some (.cnarrow 0 1 2 3)
    ∧ decodeTableWord 32 0x84108841 = some (.cperm 0 1 2 33)
    ∧ decodeTableWord 32 0x84090002 = some (.cgetBase 0 2 4)
    ∧ decodeTableWord 32 0x84114003 = some (.cgetLen 0 4 5)
    ∧ decodeTableWord 32 0x84198004 = some (.cgetPerm 0 6 6)
    ∧ decodeTableWord 32 0x8421C005 = some (.cgetTid 0 8 7)
    ∧ decodeTableWord 32 0x842A0006 = some (.cgetTag 0 10 8)
    ∧ decodeTableWord 32 0x84518087 = some (.cmov 0 5 6 true false)
    ∧ decodeTableWord 32 0x84518047 = some (.cmov 0 5 6 false true)
    ∧ decodeTableWord 32 0x882000A5 = some (.vsync 0 .device 8 1)
    ∧ decodeTableWord 32 0x8824004A = some (.vunmap 0 .group 9 2)
    ∧ decodeTableWord 32 0x8C00A305 = some (.cflush 0 2 ⟨true, 3⟩ 1)
  := by decide

/-- Some engine words (06, 07): the major, the minor and each field at its place in the word. -/
theorem test_decode_engine :
    decodeTableWord 32 0xA8700012 = some (.lsum 0 7 true)
    ∧ decodeTableWord 32 0xA4500602 = some (.tmovV 0 20 0 24 false)
    ∧ decodeTableWord 32 0xA4002214 = some (.trowSum 0 2 8 true)
    ∧ decodeTableWord 32 0xA400FFC6 = some (.trowNorm 0 15 63 false)
    ∧ decodeTableWord 32 0xA4400040 = some (.tclrFill 0 16 0)
  := by decide

/-- Some control words (10): the major, the minor and each field at its place in the word. -/
theorem test_decode_control :
    decodeTableWord 32 0xAC3FFFFF = some (.brp 0 3 true 0x7FFFF)
    ∧ decodeTableWord 32 0xAC100005 = some (.brp 0 1 false 5)
    ∧ decodeTableWord 32 0xAC040000 = some (.bra 0 0x40000)
    ∧ decodeTableWord 32 0xB6000009 = some (.call 2 9)
    ∧ decodeTableWord 32 0xB8000002 = some (.endF 0)
  := by decide

/-- Some words of the system registers and the steward (03 R62, 20 R387): the major, the minor and each field at its
place in the word. -/
theorem test_decode_system_1 :
    decodeTableWord 32 0xC0000000 = some (.srd 0 0 .fibid)
    ∧ decodeTableWord 32 0xC0080001 = some (.srd 0 2 .lane)
    ∧ decodeTableWord 32 0xC0100003 = some (.srd 0 4 .wstat)
    ∧ decodeTableWord 32 0xC0180017 = some (.srd 0 6 (.lvlidx 7))
    ∧ decodeTableWord 32 0xC0200023 = some (.srd 0 8 .timer)
    ∧ decodeTableWord 32 0xC0280024 = some (.srd 0 10 .tctl)
    ∧ decodeTableWord 32 0xC0300030 = some (.srd 0 12 .fpctl)
    ∧ decodeTableWord 32 0xC0380031 = some (.srd 0 14 .fpstat)
    ∧ decodeTableWord 32 0xC0400040 = some (.srd 0 16 .slim)
    ∧ decodeTableWord 32 0xC0480041 = some (.srd 0 18 .tvec)
    ∧ decodeTableWord 32 0xC0500042 = some (.srd 0 20 .tpc)
    ∧ decodeTableWord 32 0xC0580043 = some (.srd 0 22 .tcause)
    ∧ decodeTableWord 32 0xC0600044 = some (.srd 0 24 .tdet0)
    ∧ decodeTableWord 32 0xC0680046 = some (.srd 0 26 .tdet2)
  := by decide

/-- Some words of the system registers and the steward (03 R62, 20 R387): the major, the minor and each field at its
place in the word. -/
theorem test_decode_system_2 :
    decodeTableWord 32 0xC0700050 = some (.srd 0 28 .tdtbase)
    ∧ decodeTableWord 32 0xC0780051 = some (.srd 0 30 .skipcnt)
    ∧ decodeTableWord 32 0xC0800052 = some (.srd 0 32 .emptycnt)
    ∧ decodeTableWord 32 0xC0880800 = some (.srd 0 34 .sfqbase)
    ∧ decodeTableWord 32 0xC0900803 = some (.srd 0 36 .sfqhead)
    ∧ decodeTableWord 32 0xC0980810 = some (.srd 0 38 .sctx)
    ∧ decodeTableWord 32 0xC0A00815 = some (.srd 0 40 .sspill)
    ∧ decodeTableWord 32 0xC0A80820 = some (.srd 0 42 .swmark)
    ∧ decodeTableWord 32 0xC1090003 = some (.swr 1 2 .wstat)
    ∧ decodeTableWord 32 0xC1110042 = some (.swr 1 4 .tpc)
    ∧ decodeTableWord 32 0xC1190800 = some (.swr 1 6 .sfqbase)
    ∧ decodeTableWord 32 0xC1210801 = some (.swr 1 8 .sfqcap)
    ∧ decodeTableWord 32 0xC1290810 = some (.swr 1 10 .sctx)
    ∧ decodeTableWord 32 0xC1310811 = some (.swr 1 12 .sptroot)
  := by decide

/-- Some words of the system registers and the steward (03 R62, 20 R387): the major, the minor and each field at its
place in the word. -/
theorem test_decode_system_3 :
    decodeTableWord 32 0xC1390812 = some (.swr 1 14 .stdtbase)
    ∧ decodeTableWord 32 0xC1410813 = some (.swr 1 16 .stdtcnt)
    ∧ decodeTableWord 32 0xC1490814 = some (.swr 1 18 .ssave)
    ∧ decodeTableWord 32 0xC1510815 = some (.swr 1 20 .sspill)
    ∧ decodeTableWord 32 0xC1590820 = some (.swr 1 22 .swmark)
    ∧ decodeTableWord 32 0xC0150051 = some (.swrSkipcnt 0 5)
    ∧ decodeTableWord 32 0xC0190023 = some (.swrTimer 0 6)
    ∧ decodeTableWord 32 0xC01D0024 = some (.swrTctl 0 7)
    ∧ decodeTableWord 32 0xC0210040 = some (.swrSlim 0 8)
    ∧ decodeTableWord 32 0xC0250031 = some (.swrFpstat 0 9)
    ∧ decodeTableWord 32 0xC0290803 = some (.sfqheadWrite 0 10)
    ∧ decodeTableWord 32 0xC0080020 = some (.srdCounter 0 2 .corecyc)
    ∧ decodeTableWord 32 0xC0100022 = some (.srdCounter 0 4 .retcnt)
    ∧ decodeTableWord 32 0xC00A0002 = some (.cnt 0 2 .retcnt)
  := by decide

/-- Some words of the system registers and the steward (03 R62, 20 R387): the major, the minor and each field at its
place in the word. -/
theorem test_decode_system_4 :
    decodeTableWord 32 0xC00A0000 = some (.cnt 0 2 .corecyc)
    ∧ decodeTableWord 32 0xC80C0181 = some (.tlbiCtx 0 .cluster 6)
  := by decide
/-! ### Small states -/

/-- A fibre at the first word of the placed clause (log 53), with some V registers. -/
def lane (rs : Regs) : Fibre :=
  { present := true, run := .running, pc := placeAt + 4, alloc := 128, inSet := true, v := rs }

/-- A wave of these fibres at the issue port, with some S registers and a trap handler. -/
def stand (lanes : List Regs) (ss : Regs := []) : State :=
  (State.reset.withFetchWord 32 0).onWave (fun v =>
    { v with lanes := lanes.map lane, g := lanes.length, s := ss, tvec := 0x40000 })

/-- What an outcome's next state shows, or a mark. -/
def seen (o : Out) (f : State → Nat) : Nat :=
  match o with
  | .next t => f t
  | .fault _ => 0xDEAD
  | .refused _ => 0xDEAD

/-- An allocation register of a fibre after an instruction. -/
def vOf (i : Instr) (s : State) (r : Nat) (l : Nat := 0) : Nat := seen (exec i s) (fun t => ((t.wave.fib l).reg r).toNat)

/-- An allocation register of the first lanes after an instruction. -/
def vsOf (i : Instr) (s : State) (r n : Nat) : List Nat := (List.range n).map (fun l => vOf i s r l)

/-- A pair of allocation registers of lane 0 after an instruction. -/
def pairOf (i : Instr) (s : State) (r : Nat) : Nat := vOf i s r + vOf i s (r + 1) * 2 ^ 32

/-- A predicate of a fibre after an instruction, 1 or 0. -/
def pOf (i : Instr) (s : State) (p : Nat) (l : Nat := 0) : Nat :=
  seen (exec i s) (fun t => if (t.wave.fib l).pred p then 1 else 0)

/-- FPSTAT after an instruction. -/
def flagsOf (i : Instr) (s : State) : Nat := seen (exec i s) (fun t => t.wave.fpstat.toNat)

/-- The PC of a fibre after an instruction. -/
def pcOf (i : Instr) (s : State) (l : Nat := 0) : Nat := seen (exec i s) (fun t => (t.wave.fib l).pc)

/-- TCAUSE after an instruction. -/
def causeOf (i : Instr) (s : State) : Nat := seen (exec i s) (fun t => t.wave.tcause.toNat)
/-! ### Single words of the vector ALU -/

/-- A word placed where the next step fetches runs as that word: ADD.i32 V3, V1, S2 (02 R19, log 53). -/
theorem test_step_runs_add :
    seen (step ((State.reset.withFetchWord 32 0x040C1080).onWave (fun v =>
      { v with lanes := [lane [(1, 5)]], s := [(2, 7)] }))) (fun t => ((t.wave.fib 0).reg 3).toNat) = 12 := by decide

/-- 05 R101: a sum and a product wrap, an immediate of ADD and SUB is signed, the high halves. -/
theorem test_integer :
    vOf (.add 0 .vv 3 1 2) (stand [[(1, 0xFFFFFFFF), (2, 1)]]) 3 = 0
    ∧ vOf (.sub 0 .vi 3 1 63) (stand [[(1, 4)]]) 3 = 5
    ∧ vOf (.mul 0 .vv 3 1 2) (stand [[(1, 0x10001), (2, 0x10001)]]) 3 = 0x20001
    ∧ vOf (.mulhI32 0 .vv 3 1 2) (stand [[(1, 0xFFFFFFFF), (2, 2)]]) 3 = 0xFFFFFFFF
    ∧ vOf (.mulhN32 0 .vv 3 1 2) (stand [[(1, 0xFFFFFFFF), (2, 2)]]) 3 = 1
    ∧ vOf (.imad 0 3 1 2 3) (stand [[(1, 5), (2, 6), (3, 7)]]) 3 = 37 := by decide

/-- 05 R102: quotients toward zero, the overflow, and a zero divisor with IDZ. -/
theorem test_division :
    vOf (.divI32 0 .vv 3 1 2) (stand [[(1, 0xFFFFFFF9), (2, 2)]]) 3 = 0xFFFFFFFD
    ∧ vOf (.remI32 0 .vv 3 1 2) (stand [[(1, 0xFFFFFFF9), (2, 2)]]) 3 = 0xFFFFFFFF
    ∧ vOf (.divI32 0 .vv 3 1 2) (stand [[(1, 0x80000000), (2, 0xFFFFFFFF)]]) 3 = 0x80000000
    ∧ vOf (.divN32 0 .vv 3 1 2) (stand [[(1, 0xFFFFFFF9), (2, 2)]]) 3 = 0x7FFFFFFC
    ∧ vOf (.remN32 0 .vv 3 1 2) (stand [[(1, 9)]]) 3 = 9
    ∧ flagsOf (.remN32 0 .vv 3 1 2) (stand [[(1, 9)]]) = 64 := by decide

/-- 05 R101: logic, shifts by their amount modulo 32, rotation, bounds and bit counts. -/
theorem test_bits :
    vOf (.andn 0 .vv 3 1 2) (stand [[(1, 0xFF), (2, 0x0F)]]) 3 = 0xF0
    ∧ vOf (.shl 0 .vv 3 1 2) (stand [[(1, 3), (2, 33)]]) 3 = 6
    ∧ vOf (.shr 0 .vv 3 1 2) (stand [[(1, 0x80000000), (2, 31)]]) 3 = 1
    ∧ vOf (.sar 0 .vv 3 1 2) (stand [[(1, 0x80000000), (2, 31)]]) 3 = 0xFFFFFFFF
    ∧ vOf (.rol 0 .vv 3 1 2) (stand [[(1, 0x80000001), (2, 1)]]) 3 = 3
    ∧ vOf (.minI32 0 .vv 3 1 2) (stand [[(1, 0xFFFFFFFF), (2, 1)]]) 3 = 0xFFFFFFFF
    ∧ vOf (.minN32 0 .vv 3 1 2) (stand [[(1, 0xFFFFFFFF), (2, 1)]]) 3 = 1
    ∧ vOf (.maxI32 0 .vv 3 1 2) (stand [[(1, 0xFFFFFFFF), (2, 1)]]) 3 = 1
    ∧ vOf (.maxN32 0 .vv 3 1 2) (stand [[(1, 0xFFFFFFFF), (2, 1)]]) 3 = 0xFFFFFFFF
    ∧ vOf (.clz 0 .vv 3 1) (stand [[(1, 0x10000)]]) 3 = 15 ∧ vOf (.clz 0 .vv 3 1) (stand [[]]) 3 = 32
    ∧ vOf (.popc 0 .vv 3 1) (stand [[(1, 0xF0F)]]) 3 = 8
    ∧ vOf (.brev 0 .vv 3 1) (stand [[(1, 3)]]) 3 = 0xC0000000
    ∧ vOf (.addsatI32 0 .vv 3 1 2) (stand [[(1, 0x7FFFFFFF), (2, 1)]]) 3 = 0x7FFFFFFF
    ∧ vOf (.subsatI32 0 .vv 3 1 2) (stand [[(1, 0x80000000), (2, 1)]]) 3 = 0x80000000 := by decide

/-- 05 R103, R105, 03 R74: constants; MOVH keeps the low half, ADDI sign-extends. -/
theorem test_constants :
    vOf (.movl 0 1 0x8001) (stand [[(1, 0xFFFFFFFF)]]) 1 = 0x8001
    ∧ vOf (.movh 0 1 0xABCD) (stand [[(1, 0x11112222)]]) 1 = 0xABCD2222
    ∧ vOf (.addi 0 1 0xFFFF) (stand [[(1, 0)]]) 1 = 0xFFFFFFFF
    ∧ seen (exec (.movlS 0 2 0x8001) (stand [[]])) (fun t => (t.wave.sreg 2).toNat) = 0x8001 := by decide

/-- 05 R104, R106: signed and natural comparisons, 64-bit sums, and LEA's signed index. -/
theorem test_compare_and_address :
    pOf (.icmp 0 .vv .ltI 2 1 3) (stand [[(1, 0xFFFFFFFF), (3, 0)]]) 2 = 1
    ∧ pOf (.icmp 0 .vv .ltN 2 1 3) (stand [[(1, 0xFFFFFFFF), (3, 0)]]) 2 = 0
    ∧ pOf (.cmp64 0 .ltI 2 4 6) (stand [[(5, 0x80000000), (6, 1)]]) 2 = 1
    ∧ pOf (.cmp64 0 .ltN 2 4 6) (stand [[(5, 0x80000000), (6, 1)]]) 2 = 0
    ∧ pairOf (.add64 0 4 2 6) (stand [[(2, 0xFFFFFFFF), (6, 1)]]) 4 = 0x100000000
    ∧ pairOf (.sub64 0 4 2 6) (stand [[(3, 1), (6, 1)]]) 4 = 0xFFFFFFFF
    ∧ pairOf (.lea 0 3 4 2 6) (stand [[(2, 16), (6, 0xFFFFFFFF)]]) 4 = 8 := by decide

/-- 05 R107 to R109, 04 R83, R88: sums, an exact zero under RM, bounds of zeros, FNEG of a NaN, FSAT, one rounding. -/
theorem test_float :
    vOf (.fadd 0 .vv 3 1 2) (stand [[(1, 0x3FC00000), (2, 0x3FC00000)]]) 3 = 0x40400000
    ∧ vOf (.fsub 0 .vv 3 1 1) (stand [[(1, 0x3F800000)]]) 3 = 0
    ∧ vOf (.fsub 0 .vv 3 1 1) ((stand [[(1, 0x3F800000)]]).onWave (fun w => { w with fpctl := 3 })) 3 = 0x80000000
    ∧ vOf (.fmul 0 .vv 3 1 2) (stand [[(1, 0xC0A00000), (2, 0x40000000)]]) 3 = 0xC1200000
    ∧ vOf (.fmin 0 .vv 3 1 2) (stand [[(1, 0), (2, 0x80000000)]]) 3 = 0x80000000
    ∧ vOf (.fmax 0 .vv 3 1 2) (stand [[(1, 0x7FC00000), (2, 0xC0A00000)]]) 3 = 0xC0A00000
    ∧ vOf (.fabs 0 .vv 3 1) (stand [[(1, 0xC0A00000)]]) 3 = 0x40A00000
    ∧ vOf (.fneg 0 .vv 3 1) (stand [[(1, 0x7F800001)]]) 3 = 0xFF800001
    ∧ vOf (.fsat 0 .vv 3 1) (stand [[(1, 0x80000000)]]) 3 = 0
    ∧ vOf (.fma 0 4 1 2 3) (stand [[(1, 0x40000000), (2, 0x40400000), (3, 0x40800000)]]) 4 = 0x41200000
    ∧ vOf (.fnms 0 4 1 2 3) (stand [[(1, 0x40000000), (2, 0x40400000), (3, 0x40800000)]]) 4 = 0xC1200000 := by decide

/-- 04 R84, R88: overflow raises OF and NX, an invalid product NV, a signalling operand NV. -/
theorem test_float_flags :
    flagsOf (.fadd 0 .vv 3 1 1) (stand [[(1, 0x7F7FFFFF)]]) = 20
    ∧ vOf (.fadd 0 .vv 3 1 1) (stand [[(1, 0x7F7FFFFF)]]) 3 = 0x7F800000
    ∧ flagsOf (.fmul 0 .vv 3 1 2) (stand [[(1, 0x7F800000)]]) = 1
    ∧ vOf (.fmul 0 .vv 3 1 2) (stand [[(1, 0x7F800000)]]) 3 = 0x7FC00000
    ∧ pOf (.fcmp 0 .vv .eq 1 2 3) (stand [[(2, 0x80000000)]]) 1 = 1
    ∧ flagsOf (.fcmp 0 .vv .lt 1 2 3) (stand [[(2, 0x7FC00000)]]) = 1
    ∧ flagsOf (.fcmp 0 .vv .uno 1 2 3) (stand [[(2, 0x7FC00000)]]) = 0 := by decide

/-- The values that 05 R112, R113 work out for FRCP of 3 and FRSQ of 4 and 2; FEXP2 and FLOG2 of exact points. -/
theorem test_special_functions :
    vOf (.frcp 0 6 5) (stand [[(5, 0x40400000)]]) 6 = 0x3EAA4000
    ∧ vOf (.frsq 0 6 5) (stand [[(5, 0x40800000)]]) 6 = 0x3F000000
    ∧ vOf (.frsq 0 6 5) (stand [[(5, 0x40000000)]]) 6 = 0x3F348000
    ∧ vOf (.fexp2 0 6 5) (stand [[(5, 0x40400000)]]) 6 = 0x41000000
    ∧ vOf (.flog2 0 6 5) (stand [[(5, 0x41000000)]]) 6 = 0x40400000
    ∧ flagsOf (.flog2 0 6 5) (stand [[]]) = 2 := by decide

/-- 05 R116: FRND keeps the sign, whatever FPCTL holds. -/
theorem test_frnd :
    vOf (.frndRn 0 6 5) (stand [[(5, 0x40200000)]]) 6 = 0x40000000
    ∧ vOf (.frndRu 0 6 5) (stand [[(5, 0x40200000)]]) 6 = 0x40400000
    ∧ vOf (.frndRd 0 6 5) (stand [[(5, 0xC0200000)]]) 6 = 0xC0400000
    ∧ vOf (.frndRz 0 6 5) (stand [[(5, 0xBE99999A)]]) 6 = 0x80000000 := by decide

/-- 02 R32, 05 R111: FDIV of 1 by 0 raises DZ at issue; its result is written when INTERLOCK_RESULT comes. -/
theorem test_interlocked :
    flagsOf (.fdiv 0 6 5 4) (stand [[(5, 0x3F800000)]]) = 2
    ∧ vOf (.fdiv 0 6 5 4) (stand [[(5, 0x3F800000)]]) 6 = 0
    ∧ vOf (.interlockResult 0) ((stand [[]]).onWave (fun w => { w with interlocks := [⟨[(.v, 0, 6, 0x7F800000)]⟩] })) 6
      = 0x7F800000
    ∧ seen (exec (.fsqrt 0 6 5) (stand [[(5, 0x40800000)]])) (fun t => match t.wave.interlocks with
        | [x] => (x.writes.map (fun y => y.2.2.2.toNat)).sum
        | _ => 0) = 0x40000000 := by decide

/-- 05 R117, R118: halves apart; FP64 on pairs. -/
theorem test_packed_and_double :
    vOf (.padd 0 .f16 3 1 2) (stand [[(1, 0xC0003C00), (2, 0x40003C00)]]) 3 = 0x4000
    ∧ vOf (.pmul 0 .bf16 3 1 2) (stand [[(1, 0x3F804000), (2, 0xBF804040)]]) 3 = 0xBF8040C0
    ∧ vOf (.pfma 0 .f16 3 1 2) (stand [[(1, 0x3C00), (2, 0x3C00), (3, 0x3C00)]]) 3 = 0x4000
    ∧ pairOf (.dadd 0 4 2 2) (stand [[(3, 0x3FF80000)]]) 4 = 0x4008000000000000
    ∧ pairOf (.dneg 0 4 2) (stand [[(3, 0x3FF80000)]]) 4 = 0xBFF8000000000000
    ∧ pairOf (.dfma 0 4 2 2 2) (stand [[(3, 0x3FF80000)]]) 4 = 0x400E000000000000
    ∧ pOf (.dcmp 0 .gt 1 2 4) (stand [[(3, 0x3FF80000)]]) 1 = 1 := by decide

/-- 02 R27, 05 R119: bits 5:4 of CVT must be zero. -/
theorem test_cvt_zero : decodeWord 0x50081798 = .error .mustBeZero ∧ decodeWord 0x500817A8 = .error .mustBeZero :=
  ⟨rfl, rfl⟩

/-- 05 R120, 04 R88 to R90: the tie of R120's line; 464 and above to E4M3; 5 to E2M1; 2.5 to .i32; a narrow negative
result sign-extends. -/
theorem test_cvt :
    vOf (.cvt 0 .bf16 .rne .f32 2 1) (stand [[(1, 0x3F808000)]]) 2 = 0x3F80
    ∧ flagsOf (.cvt 0 .bf16 .rne .f32 2 1) (stand [[(1, 0x3F808000)]]) = 16
    ∧ vOf (.cvt 0 .e4m3 .rne .f32 2 1) (stand [[(1, 0x43E80000)]]) 2 = 0x7E
    ∧ vOf (.cvt 0 .e4m3 .rne .f32 2 1) (stand [[(1, 0x43E80001)]]) 2 = 0x7F
    ∧ vOf (.cvt 0 .e4m3 .rneSat .f32 2 1) (stand [[(1, 0x43E80001)]]) 2 = 0x7E
    ∧ vOf (.cvt 0 .e2m1 .rne .f32 2 1) (stand [[(1, 0x40A00000)]]) 2 = 6
    ∧ vOf (.cvt 0 .i32 .rne .f32 2 1) (stand [[(1, 0x40200000)]]) 2 = 2
    ∧ vOf (.cvt 0 .i8 .zero .f32 2 1) (stand [[(1, 0xC1200000)]]) 2 = 0xFFFFFFF6
    ∧ pairOf (.cvt 0 .f64 .rne .f32 2 1) (stand [[(1, 0x3FC00000)]]) 2 = 0x3FF8000000000000 := by decide

/-- The values that 05 R123 works out for QNT V7, V6, S10 and DQN under S10 = 0x8002, and element 1 of 04 R93's block.
-/
theorem test_quantise :
    vOf (.qnt 0 7 6 10) (stand [[(6, 0x41100000)]] [(10, 0x8002)]) 7 = 6
    ∧ flagsOf (.qnt 0 7 6 10) (stand [[(6, 0x41100000)]] [(10, 0x8002)]) = 16
    ∧ vOf (.qnt 0 7 6 10) (stand [[(6, 0x41600000)]] [(10, 0x8002)]) 7 = 7
    ∧ flagsOf (.qnt 0 7 6 10) (stand [[(6, 0x41600000)]] [(10, 0x8002)]) / 32 = 1
    ∧ vOf (.dqn 0 7 6 10) (stand [[(6, 6)]] [(10, 0x8002)]) 7 = 0x41000000
    ∧ vOf (.dqn 0 7 6 10) (stand [[(6, 8)]] [(10, 0x528002)]) 7 = 0x41A00000
    ∧ causeOf (.qnt 0 7 6 10) (stand [[]] [(10, 0x8003)]) = 3 * 2048 + 3 := by decide

/-! ### Lanes and predicates -/

/-- The wave of 11 R242's lines: V4 is 10, 20, 10, 30, and a WHEN leaves lane 2 out. -/
def four : State :=
  (stand [[(4, 10)], [(4, 20)], [(4, 10)], [(4, 30)]] [(3, 2)]).onWave (fun w =>
    { w with lanes := updateAt (fun f => { f with spans := [⟨3, false⟩] }) 2 w.lanes })

/-- The outcomes that 11 R242 gives: lanes 1 and 3 exchange, lane 0 reads the inactive lane 2; MATCH sees the active
lanes alone. -/
theorem test_lanes :
    vsOf (.shflXor 0 7 4 3) four 7 4 = [10, 30, 0, 20]
    ∧ vsOf (.matchL 0 10 4) four 10 4 = [0, 1, 0, 3]
    ∧ vsOf (.shflUp 0 7 4 3) four 7 4 = [10, 20, 0, 20]
    ∧ vsOf (.shflDown 0 7 4 3) four 7 4 = [10, 30, 0, 30]
    ∧ vsOf (.bcast 0 7 4 3) four 7 4 = [10, 10, 0, 10]
    ∧ vOf (.shflIdx 0 7 4 4) four 7 1 = 20
    ∧ vOf (.voteBallot 0 8 0 0) four 8 = 0xB ∧ pOf (.voteAll 0 1 2) four 1 = 0
    ∧ pOf (.voteAny 0 1 0) four 1 3 = 1 := by decide

/-- 11 R240: the lowest sender wins, and a lane that nobody names keeps its register. -/
theorem test_perm :
    vsOf (.perm 0 11 4 6)
      (stand [[(4, 7), (6, 1), (11, 50)], [(4, 8), (6, 1), (11, 51)], [(4, 9), (6, 0), (11, 52)]]) 11 3
      = [9, 7, 52] := by decide

/-- The wave of 11's two orders. -/
def five : State :=
  (stand [[(4, 0x3F800000)], [(4, 0x33800000)], [(4, 0x33800000)], [(4, 0x33800000)], [(4, 0x33800000)]]).onWave
    (fun w => { w with lanes := updateAt (fun f => { f with preds := [(3, true)] }) 3 w.lanes })

/-- The values that 11 works out: the tree gives 0x3F800002, the scan 1.0; the segment from lane 3 gives two of them. -/
theorem test_reductions :
    vOf (.xred 0 .addF32 5 4) five 5 4 = 0x3F800002
    ∧ vOf (.xscanInc 0 .addF32 6 4) five 6 4 = 0x3F800000
    ∧ vOf (.xseg 0 .addF32 7 4 3) five 7 4 = 0x34000000
    ∧ vOf (.xscanExc 0 .minI32 7 4) five 7 = 0x7FFFFFFF := by decide

/-- 05 R124 to R127, 03 R58: predicate logic, a write to P0, a WHEN of the complement, SEL. -/
theorem test_predicates :
    let s := (stand [[(1, 11), (2, 22)]]).onWave (fun w => { w with lanes := w.lanes.map (fun f => { f with preds := [(1, true)] }) })
    pOf (.pand 0 3 1 2) s 3 = 0 ∧ pOf (.pandn 0 3 1 2) s 3 = 1 ∧ pOf (.pxor 0 3 1 0) s 3 = 0
    ∧ pOf (.por 0 3 2 1) s 3 = 1 ∧ pOf (.pnot 0 3 1) s 3 = 0 ∧ pOf (.pmov 0 3 0) s 3 = 1
    ∧ pOf (.pnot 0 0 1) s 0 = 1
    ∧ vOf (.sel 0 1 5 1 2) s 5 = 11 ∧ vOf (.sel 0 2 5 1 2) s 5 = 22
    ∧ seen (exec (.whenP 0 1 true 3) s) (fun t => if (t.wave.fib 0).active then 1 else 0) = 0
    ∧ seen (exec (.whenP 0 1 false 3) s) (fun t => if (t.wave.fib 0).active then 1 else 0) = 1 := by decide

/-- The fates of 03's LD word: a fibre with A = 16 and b = 12 traps with code 0x020 where V4 passes A; indirect access
beyond A traps too, and within it reads b + n (03 R52, 11 R246). -/
theorem test_window :
    let s := (stand [[(12, 2), (13, 77), (14, 5)]]).onWave (fun w =>
      { w with lanes := w.lanes.map (fun f => { f with alloc := 16, base := 12 }) })
    causeOf (.ld 0 .n32 .device 4 1 ⟨false, 1⟩ 0) s = 12 * 2048 + 0x020
    ∧ vOf (.vxld 0 1 0) s 13 = 5 ∧ causeOf (.vxld 0 1 1) s = 12 * 2048 + 0x020
    ∧ vOf (.vxst 0 0 1) s 14 = 77
    ∧ vOf (.add 0 .vv 3 1 2) s 15 = 82 := by decide
/-! ### Memory, barriers, capabilities, engines -/

/-- A state whose low GiB is mapped for reading and writing, with C1 = [0x100000, +0x1000) for global loads
and stores and C2 = [0, +64) of the own Vat; 0x100008 holds 0x11223344. -/
def mapped (lanes : List Regs) (ss : Regs := []) : State :=
  ((((stand lanes ([(4, 0x100000), (6, 0x1000), (7, 0x8300), (10, 64), (11, 0x4300)] ++ ss)).onWave (fun w =>
    { w with stags := [(1, true), (2, true)] })).wrN 0x20000 7 8).wrN 0x100008 0x11223344 4)

/-- An instruction, and then the completion of the oldest access. -/
def whole (i : Instr) (s : State) : Out :=
  match exec i s with
  | .next t => exec (.accessComplete 0) t
  | .fault e => .fault e
  | .refused e => .refused e

/-- 13 R273, R274: a load raises its counter at issue and writes its register when it completes. -/
theorem test_load :
    let s := mapped [[(2, 8)]]
    seen (exec (.ld 0 .n32 .device 4 1 ⟨false, 1⟩ 0) s) (fun t => t.wave.ctr 0 + ((t.wave.fib 0).reg 4).toNat) = 1
    ∧ seen (whole (.ld 0 .n32 .device 4 1 ⟨false, 1⟩ 0) s) (fun t => ((t.wave.fib 0).reg 4).toNat) = 0x11223344
    ∧ seen (whole (.ld 0 .n32 .device 4 1 ⟨false, 1⟩ 0) s) (fun t => t.wave.ctr 0) = 0
    ∧ seen (whole (.ldaN32 0 .device 4 1 ⟨false, 1⟩ 0) s) (fun t => ((t.wave.fib 0).reg 4).toNat) = 0x11223344 := by
  decide

/-- 13 R274: a byte at offset 11 is the highest of the word; .n8 extends with zeros, .i8 with the sign. -/
theorem test_load_byte :
    let s := (mapped [[(2, 11)]]).wrN 0x10000B 0x91 1
    seen (whole (.ld 0 .n8 .fibre 4 1 ⟨false, 1⟩ 0) s) (fun t => ((t.wave.fib 0).reg 4).toNat) = 0x91
    ∧ seen (whole (.ld 0 .i8 .fibre 4 1 ⟨false, 1⟩ 0) s) (fun t => ((t.wave.fib 0).reg 4).toNat) = 0xFFFFFF91 := by decide

/-- A state in which one access is outstanding on D0. -/
def waiting (o : MemOp) (s : State) : State := s.onWave (fun w => { w with outst := [o], d := [(0, 1)] })

/-- 13 R276: a store writes its low bytes little-endian and no other byte; the highest lane wins. -/
theorem test_store :
    let two : List LaneReq := [{ lane := 0, phys := 0x100008, data := 0xAABBCCDD },
                               { lane := 1, phys := 0x100008, data := 0x55667788 }]
    let s := mapped [[(2, 8), (4, 0xAABBCCDD)]]
    seen (exec (.accessComplete 0) (waiting { kind := .store, w := 2, reqs := two } (mapped [[], []])))
        (fun t => t.rd 0x100006 8) = 0x112277880000
    ∧ seen (whole (.store 0 .n32 .fibre 4 1 ⟨false, 1⟩ 0) s) (fun t => t.rd 0x100008 8) = 0xAABBCCDD
    ∧ seen (whole (.stlN32 0 .device 4 1 ⟨false, 1⟩ 0) s) (fun t => t.rd 0x100008 4) = 0xAABBCCDD := by decide

/-- 13 R275: LDNR of a resident page gives the value and P15 = 1, of an unmapped one 0. -/
theorem test_ldnr :
    let s (a : Nat) := waiting { kind := .loadNr 4, reqs := [{ virt := a, phys := a, dst := 4 }] } (mapped [[(4, 9)]])
    seen (exec (.accessComplete 0) (s 0x100008)) (fun t => if (t.wave.fib 0).pred 15 then 1 else 0) = 1
    ∧ seen (exec (.accessComplete 0) (s 0x100008)) (fun t => ((t.wave.fib 0).reg 4).toNat) = 0x11223344
    ∧ seen (exec (.accessComplete 0) (s 0x40000000)) (fun t => ((t.wave.fib 0).reg 4).toNat) = 0 := by decide

/-- 13 R271: the checks in their order: tag, permission, bounds, alignment. -/
theorem test_access_traps :
    let s (o : Word) := mapped [[(2, o)]]
    causeOf (.ld 0 .n32 .fibre 4 3 ⟨false, 1⟩ 0) (s 8) = 5 * 2048 + 1
    ∧ causeOf (.ld 0 .n32 .fibre 4 2 ⟨false, 1⟩ 0) (s 8) = 5 * 2048 + 2
    ∧ causeOf (.ld 0 .n32 .fibre 4 1 ⟨false, 1⟩ 0) (s 0x0FFD) = 5 * 2048 + 3
    ∧ causeOf (.ld 0 .n32 .fibre 4 1 ⟨false, 1⟩ 0) (s 0x0FFC) = 0
    ∧ causeOf (.ld 0 .n32 .fibre 4 1 ⟨false, 1⟩ 0) (s 6) = 7 * 2048 + 1 := by decide

/-- 13 R284, R285: on the own Vat through C2, lanes in increasing order on one word: 0 + 1 + 2; each receives the value
before its own. ARED writes no register. -/
theorem test_atomic :
    let s := mapped [[(2, 8), (8, 1)], [(2, 8), (8, 2)]]
    let o := whole (.atom 0 .n32 .add .group 2 2 1 0) s
    seen o (fun t => (t.groupD 1).rd 8 4) = 3
    ∧ seen o (fun t => ((t.wave.fib 0).reg 8).toNat) = 0 ∧ seen o (fun t => ((t.wave.fib 1).reg 8).toNat) = 1
    ∧ seen (whole (.ared 0 .n32 .exch .group 2 2 1 0) s) (fun t =>
        (t.groupD 1).rd 8 4 + 16 * ((t.wave.fib 0).reg 8).toNat) = 18 := by decide

/-- 13 R286: a gather's element is at 4 times its index. -/
theorem test_gather :
    let s := (mapped [[(2, 2), (12, 0x100000), (14, 0x1000), (15, 0x8300)]]).onWave (fun w =>
      { w with lanes := w.lanes.map (fun f => { f with vtags := [(3, true)] }) })
    seen (whole (.gathN32 0 .device 4 3 ⟨false, 1⟩ 0) s) (fun t => ((t.wave.fib 0).reg 4).toNat) = 0x11223344 := by decide

/-- 13 R277, R278: the own Vat; VST.n8 writes one byte. -/
theorem test_vat :
    let s := mapped [[(2, 32), (4, 0xAABBCCDD)]]
    seen (whole (.vstN32 0 4 .own ⟨false, 1⟩ 0) s) (fun t => (t.groupD 1).rd 32 8) = 0xAABBCCDD
    ∧ seen (whole (.vstN8 0 4 .own ⟨false, 1⟩ 0) s) (fun t => (t.groupD 1).rd 32 8) = 0xDD
    ∧ causeOf (.vldN32 0 4 .own ⟨false, 1⟩ 0) (mapped [[(2, 65536)]]) = 9 * 2048 + 3
    ∧ causeOf (.vldN32 0 4 (.pos 1) ⟨false, 1⟩ 0) s = 11 * 2048 + 1 := by decide

/-- 18 R337, R341: the fields of a quad, whether its tag is set or not, and the length of the context capability. -/
theorem test_capability_fields :
    let s := stand [[(8, 0x100000), (10, 0x1000), (11, 0x00058300), (15, 0x00008000)]]
    pairOf (.cgetBase 0 2 2) s 2 = 0x100000 ∧ pairOf (.cgetLen 0 2 2) s 2 = 0x1000
    ∧ vOf (.cgetPerm 0 2 2) s 2 = 0x83 ∧ vOf (.cgetTid 0 2 2) s 2 = 5 ∧ vOf (.cgetTag 0 2 2) s 2 = 0
    ∧ pairOf (.cgetLen 0 2 3) s 2 = 2 ^ 56 := by decide

/-- 18 R342, R343: CNARROW moves base and length; without the narrow permission it traps with group 5. -/
theorem test_cnarrow :
    let s (p : Word) := (stand [[(8, 0x100000), (10, 0x1000), (11, p), (12, 0x10), (14, 0x20)]]).onWave (fun w =>
      { w with lanes := w.lanes.map (fun f => { f with vtags := [(2, true)] }) })
    vOf (.cnarrow 0 1 2 3) (s 0xC300) 4 = 0x100010 ∧ vOf (.cnarrow 0 1 2 3) (s 0xC300) 6 = 0x20
    ∧ causeOf (.cnarrow 0 1 2 3) (s 0x8300) / 2048 = 5 := by decide

/-- 14 R295, R299: BINIT with expected 2; with one arrival a BWAIT parks, and a second completes phase 0; on bytes of
zero, where every count is met, the check after a BWAIT completes the phase. -/
theorem test_barrier :
    let s := mapped [[(2, 16), (6, 2)]]
    let o := whole (.binit 0 .group 6 .own ⟨false, 1⟩ 0) s
    seen o (fun t => (t.groupD 1).rd 16 8) = 2 * 2 ^ 16
    ∧ pOf (.bwait 0 .group 5 .own ⟨false, 1⟩) s 14 = 1
    ∧ (let t := s.onGroup 1 (fun g => { g with vat := putBytes g.vat 16 (bytesOf (2 * 2 ^ 16 + 2 ^ 32) 16) })
      seen (exec (.bwait 0 .group 5 .own ⟨false, 1⟩) t) (fun t => if (t.wave.fib 0).run = .parked then 1 else 0) = 1
      ∧ seen (whole (.barr 0 .group 7 .own ⟨false, 1⟩ 0) t) (fun t => (t.groupD 1).rd 16 8) = 2 * 2 ^ 16 + 1) := by decide

/-- 14 R300: a phase before the object's has completed, and BWAIT goes on with P14. -/
theorem test_bwait_done :
    let s := (mapped [[(2, 16), (5, 0)]]).onGroup 1 (fun g => { g with vat := putBytes g.vat 16 (bytesOf (2 * 2 ^ 16 + 1) 16) })
    pOf (.bwait 0 .group 5 .own ⟨false, 1⟩) s 14 = 1 := by decide

/-- 06 R144, R132: TCLR fills a tile and marks each row empty; SWAP enters the array's queue and exchanges the planes.
-/
theorem test_array :
    seen (exec (.tclrFill 0 16 3) (stand [[]] [(16, 7)])) (fun t => (t.core.mat.tile 3).fill.toNat) = 7
    ∧ seen (exec (.swap 0) (stand [[]])) (fun t => t.core.arrayQ.length) = 1
    ∧ (let s := (stand [[]]).onCore (fun c => { c with arrayQ := [{ op := .swap }], mat := { shadow := { kv := 9 } } })
      seen (exec (.engineCommandComplete .array) s) (fun t => t.core.mat.active.kv + t.core.arrayQ.length) = 9) := by decide

/-- 14 R308: KICK of two requests, and more than the queue holds. -/
theorem test_kick :
    seen (exec (.kick 0 4 10 false) (stand [[(10, 128)]] [(4, 2)])) (fun t => t.core.reqQ.length + 16 * t.wave.ctr 4) = 18
    ∧ seen (exec (.kick 0 4 10 true) ((stand [[(10, 128)]] [(4, 2)]).onCore (fun c =>
        { c with reqQ := List.replicate 63 {} }))) (fun t => t.core.reqQ.length + t.wave.ctr 5) = 63 := by decide

/-- 18 R331, 13 R281: PWAIT of the zero token, and a fence with nothing before it. -/
theorem test_wait_and_fence :
    pOf (.pwait 0 6) (stand [[]]) 15 = 1 ∧ pcOf (.fence 0 .device) (stand [[]]) = placeAt + 8
    ∧ pcOf (.fence 0 .device) ((stand [[]]).onWave (fun w => { w with outst := [{ kind := .store, reqs := [{}] }] }))
      = placeAt + 4 := by decide

/-! ### Control, traps, system registers -/

/-- 10 R213 to R217: BRP's target is relative to its own word; a fibre whose predicate is 0 goes on behind the clause.
-/
theorem test_branch :
    let s := (stand [[], []]).onWave (fun w =>
      { w with lanes := updateAt (fun f => { f with preds := [(3, true)] }) 1 w.lanes
               cur := some { addr := placeAt, hdr := 0xF1A00000, words := [0xAC3FFFFF] } })
    pcOf (.brp 0 3 false 0x7FFFF) s 0 = placeAt + 8 ∧ pcOf (.brp 0 3 false 0x7FFFF) s 1 = placeAt
    ∧ pcOf (.bra 0 0x7FFFF) s 0 = placeAt
    ∧ causeOf (.bra 0 1) s = 14 * 2048 + 1
    ∧ causeOf (.brx 0 2) (stand [[(4, 0x30002)]]) = 14 * 2048 + 3 := by decide

/-- 10 R218, R220, R221: a call pushes the word after the clause, a return pops it; an empty stack traps. -/
theorem test_call :
    seen (exec (.call 0 0x7FFFF) (stand [[]])) (fun t => match (t.wave.fib 0).frames with
      | [(a, b)] => a.toNat + b.toNat
      | _ => 0) = placeAt + 64
    ∧ pcOf (.ret 0) ((stand [[]]).onWave (fun w =>
        { w with lanes := w.lanes.map (fun f => { f with frames := [(0x30000, 8)] }) })) = 0x30000
    ∧ causeOf (.ret 0) (stand [[]]) = 13 * 2048 + 2 := by decide

/-- 10 R222, R225: two fibres meet at a JOIN; END ends its fibres. -/
theorem test_join_and_end :
    seen (exec (.join 0 0 7) (stand [[], []])) (fun t => t.wave.joins.length + (t.wave.fib 1).pc) = placeAt + 64
    ∧ seen (exec (.endF 0) (stand [[]])) (fun t => if (t.wave.fib 0).alive then 1 else 0) = 0
    ∧ seen (exec (.fork 0 1 1 8) (stand [[(2, 0x30000), (8, 5)]])) (fun t => t.core.bins.length) = 1 := by decide

/-- 10 R227 to R229, 11 R237: waiting, windows, and a width of 0. -/
theorem test_windows :
    seen (exec (.wset 0 4) (stand [[]])) (fun t => (t.wave.fib 0).base) = 16
    ∧ causeOf (.wset 0 32) (stand [[]]) = 12 * 2048 + 0x024
    ∧ seen (exec (.wslide 0 62) ((stand [[]]).onWave (fun w =>
        { w with lanes := w.lanes.map (fun f => { f with base := 8 }) }))) (fun t => (t.wave.fib 0).base) = 0
    ∧ seen (exec (.waitd 0 0x11) (stand [[]])) (fun t => t.wave.waitMask.toNat) = 0x11
    ∧ causeOf (.width 0 2 1) (stand [[]]) = 12 * 2048 + 0x025
    ∧ seen (exec (.width 0 2 1) (stand [[]] [(1, 8)])) (fun t => t.wave.g) = 8 := by decide

/-- 03 R62, 04 R83, 10 R219: LANE, FPCTL's reserved bits, a stack limit that is no multiple of 16. -/
theorem test_system_registers :
    vOf (.srd 0 2 .lane) (stand [[], []]) 2 1 = 1
    ∧ seen (exec (.swrFpctl 0 1) (stand [[(1, 0xFFFFFFFF)]])) (fun t => t.wave.fpctl.toNat) = 0x303
    ∧ seen (exec (.swr 0 1 .wstat) (stand [[(1, 0xFFFFFFFF)]])) (fun t =>
        (if t.wave.wchg then 1 else 0) + (if t.wave.chk then 2 else 0) + (if t.wave.det then 4 else 0)) = 3
    ∧ causeOf (.swrSlim 0 2) (stand [[(2, 8)]]) = 13 * 2048 + 3
    ∧ seen (exec (.swrSkipcnt 0 1) (stand [[(1, 9)]])) (fun t => t.core.mat.skipcnt.toNat) = 9 := by decide

/-- 20 R375 to R378: TRAP's cause, detail and TPC; BRK; TRET resumes; a second trap in the handler is nested. -/
theorem test_traps :
    let s := stand [[(5, 77)]]
    causeOf (.trap 0 5 0x2A) s = 15 * 2048 + 0x2A
    ∧ seen (exec (.trap 0 5 0x2A) s) (fun t => t.wave.tdet0.toNat + t.wave.tpc.toNat) = 77 + placeAt + 64
    ∧ pcOf (.trap 0 5 0x2A) s = 0x40000 ∧ causeOf (.brk 0) s = 16 * 2048
    ∧ causeOf (.tret 0) s = 14 * 2048 + 6
    ∧ (let h := s.onWave (fun w => { w with handler := true, tpc := 0x30000
                                            lanes := w.lanes.map (fun f => { f with inHandler := true }) })
      pcOf (.tret 0) h = 0x30000
      ∧ seen (exec (.brk 0) h) (fun t => match t.wave.dying with
        | some r => if r.nested then 1 else 0
        | none => 0) = 1) := by decide

/-- 18 R333, R351, 20 R386: a steward's word in user mode raises 0x00D; the steward's TLBI waits for its scope. -/
theorem test_steward :
    causeOf (.tlbiAll 0 .die) (stand [[]]) = 1 * 2048 + 0x00D
    ∧ seen (exec (.tlbiAll 0 .die) ((stand [[]]).onWave (fun w => { w with steward := true }))) (fun t =>
        t.wave.tlbiWait.length) = 48 := by decide

/-! ### Events -/

/-- 20 R379, 19 R361, R367, 18 R350, 10 R210: the timer, the power states, a boot step, a context, a request to
pre-empt. -/
theorem test_events :
    seen (exec .timerExpire ((stand [[]]).onWave (fun w => { w with timer := 5, tctl := 3 }))) (fun t =>
      t.wave.tctl.toNat + (if t.wave.pend17 then 16 else 0)) = 23
    ∧ seen (exec (.powerControlWrite 40) State.reset) (fun t => t.mgmt.tol) = 40
    ∧ seen (exec .boot State.reset) (fun t => t.mgmt.journal.length) = 1
    ∧ seen (exec (.contextCreate 7 0x1000 0x2000 16 0 0) State.reset) (fun t => (t.ctxD 7).ptroot.toNat) = 0x1000
    ∧ seen (exec (.contextCreate 0 0x1000 0x2000 16 0 0) State.reset) (fun t => t.contexts.length) = 0
    ∧ seen (exec (.preemptRequest 5) State.reset) (fun t =>
        (t.cores.filter (fun c => c.preempt == .requested [5])).length) = 1 := by decide

/-- A device in service whose context 1 has a host window over all local addresses. -/
def hosted : State := (State.reset.withFetchWord 32 0).onContext 1 (fun c => { c with window := (0, 2 ^ 44) })

/-- 19 R352, R357, 18 R423: the host writes two bytes, and adds to a word that it receives; outside every window it
receives an error; nothing is at an address of an unassigned range. -/
theorem test_host :
    seen (exec (.hostAccess 0x100 (.write [7, 8])) hosted) (fun t => t.rd 0x100 2) = 0x807
    ∧ seen (exec (.hostAccess 0x100 (.atomic .i32 .add 5 0)) (hosted.wrN 0x100 4 4)) (fun t =>
        t.rd 0x100 4 * 16 + ((t.reply.getD []).headD 0).toNat) = 9 * 16 + 4
    ∧ seen (exec (.hostAccess 0x100 (.write [7])) (State.reset.withFetchWord 32 0)) (fun t =>
        t.rd 0x100 1 + (if t.reply.isNone then 16 else 0)) = 16
    ∧ (match exec (.hostAccess 0x40000000000 (.read 4)) hosted with
      | .fault (.unassignedAddress a) => a
      | _ => 0) = 0x40000000000 := by decide

/-- 19 R355, R360: the management window reads its magic, its version, and the tolerance that was written. -/
theorem test_mgmt_window :
    let word (s : State) (off : Nat) : Nat :=
      seen (exec (.mgmtRegisterWrite off (.read 4)) s) (fun t => fromBytes (t.reply.getD []))
    word State.reset 0 = 0x4D47535A ∧ word State.reset 4 = 1 ∧ word State.reset 0x80 = 0x40000001
    ∧ (match exec (.powerControlWrite 0x7000002A) State.reset with
      | .next t => word t 0x40
      | _ => 0) = 42 := by decide

/-! ### Save images (21 R391 to R396) -/

/-- 21 R392: the first bytes of an image header are "ZSIM", and the version is 1. -/
theorem test_image_header :
    (((State.reset).imageHeader {} 5).take 8 == [0x5A, 0x53, 0x49, 0x4D, 1, 0, 0, 0] &&
      (((State.reset).imageHeader {} 5).getD 29 0 == 5)) = true := by decide

/-- 21 R395: a fibre record holds the pc from bit 0, predicate `n` at bit 47 + n and the base from bit 76. -/
theorem test_fibre_record :
    (let f : Fibre := { pc := 0x30040, preds := [(2, true)], base := 0x21, present := true };
      f.record.length == 32 && f.record.take 2 == [0x40, 0x00] && f.record.getD 2 0 == 3 &&
      f.record.getD 6 0 == 2 && f.record.getD 9 0 == 0x10) = true := by decide

/-- 21 R391: the largest state stream is 606,624 bytes, header, core section, records and maps. -/
theorem test_state_bound :
    64 + coreSectionSize + 32 * 1152 + 32 * 1024 + 393216 / 256 / 8 + 393216 / 8 + 393216 / 32 * 4 = 606624 := by
  decide
/-! ### States that meet the hypotheses of the statements -/

/-- `State.Ready`, computed. -/
def readyB (s : State) (u : Uses) : Bool :=
  s.wave.anyActive && !s.held u && (s.met.wave.rangeFault u).isNone &&
  (!s.met.wave.checking || ((s.met.wave.schedFault u).isNone && (s.met.wave.lentFault u).isNone))

theorem ready_of {s : State} {u : Uses} (h : readyB s u = true) : s.Ready u := by
  simp only [readyB, Bool.and_eq_true, Bool.or_eq_true, Bool.not_eq_true', Option.isNone_iff_eq_none] at h
  obtain ⟨⟨⟨a, b⟩, c⟩, d⟩ := h
  refine ⟨a, b, c, fun k => ?_, fun k => ?_⟩ <;> simp_all

theorem all_ready {s : State} {us : List Uses} (h : us.all (readyB s) = true) : ∀ u ∈ us, s.Ready u :=
  fun u hu => ready_of (List.all_eq_true.mp h u hu)

/-- `State.Open`, computed. -/
def openB (s : State) (u : Uses) : Bool :=
  s.wave.anyActive && !s.held u &&
  (!s.met.wave.checking || ((s.met.wave.schedFault u).isNone && (s.met.wave.lentFault u).isNone))

theorem open_of {s : State} {u : Uses} (h : openB s u = true) : s.Open u := by
  simp only [openB, Bool.and_eq_true, Bool.or_eq_true, Bool.not_eq_true', Option.isNone_iff_eq_none] at h
  obtain ⟨⟨a, b⟩, d⟩ := h
  refine ⟨a, b, fun k => ?_, fun k => ?_⟩ <;> simp_all

theorem all_open {s : State} {us : List Uses} (h : us.all (openB s) = true) : ∀ u ∈ us, s.Open u :=
  fun u hu => open_of (List.all_eq_true.mp h u hu)

/-- `State.Calm`, computed. -/
def calmB (s : State) (fl : Nat → Word) : Bool :=
  s.wave.activeLanes.all (fun l =>
    !(bit s.wave.fpctl.toNat 8 && bit (fl l).toNat 0) && !(bit s.wave.fpctl.toNat 9 && bit (fl l).toNat 6))

theorem calm_of {s : State} {fl : Nat → Word} (h : calmB s fl = true) : s.Calm fl := by
  intro l hl
  have := List.all_eq_true.mp h l hl
  constructor <;> rintro ⟨p, q⟩ <;> simp_all

/-- An outcome is a next state. -/
def goesOn (o : Out) : Bool :=
  match o with
  | .next _ => true
  | .fault _ => false
  | .refused _ => false

theorem next_of {o : Out} (h : goesOn o = true) : ∃ t, o = .next t := by
  cases o with
  | next t => exact ⟨t, rfl⟩
  | fault e => cases h
  | refused e => cases h

/-- `mapped` with the page 0x4000 of context 1 in a table of level 3, with this leaf at 0x60000. -/
def paged (leaf : Nat) : State :=
  (((mapped [[]]).wrN 0x20008 0x50001 8).wrN 0x50000 0x60001 8).wrN 0x60000 leaf 8

/-- A die's wait table with a live entry for the page. -/
def asked (s : State) : State := s.setDie 0 { s.die 0 with waits := [{ ctx := 1, page := 0x4000 }] }

/-- Under NVE the lowest active lane that raises NV is lane `l`, and no lane raises IDZ, computed. -/
def nvB (s : State) (u : Uses) (fl : Nat → Word) (l : Nat) : Bool :=
  readyB s u && bit s.wave.fpctl.toNat 8 && s.wave.activeLanes.find? (fun k => bit (fl k).toNat 0) == some l &&
  s.wave.activeLanes.all (fun k => !bit (fl k).toNat 6)

/-- What a translation answers: whether it succeeds, with the address or the code. -/
def answer (x : Except Nat Nat) : Bool × Nat :=
  match x with
  | .ok p => (true, p)
  | .error c => (false, c)

/-- Two fibres with V2 = 8 and `o`; C1 covers the last mapped page and the page 0x4000 after it, whose leaf this is;
C2 begins just below 2^56. -/
def twin (o leaf : Nat) : State :=
  (paged leaf).onWave (fun w => { w with
    lanes := [lane [(2, 8), (4, 1)], lane [(2, BitVec.ofNat 32 o), (4, 1)]]
    g := 2
    s := [(4, 0x3FFF0000), (6, 0x20000), (7, 0x8300), (8, 0xFFFFFFF0), (9, 0xFFFFFF), (10, 0x20000), (11, 0x8300)] })

/-- `twin` in a launch with chkd whose group has a guard, where the pages are checked. -/
def twinChecked (o : Nat) : State :=
  { (twin o 0).wrN 0x20000 23 8 with launches := [{ id := 1, ctx := 1, chkd := true }] }
    |>.onGroup 1 (fun g => { g with guardOff := some (1, 64) })

/-- `State.Performs`, computed. -/
def performsB (s : State) (o : MemOp) : Bool :=
  s.wave.outst[0]? == some o && s.mayPerform 0 && !s.logWait o && o.reqs.all (fun q => (s.reqRefused o q).isNone)

theorem performs_of {s : State} {o : MemOp} (h : performsB s o = true) : s.Performs 0 o := by
  simp only [performsB, Bool.and_eq_true, List.all_eq_true, Bool.not_eq_true', beq_iff_eq, Option.isNone_iff_eq_none] at h
  exact ⟨h.1.1.1, h.1.1.2, h.1.2, h.2⟩

/-- A pool whose tier 0 has a table at 0x102100 with one free block, its log at 0x102200 with room for one entry. -/
def pooled (s : State) : State :=
  (((((s.wrN 0x102000 0x102100 8).wrN 0x102020 1 8).wrN 0x102018 0x102200 8).wrN 0x102050 1 4).wrN 0x102065 2 1).wrN 0x102060 1 4
    |>.onContext 1 (fun c => { c with pools := [{ num := 2, desc := 0x102000 }] })

/-- Two fibres, with some registers that hold small even numbers. -/
def duo : State :=
  stand [[(1, 6), (2, 8), (3, 4)], [(1, 12), (2, 4), (3, 2)]] [(1, 2), (2, 8), (3, 1)]

/-- `duo` with FPCTL.NVE and IDZE set. -/
def strict : State := duo.onWave (fun w => { w with fpctl := 0x300 })

theorem witness_IntResult : ∀ u ∈ [(IntForm.vv.dest 3).uses.plus (IntForm.vv.reads 1 2),
      (IntForm.vi.dest 3).uses.plus (IntForm.vi.reads 1 63), (IntForm.ss.dest 3).uses.plus (IntForm.ss.reads 1 2),
      (IntForm.vv.dest 3).uses.plus (IntForm.vv.reads1 1)], duo.Ready u := all_ready (by decide)

/-- Nonzero divisors; a zero divisor (V9 reads 0) without IDZE; and with it, in lane 0, the lowest. -/
theorem witness_DivResult :
    duo.Ready ((IntForm.vv.dest 3).uses.plus (IntForm.vv.reads 1 2))
    ∧ strict.Ready ((IntForm.vv.dest 3).uses.plus (IntForm.vv.reads 1 9))
    ∧ ¬ (duo.wave.fpctl.getLsbD 9 = true) ∧ strict.wave.fpctl.getLsbD 9 = true
    ∧ duo.wave.activeLanes.any (fun l => IntForm.vv.opB false 2 duo.met l == 0) = false
    ∧ strict.wave.activeLanes.find? (fun l => IntForm.vv.opB false 9 strict.met l == 0) = some 0
    ∧ strict.wave.activeLanes.find? (fun l => IntForm.vv.opB true 9 strict.met l == 0) = some 0 :=
  ⟨ready_of (by decide), ready_of (by decide), by decide, by decide, by decide, by decide, by decide⟩

theorem witness_ConstantAndAddressResult : ∀ u ∈ [
      (Dest.v 4).uses.plus { rv := [(1, 1), (2, 1), (3, 1)] }, (Dest.v 4).uses.plus {}, (Dest.s 4).uses.plus {},
      (Dest.v 4).uses.plus { rv := [(4, 1)] }, (Dest.v64 4).uses.plus { rv := [(2, 2), (6, 2)] },
      (Dest.v64 4).uses.plus { rv := [(2, 2), (1, 1)] }], duo.Ready u := all_ready (by decide)

theorem witness_CompareResult :
    (∀ u ∈ [(Dest.p 15).uses.plus (CmpForm.vi.reads 1 63), (Dest.p 0).uses.plus (CmpForm.ss.reads 1 2),
      (Dest.p 1).uses.plus { rv := [(2, 2), (4, 2)] }, (Dest.p 1).uses.plus (FForm.vs.reads 1 2)], duo.Ready u)
    ∧ strict.Ready ((Dest.p 1).uses.plus (FForm.vv.reads 1 2))
    ∧ strict.Calm (fun l => (fcompare fp32 .lt (FForm.vv.opA 1 strict.met l).toNat (FForm.vv.opB 2 strict.met l).toNat).2)
    ∧ strict.Calm (fun l => (fcompare fp64 .lt (strict.met.readV64 l 2).toNat (strict.met.readV64 l 4).toNat).2) :=
  ⟨all_ready (by decide), ready_of (by decide), calm_of (by decide), calm_of (by decide)⟩

theorem witness_ResultPlaced : duo.wave.anyActive = true := by decide

theorem witness_WaveWordFrame :
    Instr.waveOnly (.add 0 .vv 3 1 2) = true ∧ (∃ t, exec (.add 0 .vv 3 1 2) duo = .next t)
    ∧ Instr.waveOnly (.brk 0) = true ∧ (∃ t, exec (.brk 0) duo = .next t) :=
  ⟨rfl, next_of (by decide), rfl, next_of (by decide)⟩

theorem witness_Fp32Result :
    (∀ u ∈ [(FForm.vs.dest 3).uses.plus (FForm.vs.reads 1 2), (FForm.ss.dest 3).uses.plus (FForm.ss.reads1 1),
      (Dest.v 4).uses.plus { rv := [(1, 1)] }, (Dest.v 4).uses.plus { rv := [(1, 1), (2, 1), (3, 1)] }], strict.Ready u)
    ∧ strict.Calm (fun l => (fpAdd fp32 .rne (FForm.vv.opA 1 strict.met l).toNat (FForm.vv.opB 2 strict.met l).toNat).flags)
    ∧ strict.Calm (fun l => (fpFma fp32 .rne true true (strict.met.readV l 1).toNat (strict.met.readV l 2).toNat
        (strict.met.readV l 3).toNat).flags)
    ∧ strict.Calm (fun l => (fpRcp (strict.met.readV l 1).toNat).flags) :=
  ⟨all_ready (by decide), calm_of (by decide), calm_of (by decide), calm_of (by decide)⟩

theorem witness_PackedAndFp64Result :
    (∀ u ∈ [(Dest.v 4).uses.plus { rv := [(1, 1), (2, 1)] }, (Dest.v 4).uses.plus { rv := [(1, 1), (2, 1), (4, 1)] },
      (Dest.v64 4).uses.plus { rv := [(2, 2), (6, 2)] }, (Dest.v64 4).uses.plus { rv := [(2, 2), (6, 2), (8, 2)] },
      (Dest.v64 4).uses.plus { rv := [(2, 2)] }], strict.Ready u)
    ∧ strict.Calm (fun l => (fpMul fp16 .rne (bits (strict.met.readV l 1).toNat 15 0) (bits (strict.met.readV l 2).toNat 15 0)).flags
        ||| (fpMul fp16 .rne (bits (strict.met.readV l 1).toNat 31 16) (bits (strict.met.readV l 2).toNat 31 16)).flags)
    ∧ strict.Calm (fun l => (fpAdd fp64 .rne (strict.met.readV64 l 2).toNat (strict.met.readV64 l 6).toNat).flags) :=
  ⟨all_ready (by decide), calm_of (by decide), calm_of (by decide)⟩

/-- Pairs and single registers for CVT; QNT's control words 0x8002 and, bad, 3. -/
theorem witness_ConversionResult :
    (∀ u ∈ [(Dest.v64 4).uses.plus { rv := [(2, 2)] }, (Dest.v 4).uses.plus { rv := [(1, 1)] },
      { rv := [(1, 1)], wv := [(4, 1)], rs := [10] }], strict.Ready u)
    ∧ strict.Calm (fun l => (convert .f32 .i32 .zero false (strict.met.readV l 1).toNat).2)
    ∧ (let cw (x : Word) : State := stand [[(6, 0x41100000)]] [(10, x)]
      (cw 3).met.readS 10 % 4 = 3
      ∧ bits ((cw 0x8002).met.readS 10).toNat 31 24 = 0 ∧ bits ((cw 0x8002).met.readS 10).toNat 7 6 = 0
      ∧ bits ((cw 0x8002).met.readS 10).toNat 1 0 ≠ 3
      ∧ (cw 0x8002).met.compander (cw 0x8002).wave.ctx 0 = .ok none
      ∧ (cw 0x8002).Calm (fun _ => (quantise 5 none (decodeScale 1 0x80) (decodeFp fp32 0x41100000)).flags)) :=
  ⟨all_ready (by decide), calm_of (by decide), by decide, by decide, by decide, by decide, rfl, calm_of (by decide)⟩

/-- A result that waits for V registers and one for S3; under NVE an addition of infinities, a root of a negative
number, a packed and a double product of infinity and zero, and a conversion of a NaN, in lane 1. -/
theorem witness_InterlockedAndInvalid :
    (∀ u ∈ [Uses.plus { wv := [(4, 1)] } { rv := [(1, 1)] }, Uses.plus { wv := [(4, 1)] } { rv := [(1, 1), (2, 1)] }],
      duo.Ready u)
    ∧ duo.Calm (fun l => (fpDiv fp32 .rne (duo.met.readV l 1).toNat (duo.met.readV l 2).toNat).flags)
    ∧ (let ys : List (Nat × Nat × Word) := [(0, 4, 7), (1, 4, 8)]
      let s := duo.onWave (fun w => { w with interlocks :=
        [⟨ys.map (fun y => (RegFile.v, y.1, y.2.1, y.2.2))⟩, ⟨[(RegFile.s, 0, 3, 9)]⟩] })
      s.wave.interlocks[0]? = some ⟨ys.map (fun y => (RegFile.v, y.1, y.2.1, y.2.2))⟩
      ∧ (ys.map (fun y => (y.1, y.2.1))).Nodup ∧ s.wave.interlocks[1]? = some ⟨[(RegFile.s, 0, 3, 9)]⟩)
    ∧ (let inf : Nat := 0x7F800000
      let s := (stand [[], [(1, BitVec.ofNat 32 inf), (2, 0xFF800000), (5, 0x7FF00000), (6, 0x7C00)]]).onWave
        (fun w => { w with fpctl := 0x100 })
      let x (r l : Nat) : Nat := (s.met.readV l r).toNat
      nvB s ((FForm.vv.dest 3).uses.plus (FForm.vv.reads 1 2)) (fun l => (fpAdd fp32 .rne (x 1 l) (x 2 l)).flags) 1 = true
      ∧ nvB s ((Dest.v 3).uses.plus { rv := [(2, 1)] }) (fun l => (fpSqrt fp32 .rne (x 2 l)).flags) 1 = true
      ∧ nvB s ((Dest.v 3).uses.plus { rv := [(6, 1), (7, 1)] })
          (fun l => (fpMul fp16 .rne (bits (x 6 l) 15 0) (bits (x 7 l) 15 0)).flags) 1 = true
      ∧ nvB s ((Dest.v64 8).uses.plus { rv := [(4, 2), (10, 2)] })
          (fun l => (fpMul fp64 .rne (s.met.readV64 l 4).toNat (s.met.readV64 l 10).toNat).flags) 1 = true
      ∧ nvB s ((Dest.v 3).uses.plus { rv := [(1, 1)] }) (fun l => (convert .f32 .i32 .zero false (x 1 l)).2) 1 = true) := by
  refine ⟨all_ready (by decide), calm_of (by decide), by decide, by decide⟩

/-- A quiet and a signalling NaN, a value, and the last code of a format. -/
theorem witness_NanAndRounding :
    (decodeFp fp32 0x7FC00000).isNan = true ∧ (decodeFp fp32 0x7F800001).isSig = true
    ∧ (decodeFp fp16 0xFBFF).isNan = false ∧ 0xFBFF < 2 * fp16.signBit ∧ fp16 ∈ [fp64, fp32, fp16, bf16]
    ∧ e4m3 ∈ [fp64, fp32, fp16, bf16, e5m2, e4m3] ∧ (decodeFp e4m3 0x7F).isNan = true
    ∧ (decodeFp bf16 0x7F81).isNan = true := by decide

/-- Predicates; a WHEN that is not the last word of its clause, over one word and over 14. -/
theorem witness_PredicateResult :
    (∀ u ∈ [(Dest.p 3).uses.plus { rp := [1, 2] }, (Dest.p 0).uses.plus { rp := [15] },
      (Dest.v 5).uses.plus { rv := [(1, 1), (2, 1)], rp := [4] }, { rp := [1] }], duo.Ready u)
    ∧ duo.wave.atLast = false ∧ 0 < (1 : BitVec 6).toNat ∧ 0 < (14 : BitVec 6).toNat
    ∧ (duo.wave.fib 0).inSet = true ∧ (duo.wave.fib 0).pc = duo.wave.pc :=
  ⟨all_ready (by decide), by decide, by decide, by decide, by decide, by decide⟩

theorem witness_CrossLaneResult :
    let lim (j : Nat) : Option Nat := if j < 4 then some j else none
    let xs (mine : Bool) (src : Nat → Option Nat) : List RegUse :=
      four.met.wave.activeLanes.flatMap (fun l => four.met.sourceUse 4 mine l (src l))
    let u (mine : Bool) (w : Uses) (src : Nat → Option Nat) : Uses :=
      (Dest.v 7).uses.plus (Uses.plus { nv := [(4, 1)], xr := xs mine src } w);
    (∀ x ∈ [u true { rv := [(3, 1)] } (fun l => lim (four.met.readV l 3).toNat),
      u true { rs := [3] } (fun l => if 2 ≤ l then some (l - 2) else none), u true { rs := [3] } (fun l => lim (l + 2)),
      u true { rs := [3] } (fun l => lim (Nat.xor l 2)), u false { rs := [3] } (fun _ => lim 2),
      (Dest.p 1).uses.plus { xr := four.wave.votersUses .p 2 },
      (Dest.v 7).uses.plus { xr := four.wave.votersUses .p 2, rs := [0] },
      (Dest.v 7).uses.plus { nv := [(4, 1)], xr := four.wave.votersUses .v 4 }], four.Ready x)
    ∧ (four.readS 3).toNat = 2 ∧ four.wave.activeLanes = [0, 1, 3] ∧ four.wave.g = 4 := by
  refine ⟨all_ready (by decide), by decide⟩

/-- PERM; an index just below A - b and one at it. -/
theorem witness_MovedRegisters :
    let s (i : Word) := stand [[(1, i), (2, i)]]
    (∀ u ∈ [{ nv := [(1, 1), (2, 1)], wv := [(4, 1)], xr := (s 127).met.permUses 1 2 }, { rv := [(1, 1)], wv := [(4, 1)] },
      (Dest.v 4).uses.plus { rv := [(1, 1)], xr := (s 127).met.indexRegs 1 },
      { rv := [(2, 1), (1, 1)], xw := (s 127).met.indexRegs 2 }, { rv := [(2, 1), (1, 1)] }], (s 127).Ready u)
    ∧ (s 127).wave.activeLanes = [0]
    ∧ (∀ r ∈ [1, 2], ∀ l ∈ (s 127).wave.activeLanes,
        ((s 127).wave.fib l).base + ((s 127).met.readV l r).toNat < ((s 127).wave.fib l).alloc)
    ∧ (∀ u ∈ [{ rv := [(1, 1)], wv := [(4, 1)] }, { rv := [(2, 1), (1, 1)] }], (s 128).Ready u)
    ∧ (∀ r ∈ [1, 2], (s 128).wave.activeLanes.find? (fun l =>
        decide (((s 128).wave.fib l).alloc ≤ ((s 128).wave.fib l).base + ((s 128).met.readV l r).toNat)) = some 0) := by
  refine ⟨all_ready (by decide), by decide, by decide, all_ready (by decide), by decide⟩

/-- Sums without NV and, under NVE, of two infinities in the tree's first node; one operator that rounds nothing. -/
theorem witness_ReductionResult :
    (∀ u ∈ [(Dest.v 7).uses.plus { nv := [(4, 1)], xr := four.wave.votersUses .v 4 },
      (Dest.v 7).uses.plus { rv := [(4, 1)] }, (Dest.v 7).uses.plus { rv := [(4, 1)], rp := [3] }], four.Ready u)
    ∧ five.Calm (fun _ => (fpAdd fp32 .rne 0x3F800000 0x33800000).flags)
    ∧ (let s := (stand [[(4, 0x7F800000)], [(4, 0xFF800000)]]).onWave (fun w => { w with fpctl := 0x100 })
      nvB s ((Dest.v 7).uses.plus { nv := [(4, 1)], xr := s.wave.votersUses .v 4 })
        (fun _ => (fpAdd fp32 .rne 0x7F800000 0xFF800000).flags) 0 = true)
    ∧ (∀ l ∈ four.wave.activeLanes, l < 256) ∧ four.wave.activeLanes ≠ []
    ∧ RedOp.minN32 ∈ [RedOp.addI32, .minI32, .maxI32, .minN32, .maxN32, .bitAnd, .bitOr, .bitXor] := by
  refine ⟨all_ready (by decide), calm_of (by decide), by decide, by decide, by decide, by decide⟩

/-- A base of 124 = A - 4 fits and one of 128 does not; a slide below 0; widths 0, 1, 256 and 257, and one that waits.
-/
theorem witness_WaitWindowWidth :
    duo.Ready {}
    ∧ (∀ l ∈ duo.wave.activeLanes, 0 ≤ (4 * 31 : Int) ∧ (4 * 31 : Int) + 4 ≤ (duo.wave.fib l).alloc)
    ∧ duo.wave.activeLanes.find? (fun l =>
        decide ((4 * 32 : Int) < 0) || decide (((duo.wave.fib l).alloc : Int) < 4 * 32 + 4)) = some 0
    ∧ duo.wave.activeLanes.find? (fun l =>
        decide (((duo.wave.fib l).base : Int) + 4 * (-1) < 0) || decide (((duo.wave.fib l).alloc : Int) < 0)) = some 0
    ∧ (duo.onWave (fun w => { w with outst := [{ kind := .store, reqs := [{}] }] })).met.wave.quiet = false
    ∧ (∀ r ∈ [0, 1, 256, 257], let s : State := stand [[], []] [(1, BitVec.ofNat 32 r)]
      readyB s { rs := [1], ws := [2] } = true ∧ s.met.wave.quiet = true ∧ s.met.wave.lent = []
      ∧ max (max (min ((s.met.onWave Wave.allLanded).readS 1).toNat s.core.gmax) s.wave.highLane) 1 ≤ 256) := by
  refine ⟨ready_of (by decide), ?_⟩
  decide

/-- A wave whose fibre holds a tagged quad Q2 that may be narrowed, a bounds quad Q3 and a control register V16. -/
def quads : State :=
  (stand [[(8, 0x100000), (10, 0x1000), (11, 0xC300), (12, 0xFE0), (14, 0x20), (16, 0x80050041)]]).onWave (fun w =>
    { w with lanes := w.lanes.map (fun f => { f with vtags := [(2, true)] }) })

/-- A range that ends at the end of the source's, and a subset of its permissions. -/
theorem witness_CapabilityWords :
    (∀ u ∈ [(Dest.v64 2).uses.plus { rv := [(8, 4)] }, (Dest.v 2).uses.plus { rv := [(8, 4)] },
      Uses.plus { wv := [(4, 4)] } { rv := [(8, 4)] }, Uses.plus { ws := [8, 9, 10, 11] } (quadReads 3),
      Uses.plus { rv := [(8, 4)], wv := [(4, 4)] } { rv := [(12, 4)] },
      Uses.plus { rv := [(8, 4)], wv := [(4, 4)] } { rv := [(16, 1)] }], quads.Ready u)
    ∧ (∀ l ∈ quads.wave.activeLanes, quads.met.vtag l 2 = true
        ∧ Nat.land (capPerm (quads.met.readVQuad l 2)) pNarrow ≠ 0 ∧ (quads.wave.fib l).base % 4 = 0)
    ∧ (∀ l ∈ quads.wave.activeLanes, 0 < (quads.met.readV64 l 14).toNat ∧ (quads.met.readV64 l 14).toNat < 2 ^ 40
        ∧ (quads.met.readV64 l 12).toNat + (quads.met.readV64 l 14).toNat ≤ capLen (quads.met.readVQuad l 2)
        ∧ capBase (quads.met.readVQuad l 2) + (quads.met.readV64 l 12).toNat < 2 ^ 64)
    ∧ (∀ l ∈ quads.wave.activeLanes, bits (quads.met.readV l 16).toNat 15 8 = 0
        ∧ bits (quads.met.readV l 16).toNat 30 28 = 0) :=
  ⟨all_ready (by decide), by decide, by decide, by decide⟩

/-- `duo` in the steward's mode, and under det. -/
def stew : State := duo.onWave (fun w => { w with steward := true })
def detDuo : State := duo.onWave (fun w => { w with det := true })

/-- A user register; a steward's register in its mode; FPSTAT with nothing pending; counters with an access outstanding
and with none. -/
theorem witness_SrdReads :
    (∀ u ∈ [{ wv := [(2, 1)] }, { wv := [(2, 2)] }], duo.Ready u ∧ stew.Ready u ∧ detDuo.Ready u)
    ∧ (∀ r ∈ [SysReg.lane, .ssave, .slim, .sctx], ∀ l ∈ duo.wave.activeLanes,
        duo.wave.sysOlds r l = [] ∧ stew.wave.sysOlds r stew.wave.sctx.toNat = [])
    ∧ SysReg.isSteward .lane = false ∧ SysReg.isSteward .ssave = true ∧ ctxReg .ssave = true ∧ stew.wave.steward = true
    ∧ duo.wave.flagsPending = false ∧ SysReg.isCounter .fpstat = false
    ∧ duo.met.wave.quiet = true ∧ detDuo.met.wave.quiet = true ∧ detDuo.wave.det = true
    ∧ (let s := duo.onWave (fun w => { w with outst := [{ kind := .store, reqs := [{}] }] })
      readyB s { wv := [(2, 2)] } = true ∧ s.met.wave.quiet = false) := by
  refine ⟨fun u hu => ?_, by decide⟩
  rcases (by simpa using hu : u = _ ∨ u = _) with h | h <;> subst h <;>
    exact ⟨ready_of (by decide), ready_of (by decide), ready_of (by decide)⟩

/-- A steward's word and pair; stack limits of 0 and 65,536, the ends of the range, and one below and one above. -/
theorem witness_SwrWrites :
    (∀ u ∈ [{ rv := [(1, 1)] }, { rv := [(2, 2)] }], stew.Ready u)
    ∧ stew.wave.flagsPending = false ∧ stew.core.arrayQ = [] ∧ stew.wave.steward = true
    ∧ (stew.die (dieOf stew.core.num)).posts = [] ∧ stew.wave.sysOlds .sctx 0 = []
    ∧ (∀ v ∈ [0, 65536], let s := stand [[(2, BitVec.ofNat 32 v)]]
      readyB s { rv := [(2, 2)] } = true
      ∧ ∀ l ∈ s.wave.activeLanes, (s.met.readV64 l 2).toNat % 16 = 0 ∧ (s.met.readV64 l 2).toNat ≤ 65536)
    ∧ (∀ v ∈ [8, 65552], let s := stand [[(2, BitVec.ofNat 32 v)]]
      readyB s { rv := [(2, 2)] } = true
      ∧ s.wave.activeLanes.find? (fun l =>
          (s.met.readV64 l 2).toNat % 16 != 0 || decide (65536 < (s.met.readV64 l 2).toNat)) = some 0) := by
  refine ⟨all_ready (by decide), by decide⟩

/-- A fibre whose V4:V5 and return stack name the placed header; C1 covers a jump table whose entry 1 holds it too. -/
def jumper : State :=
  ((stand [[(4, 0x30000), (9, 1)]] [(4, 0x50000), (6, 16), (7, 0x8400)]).onWave (fun w =>
    { w with stags := [(1, true)], lanes := w.lanes.map (fun f => { f with frames := [(0x30000, 8)] }) })).wrN
      0x50008 0x30000 8

theorem witness_TransferResult :
    (∀ u ∈ [{ rp := [3] }, {}, { rv := [(4, 2)] }, Uses.plus { rv := [(9, 1)] } (quadReads 1)], jumper.Ready u)
    ∧ ((((jumper.wave.pc : Int) + 4 * (0x7FFFF : BitVec 19).toInt) % 2 ^ 64).toNat = 0x30000)
    ∧ (∀ l ∈ jumper.wave.activeLanes,
        (((jumper.met.roomBelow (fun _ => [0x30000]) l).reserveAll jumper.wave.ctx []).targetCheck l 0x30000).isNone = true)
    ∧ (∀ l ∈ jumper.wave.activeLanes, (jumper.met.readV64 l 4).toNat = 0x30000 ∧ jumper.wave.sysOlds .slim l = []
        ∧ 16 * (jumper.wave.fib l).frames.length + 16 ≤ (jumper.wave.fib l).slim ∧ (jumper.wave.fib l).frames ≠ []
        ∧ (((jumper.wave.fib l).frames.headD (0, 0)).1.toNat = 0x30000))
    ∧ (∀ l ∈ jumper.wave.activeLanes,
        ((jumper.met.capSFor l 1).check (pTable + pGlobal) l (8 * (jumper.met.readV l 9).toNat) 8).isNone = true
        ∧ capBase (jumper.met.readSQuadFor l 1) + 8 * (jumper.met.readV l 9).toNat = 0x50008
        ∧ jumper.met.virtRd 0x50008 8 = 0x30000)
    ∧ (∀ l ∈ jumper.wave.activeLanes,
        ((jumper.met.roomBelow (fun _ => entryPages 0x50008 ++ [0x30000]) l).entryCheck l 0x50008).isNone = true)
    ∧ (∀ l ∈ jumper.wave.activeLanes,
        (((jumper.met.roomBelow (fun _ => entryPages 0x50008 ++ [0x30000]) l).reserveAll jumper.wave.ctx
            (entryPages 0x50008)).targetCheck l 0x30000).isNone = true)
    ∧ jumper.accessBusy = false := by
  refine ⟨all_ready (by decide), ?_, ?_, ?_, ?_, ?_, ?_, ?_⟩ <;> decide

/-- Targets at 2^48, at an odd half and at a word that is no header; above 2^44 in a table, absent, failed, moving and
without execute permission; of two fibres the second fails; a stack at its limit and an empty one. -/
theorem witness_TransferTraps :
    (let s := stand [[(4, 0x30000)], [(4, 0x30004)]]
      let fails (l : Nat) : Option Fail := (s.met.roomBelow (fun i => [(s.met.readV64 i 4).toNat]) l).targetCheck l
        (s.met.readV64 l 4).toNat
      readyB s { rv := [(4, 2)] } = true ∧ s.wave.activeLanes.find? (fun l => (fails l).isSome) = some 1
      ∧ answer (s.translate s.wave.ctx 0x30004 .fetch) = (true, 0x30004) ∧ isHeader (s.codeWord 0x30004) = false
      ∧ isHeader (s.codeWord 0x30000) = true ∧ s.unitFails 0x30004 = false)
    ∧ (let at' (leaf : Nat) (m : List (Nat × PageState)) : State := (paged leaf).onContext 1 (fun c => { c with tiers := m })
      let go (s : State) : Bool × Nat := answer (s.translate s.wave.ctx 0x40000000 .fetch)
      let of (s : State) : PageState := s.pageState s.wave.ctx 0x4000
      go (at' 6 []) = (false, 2) ∧ of (at' 6 []) = .absent
      ∧ go (at' 6 [(0x4000, .failed)]) = (false, 2) ∧ of (at' 6 [(0x4000, .failed)]) = .failed
      ∧ go (at' 6 [(0x4000, .moving)]) = (false, 2) ∧ of (at' 6 [(0x4000, .moving)]) = .moving
      ∧ go (at' 3 []) = (false, 4)
      ∧ go { at' (0x10000000000 + 32 + 9) [] with badUnits := [0x10000000] } = (true, 0x10000000000)
      ∧ State.unitFails { at' (0x10000000000 + 32 + 9) [] with badUnits := [0x10000000] } 0x10000000000 = true)
    ∧ (let s := (stand [[]]).onWave (fun w =>
        { w with lanes := w.lanes.map (fun f => { f with slim := 16, frames := [(0x30000, 8)] }) })
      readyB s {} = true ∧ s.wave.sysOlds .slim 0 = []
      ∧ s.wave.activeLanes.find? (fun l => decide ((s.wave.fib l).slim < 16 * (s.wave.fib l).frames.length + 16)) = some 0)
    ∧ readyB (stand [[]]) {} = true ∧ ((stand [[]]).wave.fib 0).frames = [] := by
  decide

/-- No record, seven others, and eight others; an open record at which the last expected lane arrives, one that expects
a third lane, and one that does not expect lane 1. -/
theorem witness_JoinResult :
    let s (n : Nat) := (stand [[], []]).onWave (fun w =>
      { w with joins := (List.range n).map (fun i => { id := BitVec.ofNat 8 i, expected := [0], arrived := [] }) })
    let u (es xs : List Nat) := (stand [[], [], []]).onWave (fun w => { w with
      lanes := updateAt (fun f => { f with run := .joining, jid := 7, inSet := false }) 2 w.lanes
      joins := [{ id := 7, expected := es, arrived := xs }] })
    (∀ n ∈ [0, 7, 8], readyB (s n) {} = true ∧ (s n).met.wave.predPending = false ∧ (s n).wave.joinRec 100 = none)
    ∧ (s 7).wave.joins.length < 8 ∧ (∀ r ∈ (s 7).wave.joins, (s 7).wave.joinFull r = false)
    ∧ 8 ≤ (s 8).wave.joins.length
    ∧ (∀ es ∈ [[0, 1, 2], [0, 1, 2, 9], [0, 2]], readyB (u es [2]) {} = true ∧ (u es [2]).met.wave.predPending = false
      ∧ (u es [2]).wave.joinRec 7 = some { id := 7, expected := es, arrived := [2] }
      ∧ (u es [2]).wave.activeLanes = [0, 1] ∧ ((u es [2]).wave.fib 1).pred 0 = true
      ∧ (u es [2]).wave.joins.filter (fun q => q.id != 7) = []) := by
  decide

/-- The greatest group and code that the cause word holds; a wave without a handler, and one that is in it. -/
theorem witness_TrapEntry :
    duo.wave.tvec ≠ 0 ∧ duo.wave.handler = false ∧ (31 : Nat) < 32 ∧ (2047 : Nat) < 2048
    ∧ (duo.onWave (fun w => { w with tvec := 0 })).wave.tvec = 0
    ∧ (duo.onWave (fun w => { w with handler := true })).wave.handler = true := by decide

/-- A wave in its handler whose TPC is the recorded point inside the placed clause, and one whose TPC is a header. -/
theorem witness_SoftwareTrapAndReturn :
    duo.wave.tvec ≠ 0 ∧ duo.wave.handler = false ∧ duo.Ready { rv := [(5, 1)] } ∧ duo.Ready {}
    ∧ (let s (a : DWord) := duo.onWave (fun w =>
        { w with handler := true, tpc := a, resume := { addr := 0x30008, clause := w.cur } })
      (s 0x30008).Ready {} ∧ (s 0x30008).wave.sysOlds .tpc 0 = [] ∧ (s 0x30008).wave.handler = true
      ∧ (s 0x30008).wave.tpc.toNat = (s 0x30008).wave.resume.addr
      ∧ ((s 0x30008).met.targetCheck (s 0x30008).wave.lowest 0x30000).isNone = true
      ∧ (s 0x30000).Ready {} ∧ (s 0x30000).wave.tpc.toNat ≠ (s 0x30000).wave.resume.addr
      ∧ ((s 0x30000).met.targetCheck (s 0x30000).wave.lowest (s 0x30000).wave.tpc.toNat).isNone = true) :=
  ⟨by decide, rfl, ready_of (by decide), ready_of (by decide), ready_of (by decide), rfl, rfl, by decide, by decide,
   ready_of (by decide), by decide, by decide⟩

/-- User mode inside a clause; the steward with a token of a pending entry, and with one that nothing holds. -/
theorem witness_StewardWords :
    duo.wave.steward = false ∧ duo.wave.cur.isSome = true ∧ SysReg.isSteward .sfqbase = true
    ∧ (let e : WtEntry := { idx := 3, gen := 5, ctx := 1, page := 0x100, interest := 1 }
      let s := { stew with dies := [(0, { waits := [e] })] }
      let tok := tokenOf 0 e
      let u := s.onWave (fun w => { w with s := [(4, tok)] })
      stew.Ready { rs := [4, 5] } ∧ stew.anyToken (stew.met.readS 4) = none
      ∧ u.Ready { rs := [4, 5] } ∧ u.anyToken (u.met.readS 4) = some (0, e) ∧ u.met.readS 4 = tok) :=
  ⟨rfl, rfl, rfl, ready_of (by decide), by decide, ready_of (by decide), by decide, by decide⟩

theorem witness_TlbiReaches :
    (∀ u ∈ [{ rs := [4, 5, 6] }, { rs := [6] }, {}], stew.Ready u) ∧ stew.wave.steward = true
    ∧ (let t : Tlbi := { wid := 9, kind := .ctx, ctx := 1 }
      let s := duo.onCore (fun c => { c with tlbiPend := [t] })
      s.core.tlbiPend.find? (fun t =>
        !t.blockedBy s.core (s.wave :: s.core.waves ++ s.savedFrom s.core.num)) = some t
      ∧ (s.context 1).isSome = true) := by
  refine ⟨all_ready (by decide), by decide⟩

/-- The wave stands at the placed header. -/
def atHeader : State :=
  duo.onWave (fun w => { w with cur := none, lanes := w.lanes.map (fun f =>
    { f with pc := placeAt, clause := none, inSet := false }) })

/-- A clause stands there and nothing is due; and with a pending trap of group 17 or of group 19. -/
theorem witness_ClauseAndBoundary :
    (atHeader.wave.cur = none ∧ atHeader.wave.choosePc = some placeAt
      ∧ ((atHeader.wave.select placeAt).wokenTrap = none) ∧ ((atHeader.wave.select placeAt).standing = none)
      ∧ (atHeader.wave.select placeAt).boundaryDue = false
      ∧ ∃ c hd, (atHeader.onWave (fun w => w.select placeAt)).findClause 0 placeAt = .clause c hd)
    ∧ (let s := duo.onWave (fun w => { w with timer := 1, tctl := 1 })
      s.wave.det = false ∧ bit s.wave.tctl.toNat 0 = true ∧ s.wave.timer ≠ 0)
    ∧ (let s := atHeader.onWave (fun w => { w with pend17 := true })
      s.wave.choosePc = some placeAt ∧ (s.wave.select placeAt).wokenTrap = none
      ∧ (s.wave.select placeAt).standing = none ∧ (s.wave.select placeAt).pc = placeAt
      ∧ (s.onWave (fun w => w.select placeAt)).fallsWrong 0 placeAt = false
      ∧ s.wave.pend19 = [] ∧ s.wave.pend17 = true ∧ s.wave.handler = false ∧ s.wave.tvec ≠ 0)
    ∧ (let p : Pend19 := { info := { group := 19, code := 1 }, fibid := 0 }
      let s := atHeader.onWave (fun w => { w with pend17 := true, pend19 := [p] })
      s.wave.choosePc = some placeAt ∧ (s.wave.select placeAt).standing = none
      ∧ (s.onWave (fun w => w.select placeAt)).fallsWrong 0 placeAt = false
      ∧ s.wave.pend19 = p :: [] ∧ p.info.group < 32 ∧ p.info.code < 2048) := by
  refine ⟨⟨rfl, by decide, by decide, by decide, by decide, _, _, rfl⟩, by decide, by decide, by decide⟩
/-- A load of the last word of C1, a store of its first byte, and LDNR of a page that is not resident. -/
theorem witness_GlobalAccessIssued :
    let s (o : Word) := mapped [[(2, o), (4, 7)]]
    let ix : Index := ⟨false, 1⟩
    let ld : GlobalUse := { kind := .load .n32, w := 4, sc := .device, ctr := 0, need := pLoad, acc := .read }
    let st : GlobalUse := { kind := .store, w := 1, sc := .device, ctr := 0, need := pStore, acc := .write, write := true }
    let nr : GlobalUse := { ld with kind := .loadNr 4, nonres := true }
    let x (o : Word) : LaneUse := { cap := (s o).met.capS 1, off := ix.val (s o).met 0, dst := 4 }
    let away := (s 0).onWave (fun w => { w with s := [(4, 0x40000000), (6, 0x1000), (7, 0x8300)] });
    (∀ u ∈ [Uses.plus { wv := [(4, 1)] } (ix.reads.plus (quadReads 1)),
        Uses.plus { rv := [(4, 1)] } (ix.reads.plus (quadReads 1)),
        Uses.plus { wv := [(4, 1)], wp := [15] } (ix.reads.plus (quadReads 1))], (s 0xFFC).Open u)
      ∧ (s 0xFFC).wave.ctr 0 < 63 ∧ (s 0xFFC).wave.activeLanes = [0]
      ∧ ((s 0xFFC).wave.fib 0).beyond ([(4, 1)] ++ [(2, 2)]) = none
      ∧ (s 0xFFC).met.Admits ld (x 0xFFC) 0x100FFC ∧ (s 0).met.Admits st (x 0) 0x100000
      ∧ away.met.Admits nr { cap := away.met.capS 1, off := 0 } 0
      ∧ ((s 0xFFC).met.stampCheck [(x 0xFFC).touch ld 0] ((x 0xFFC).touch ld 0)).isNone = true
      ∧ (s 0xFFC).met.RoomFor ld (fun _ => x 0xFFC) 0 :=
  ⟨all_open (by decide), by decide, by decide, by decide,
   ⟨by decide, by decide, by decide, by decide, by decide, .inl ⟨rfl, fun _ => by decide⟩⟩,
   ⟨by decide, by decide, by decide, by decide, by decide, .inl ⟨rfl, fun h => h.elim nofun nofun⟩⟩,
   ⟨by decide, by decide, by decide, by decide, by decide, .inr ⟨rfl, rfl, rfl⟩⟩, by decide, rfl⟩

/-- Two fibres that share Q3; an atomic through C1 in global memory, and one through C2 in the own Vat. -/
theorem witness_GatherAndAtomicIssued :
    let s := (mapped [[(2, 2), (12, 0x100000), (14, 0x1000), (15, 0x8300)], [(2, 3), (12, 0x100000), (14, 0x1000), (15, 0x8300)]]).onWave
      (fun w => { w with lanes := w.lanes.map (fun f => { f with vtags := [(3, true)] }) })
    let t := mapped [[(2, 8), (8, 1)], [(2, 8), (8, 2)]]
    let g : GlobalUse := { kind := .load .n32, w := 4, sc := .device, ctr := 0, need := pLoad, acc := .read, gather := true }
    let a : GlobalUse := { kind := .atom .n32 .add true, w := 4, sc := .device, ctr := 0, need := pLoadStore, acc := .rmw,
                           write := true, atomic := true, acquire := true, release := true };
    (∀ l ∈ s.wave.activeLanes, s.met.readVQuad l 3 = s.met.readVQuad s.wave.lowest 3
        ∧ s.met.vtag l 3 = s.met.vtag s.wave.lowest 3)
      ∧ s.Open (Uses.plus { wv := [(4, 1)] } ((⟨false, 1⟩ : Index).reads.plus (vquadReads 3))) ∧ s.wave.ctr 0 < 63
      ∧ s.met.Admits g { cap := { cap := s.met.readVQuad 1 3, tag := s.met.vtag 1 3, num := 3, isQ := true }, off := 12 } 0x10000C
      ∧ (∀ u ∈ [atomUses .n32 .add true 8 1 1, atomUses .n32 .cas true 8 2 1], t.Open u)
      ∧ t.met.Admits a { cap := t.met.capS 1, off := 8, dst := 8, data := 1 } 0x100008
      ∧ capGlobal (t.met.capS 2).cap = false ∧ t.wave.group = some 1
      ∧ (∀ l ∈ t.wave.activeLanes, (t.wave.fib l).beyond ((atomUses .n32 .add true 8 2 1).wv ++ (atomUses .n32 .add true 8 2 1).rv) = none
          ∧ ((t.met.capS 2).check pLoadStore l 8 4).isNone = true ∧ (t.met.fillCheck 1 l []).isNone = true)
      ∧ t.met.fillAddrs 1 8 4 = []
      ∧ t.met.target .own = some 1 ∧ 8 + 4 ≤ (t.met.groupD 1).size
      ∧ t.met.RoomFor a (fun _ => { cap := t.met.capS 1, off := 8 }) 1 :=
  ⟨by decide, open_of (by decide), by decide,
   ⟨by decide, by decide, by decide, by decide, by decide, .inl ⟨rfl, fun _ => by decide⟩⟩, all_open (by decide),
   ⟨by decide, by decide, by decide, by decide, by decide, .inl ⟨rfl, fun _ => by decide⟩⟩, by decide, by decide,
   by decide, by decide, by decide, by decide, rfl⟩

/-- The last word of a Vat of 65,536 bytes. -/
theorem witness_VatAccessIssued :
    let s := mapped [[(2, 65532), (4, 1)]]
    (∀ u ∈ [Uses.plus { wv := [(4, 1)] } (⟨false, 1⟩ : Index).reads, Uses.plus { rv := [(4, 1)] } (⟨false, 1⟩ : Index).reads,
        Uses.plus { ws := [20] } (⟨true, 4⟩ : Index).reads], s.Open u)
      ∧ s.wave.ctr 0 < 63 ∧ s.wave.activeLanes = [0] ∧ (s.wave.fib 0).beyond ([(4, 1)] ++ [(2, 2)]) = none
      ∧ s.met.AdmitsVat .own 1 0 65532 4 4 [vatTouch 1 { kind := .load .n32, w := 4, ctr := 0 } 65532 0]
      ∧ (s.met.stampCheck [vatTouch 1 { kind := .load .n32, w := 4, ctr := 0 } 65532 0]
          (vatTouch 1 { kind := .load .n32, w := 4, ctr := 0 } 65532 0)).isNone = true :=
  ⟨all_open (by decide), by decide, by decide, by decide, ⟨by decide, by decide, by decide, by decide, rfl, .inl rfl⟩, by decide⟩

/-- The first fibre passes and the second fails: past the length, off its alignment, on a page that is absent, failed,
moving, not to be written, or on a unit that fails; an untagged quad, one without the permission, and an address past
2^56; stores of two fibres to one word of a checked page. -/
theorem witness_AccessTraps :
    let touch (s : State) (w : Bool) (i : Nat) : Touch :=
      { lane := i, space := .global, lo := (s.met.readSQuadFor i 1).toNat % 2 ^ 64 + (s.met.readV64 i 2).toNat, n := 4,
        write := w, atomic := false }
    let room (s : State) (i : Nat) : State := s.met.reserveAll s.wave.ctx
      (((s.wave.activeLanes.map (touch s false)).filter (fun y => decide (y.lane < i))).map (fun y => y.lo))
    let go (s : State) (i : Nat) (acc : Access) : Bool × Nat :=
      answer ((room s i).translate s.wave.ctx (touch s false i).lo acc)
    let marked (m : PageState) : State := (twin 0x10000 6).onContext 1 (fun c => { c with tiers := [(0x4000, m)] })
    let unit : State := { twin 0x10000 (0x10000000000 + 32 + 3) with badUnits := [0x10000000] };
    (∀ o ∈ [0xFFFE, 0x1FFFD, 0x10000], let s := twin o 6
      openB s (Uses.plus { wv := [(4, regsOf 4)] } ((⟨false, 1⟩ : Index).reads.plus (quadReads 1))) = true
      ∧ openB s (Uses.plus { rv := [(4, regsOf 4)] } ((⟨false, 1⟩ : Index).reads.plus (quadReads 1))) = true
      ∧ s.wave.ctr 0 < 63 ∧ s.wave.activeLanes = [0, 1]
      ∧ (∀ i ∈ s.wave.activeLanes, (s.wave.fib i).beyond ((4, regsOf 4) :: (⟨false, 1⟩ : Index).reads.rv) = none))
    ∧ (let s := twin 0x10000 6
      s.met.stagFor 0 1 = true ∧ Nat.land (capPerm (s.met.readSQuadFor 0 1)) 130 = 130
      ∧ 8 + 4 ≤ capLen (s.met.readSQuadFor 0 1) ∧ (touch s false 0).lo % 4 = 0 ∧ (touch s false 0).lo < 2 ^ 56
      ∧ (s.met.stampCheck (s.wave.activeLanes.map (touch s true)) (touch s true 0)).isNone = true
      ∧ go s 0 .read = (true, 0x3FFF0008) ∧ (room s 0).unitFails 0x3FFF0008 = false
      ∧ s.met.stagFor 1 3 = false ∧ Nat.land (capPerm (s.met.readSQuadFor 1 3)) 129 ≠ 129 ∧ s.met.stagFor 1 2 = true
      ∧ 2 ^ 56 ≤ (s.met.readSQuadFor 1 2).toNat % 2 ^ 64 + 0x10000)
    ∧ capLen ((twin 0x1FFFD 6).met.readSQuadFor 1 1) < 0x1FFFD + 4 ∧ (touch (twin 0xFFFE 6) false 1).lo % 4 ≠ 0
    ∧ (∀ x ∈ [(twin 0x10000 6, PageState.absent), (marked .failed, .failed), (marked .moving, .moving)],
      go x.1 1 .read = (false, 2) ∧ (room x.1 1).pageState x.1.wave.ctx 0x4000 = x.2
      ∧ (x.1.met.interest 0 x.1.wave.ctx 0x4000).2.isSome = true ∧ (x.1.die 0).posts = [])
    ∧ go (twin 0x10000 3) 1 .write = (false, 4) ∧ go unit 1 .read = (true, 0x10000000000)
    ∧ (room unit 1).unitFails 0x10000000000 = true
    ∧ (let s := twinChecked 8
      (s.met.stampCheck (s.wave.activeLanes.map (touch s true)) (touch s true 0)).isSome = true) := by
  decide

/-- A load and a store of two lanes, LDNR of a page that is resident and of one that is not, VLDS, a capability load and
store, and the write-back of a binding with bytes of it dirty, one request of it left out. -/
theorem witness_AccessPerformed :
    let rq : List LaneReq := [{ lane := 0, virt := 0x100008, phys := 0x100008, dst := 4 },
                              { lane := 1, virt := 0x100008, phys := 0x100008, dst := 4, data := 9 }]
    let v (k : MemKind) (n : Nat) : MemOp :=
      { kind := k, w := n, space := .vat 1, reqs := [{ virt := 16, phys := 16, dst := 8, tag := true }] }
    let nr (a : Nat) : MemOp := { kind := .loadNr 4, w := 4, reqs := [{ virt := a, phys := a, dst := 4 }] }
    let b : Binding := { off := 0, len := 512, gaddr := 0x100000, dirty := [0, 511] }
    let wb : MemOp := { kind := .vsync 0 true, space := .vat 1, w := 256, reqs :=
      [{ virt := 0x100000, phys := 0x100000, dst := 256 }, { virt := 0x100100, phys := 0x100100, dst := 256 }] }
    let s := (mapped [[], []]).onGroup 1 (fun g => { g with binds := [b] });
    (∀ o ∈ [{ kind := .load .n64, w := 8, reqs := rq },
        { kind := .store, w := 4, space := .vat 1, reqs := rq.map (fun q => { q with phys := 1024 }) },
        nr 0x100008, nr 0x40000000, v .loadS 4, v .loadCap 16, v .storeCap 16, wb], (waiting o s).Performs 0 o)
      ∧ s.hasSpace (.vat 1) ∧ s.hasSpace .global
      ∧ (waiting (nr 0x100008) s).pageState s.wave.ctx (0x100008 / 65536) = .resident
      ∧ (s.groupD 1).binds.find? (fun x => x.off == 0) = some b ∧ (∀ i ∈ b.dirty, 0 ≤ i ∧ i < 0 + b.len)
      ∧ wb.reqs.Pairwise (fun x y => (x.virt + x.dst ≤ y.virt ∨ y.virt + y.dst ≤ x.virt)
          ∧ (x.phys + x.dst ≤ y.phys ∨ y.phys + y.dst ≤ x.phys)) := by
  refine ⟨fun o ho => performs_of ?_, ⟨_, .head _, rfl⟩, trivial, by decide, by decide,
    by decide, by decide⟩
  revert o
  decide

/-- Two lanes on one word; KVALLOC from a pool with a block and from one without, with a free count below the mark and
not below it; KVSET of a value that is logged. -/
theorem witness_AtomicPerformed :
    let rq (a : Nat) : List LaneReq := [{ lane := 0, virt := a, phys := a, dst := 8, data := 1 },
                                        { lane := 1, virt := a, phys := a, dst := 8, data := 2 }]
    let o : MemOp := { kind := .atom .n32 .add true, w := 4, reqs := rq 0x100008 }
    let s := pooled (mapped [[], []])
    (∀ x ∈ [o, { kind := .kvalloc, w := 128, reqs := rq 0x102000 }, { kind := .kvset, w := 8, reqs := rq 0x102300 }],
        (waiting x s).Performs 0 x)
      ∧ (waiting o s).hasSpace o.space ∧ o.w = AtomType.n32.bytes ∧ (∀ q ∈ o.reqs, q.phys % AtomType.n32.bytes = 0)
      ∧ (o.reqs.map (fun q => q.lane)).Nodup
      ∧ s.rd 0x102000 8 ≠ 0 ∧ s.rd 0x102030 8 ≠ 2 ^ 40 - 1 ∧ s.rd 0x102030 8 < s.rd 0x102020 8
      ∧ s.ctxPhys 1 (0x102100 + 16 * 0) .read = some 0x102100 ∧ 0x102000 + 128 ≤ 0x102100 ∧ s.rd 0x102008 8 = 0
      ∧ s.poolNum 1 2 = some { num := 2, desc := 0x102000 } ∧ ¬ (s.rd 0x102040 8 < s.rd 0x102058 4)
      ∧ (s.wrN 0x102058 1 4).rd 0x102040 8 < (s.wrN 0x102058 1 4).rd 0x102058 4
      ∧ bits (1 + 2 * 16) 9 4 = 2 ∧ s.ctxPhys 1 0x102000 .read = some 0x102000
      ∧ s.rd 0x102054 4 - 0 < s.rd 0x102050 4 ∧ s.ctxPhys 1 0x102200 .write = some 0x102200
      ∧ s.rd 0x102018 8 + 8 * (s.rd 0x102054 4 % s.rd 0x102050 4) = 0x102200 := by
  refine ⟨fun x hx => performs_of ?_, trivial, by decide⟩
  revert x
  decide

theorem witness_AccessRefused :
    let o : MemOp := { kind := .load .n32, reqs := [{ lane := 0, virt := 0x100008, phys := 0x100008, dst := 4 }] }
    let s := waiting o (mapped [[]])
    s.wave.outst[0]? = some o ∧ s.mayPerform 0 = true ∧ o.reqs ≠ []
      ∧ (∀ q ∈ o.reqs, q.phys / 65536 = (o.reqs.headD {}).phys / 65536 ∧ (s.wave.fib q.lane).alive = true)
      ∧ (∀ c ∈ s.launches, c.id = s.wave.launch → c.errq = 0) := by
  refine ⟨rfl, by decide, by decide, by decide, by decide⟩

/-- No access outstanding, and one of an active fibre; seven bindings and room for the eighth, which ends where the
allocation does; a binding with a dirty granule and one with none. -/
theorem witness_FencesAndMappedRegions :
    let s := mapped [[]] [(16, 65280), (17, 256)]
    let busy := s.onWave (fun w => { w with outst := [{ kind := .store, reqs := [{ lane := 0 }] }] })
    let b : Binding := { off := 0, len := 512, gaddr := 0x100000, dirty := [0, 511] }
    let b' : Binding := { off := 0, len := 512, gaddr := 0x10FF80, dirty := [5, 130] }
    let g := s.onGroup 1 (fun g => { g with binds := [b] ++ (List.range 6).map (fun i => { off := 512 + 256 * i, len := 256 }) });
    s.Ready {} ∧ ¬ (∃ o ∈ s.wave.outst, ∃ q ∈ o.reqs, (s.wave.fib q.lane).active = true)
      ∧ busy.Ready {} ∧ (∃ o ∈ busy.wave.outst, ∃ q ∈ o.reqs, (busy.wave.fib q.lane).active = true)
      ∧ s.core.engBefore s.wave.wid s.fresh (fun l => (s.wave.fib l).active) = false
      ∧ g.wave.group = some 1 ∧ g.wave.ctr 0 < 63 ∧ g.accessBusy = false
      ∧ g.Open (Uses.plus { rs := [16, 17] } ((({ isS := true, pair := 11 } : Index).reads).plus (quadReads 1)))
      ∧ (((g.met.capS 1).check (pLoadStore ||| pGlobal) g.wave.lowest (g.met.readS64 22).toNat 256).isNone = true
      ∧ (g.met.readS 16).toNat = 65280 ∧ (g.met.readS 17).toNat = 256 ∧ 65280 + 256 ≤ (g.groupD 1).size
      ∧ capBase (g.met.readSQuad 1) % 256 = 0
      ∧ (g.groupD 1).binds.length = 7 ∧ (∀ x ∈ (g.groupD 1).binds, 65280 + 256 ≤ x.off ∨ x.off + x.len ≤ 65280))
      ∧ g.Open { rs := [18] } ∧ (g.groupD 1).binds.find? (fun x => x.off == (g.met.readS 18).toNat) = some b
      ∧ b.backParts = [(0x100000, 256), (0x100100, 256)]
      ∧ (g.met.backGo (b.backTouches g.wave.lowest) g.wave.lowest b.backParts).isNone = true
      ∧ g.met.translate g.wave.ctx 0x100000 .write = .ok 0x100000
      ∧ g.met.translate g.wave.ctx 0x100100 .write = .ok 0x100100
      ∧ ({ off := 0, len := 512 } : Binding).backParts = []
      ∧ b'.backParts = [(0x10FF80, 128), (0x110000, 128)] :=
  ⟨ready_of (by decide), by decide, ready_of (by decide), by decide, by decide, rfl, by decide, by decide,
   open_of (by decide), by decide, open_of (by decide), by decide, by decide, by decide, rfl, rfl, by decide, by decide⟩

/-- The zero token, a stale one, and entries that have succeeded, failed or pend, with one fibre and two interests or
one; requests to be performed; pages of every state, with a live entry, and of a tier that can be promoted. -/
theorem witness_TokenWords :
    let e (x : WtState) : WtEntry := { idx := 3, gen := 5, ctx := 1, page := 0x100, interest := 2, state := x }
    let tok := tokenOf 0 (e .pending)
    let s (x : WtState) (t : Word) : State := { mapped [[(6, t)]] with dies := [(0, { waits := [e x] })] }
    let op (k : MemKind) : MemOp := { kind := k, reqs := [{ virt := 0x40000000, dst := 4, data := tok.setWidth 64 }] }
    let at' (leaf : Nat) (m : List (Nat × PageState)) : State := (paged leaf).onContext 1 (fun c => { c with tiers := m })
    let tier (s : State) : Nat := match s.leafOf 1 0x40000000 with
      | .ok x => entTier x.ent
      | .error _ => 9;
    (∀ t ∈ [0, tok, 0x12345678], readyB (s .pending t) { rv := [(6, 1)], wp := [15] } = true
        ∧ ∀ l ∈ (s .pending t).wave.activeLanes, (s .pending t).met.readV l 6 = t)
      ∧ tok ≠ 0 ∧ (s .pending 0x12345678).met.tokenEntry 1 0x12345678 = none
      ∧ (∀ x ∈ [WtState.succeeded, .failed, .pending], (s x tok).met.tokenEntry 1 tok = some (0, e x))
      ∧ (s .failed tok).wave.activeLanes.length < (e .failed).interest
      ∧ (∀ x ∈ ((s .failed tok).die 0).waits, x.idx = 3 → x = e .failed)
      ∧ openB (s .pending tok) { rv := [(6, 1)] } = true ∧ (s .pending tok).wave.ctr 0 < 63
      ∧ (∀ k ∈ [MemKind.preq, .promo, .pcancel], performsB (waiting (op k) (at' 6 [])) (op k) = true)
      ∧ (∀ x ∈ [PageState.failed, .moving], (at' 6 [(0x4000, x)]).pageState 1 0x4000 = x)
      ∧ (at' 6 []).pageState 1 0x4000 = .absent ∧ (at' 7 []).pageState 1 0x4000 = .resident ∧ tier (at' 7 []) = 0
      ∧ tier (at' (0x10000000000 + 32 + 7) []) = 1 ∧ (asked (at' 6 [])).findWait 1 0x4000 ≠ none
      ∧ (at' 6 []).findWait 1 0x4000 = none ∧ ((at' 6 []).die 0).waits = []
      ∧ (let one : State := { asked (at' 6 []) with moves := [{ ctx := 1, page := 0x4000, promotion := true }] }
        (one.tokenEntry 1 (tokenOf 0 { ctx := 1, page := 0x4000 })).map (fun x => (x.1, x.2.interest, x.2.state))
          = some (0, 0, .pending)
        ∧ (one.moves.find? (fun m => m.ctx == 1 && m.page == 0x4000)).map (fun m => m.promotion) = some true) := by
  refine ⟨fun t ht => ?_, by decide⟩
  rcases (by simpa using ht : t = 0 ∨ t = _ ∨ t = 0x12345678) with h | h | h <;> subst h <;> decide

/-- The last object of the Vat; a word with expected 2; 63 other objects, and 64 with this one among them. -/
theorem witness_BarrierWordIssued :
    let s := (mapped [[(2, 65520), (6, 2)], [(2, 65520), (6, 9)]]).onGroup 1 (fun g =>
      { g with bars := (List.range 63).map (fun i => 16 * i) })
    let t := s.onGroup 1 (fun g => { g with bars := 65520 :: g.bars })
    let ix : Index := ⟨false, 1⟩;
    (∀ u ∈ [Uses.plus { wv := [], rv := [(6, 1)] } ix.reads, Uses.plus { wv := [(6, 1)], rv := [] } ix.reads], s.Open u)
      ∧ s.wave.ctr 0 < 63 ∧ s.wave.group.isSome = true ∧ s.met.target .own = some 1
      ∧ (65520 : Nat) % 16 = 0 ∧ 65520 + 16 ≤ (s.groupD 1).size
      ∧ (∀ l ∈ s.wave.activeLanes, (s.wave.fib l).beyond ([] ++ [(6, 1)] ++ ix.reads.rv) = none ∧ ix.val s.met l = 65520
          ∧ (s.met.fillCheck 1 l (s.met.objTouches 1 65520)).isNone = true ∧ s.met.fillAddrs 1 65520 16 = [])
      ∧ (s.met.readV s.wave.lowest 6).toNat = 2 ∧ bit 2 16 = false ∧ bit (2 ^ 16 + 2) 16 = true ∧ 2 ^ 16 + 2 < 2 ^ 18
      ∧ s.met.guardElse (1, 65520) = false ∧ s.wave.group = some 1 ∧ (∃ y ∈ s.groups, y.id = 1)
      ∧ (s.groupD 1).bars.length < 64 ∧ 65520 ∈ (t.groupD 1).bars ∧ (t.groupD 1).bars.length = 64 :=
  ⟨all_open (by decide), by decide⟩

/-- An event, BINIT and BTEST of an object, on which a fibre of another wave waits. -/
theorem witness_BarrierEvent :
    let o (k : MemKind) : MemOp := { kind := k, space := .vat 1, w := 16, reqs := [{ virt := 16, phys := 16, dst := 7, data := 3 }] }
    let f : Fibre := { lane [] with run := .parked, park := .barrier 8 16 0 .group true }
    let s := (mapped [[]]).onCore (fun c => { c with waves := [{ wid := 7, group := some 1, lanes := [f] }] });
    (∀ k ∈ [MemKind.barr, .bexp, .binit, .btest], (waiting (o k) s).Performs 0 (o k))
      ∧ s.hasSpace (o .barr).space ∧ (o .barr).reqs ≠ [] ∧ ((o .barr).reqs.headD {}).virt = 16
      ∧ s.wave.group = some 1 ∧ (∃ g ∈ s.groups, g.id = 1)
      ∧ (s.core.waves.getD 0 {}).fib 0 = f ∧ s.targetOf (s.core.waves.getD 0 {}) (fieldTarget 8) = some 1 := by
  refine ⟨fun k hk => performs_of ?_, ⟨_, .head _, rfl⟩, by decide, by decide, by decide,
    by decide, by decide⟩
  revert k
  decide

/-- Phases 0 and 1 apart (completed), equal, and 32,768 apart (not completed); an object that is broken. -/
theorem witness_BwaitResult :
    let s (ph : Word) (b : Nat) := (mapped [[(2, 16), (5, ph)]]).onGroup 1 (fun g =>
      { g with vat := putBytes g.vat 16 (bytesOf b 16) })
    let f (ph : Word) (b : Nat) : State := (s ph b).met.filled 1 ((s ph b).met.objTouches 1 16)
    let late := waiting { kind := .store, space := .vat 1, reqs := [{ virt := 16, phys := 16 }] } (s 0 1);
    (s 0 1).Open (Uses.plus { rv := [(5, 1)], wp := [14] } (⟨false, 1⟩ : Index).reads)
      ∧ (s 0 1).hasSpace (.vat 1)
      ∧ (s 0 1).wave.group.isSome = true ∧ (s 0 1).met.target .own = some 1 ∧ 16 + 16 ≤ ((s 0 1).groupD 1).size
      ∧ (∀ l ∈ (s 0 1).wave.activeLanes, ((s 0 1).wave.fib l).beyond ((5, 1) :: (⟨false, 1⟩ : Index).reads.rv) = none
          ∧ (⟨false, 1⟩ : Index).val (s 0 1).met l = 16 ∧ ((s 0 1).met.readV l 5).toNat = 0
          ∧ ((s 0 1).met.fillCheck 1 l ((s 0 1).met.objTouches 1 16)).isNone = true)
      ∧ (s 0 1).met.fillAddrs 1 16 16 = [] ∧ (s 0 1).met.mustFollow ((s 0 1).met.waitOp 1 16) = false
      ∧ late.met.mustFollow (late.met.waitOp 1 16) = true
      ∧ (((f 0 1).groupD 1).bar 16).phase = 1 ∧ (((f 0 0).groupD 1).bar 16).phase = 0
      ∧ (((f 0 32768).groupD 1).bar 16).phase = 32768 ∧ (((f 0 32767).groupD 1).bar 16).phase = 32767
      ∧ (((f 0 (2 ^ 48)).groupD 1).bar 16).broken = true ∧ (((f 0 (2 ^ 48)).groupD 1).bar 16).trapb = false
      ∧ (((f 0 (2 ^ 48 + 2 ^ 51)).groupD 1).bar 16).trapb = true ∧ (((f 0 0).groupD 1).bar 16).broken = false
      ∧ (s 0 0).wave.det = false :=
  ⟨open_of (by decide), ⟨_, .head _, rfl⟩, by decide⟩

/-- A check has passed. -/
def isOk {ε α : Type} (x : Except ε α) : Bool :=
  match x with
  | .ok _ => true
  | .error _ => false

theorem ok_of {ε α : Type} {x : Except ε α} (h : isOk x = true) : ∃ y, x = .ok y := by
  cases x with
  | ok y => exact ⟨y, rfl⟩
  | error e => cases h

/-- Eight fibres, C1 with the engine permission over a tensor of FP16, an active plane, and a packet header at Vat byte
0 with L = 1; quads and pairs for the matrix words from S8 up. -/
def engines : State :=
  let s := ((mapped (List.replicate 8 [(10, 64)])).onWave (fun w =>
      { w with s := [(4, 0x100000), (6, 0x1000), (7, 0x8900), (9, 0x01400001), (13, 0x010000FF), (15, 0x100), (25, 32),
                     (27, 8), (34, 2), (36, 1), (38, 64), (39, 128)], stags := [(1, true)] })).wr 0x180000
        [1, 0, 0, 0, 0, 0, 0, 0, 64]
  let c : Context := s.ctxD 1;
  { (s.onGroup 1 (fun g => { g with vat := [(0, 1)] })).onCore (fun k => { k with mat := { active := { empty := false, efmt := 1 } } }) with
    contexts := [{ c with tdtbase := 0x180000, tdtcnt := 16 }] }

/-- A KICK of one request and of 64; a queue with just that room, and with less; a merge of one participant. -/
theorem witness_EngineWordsIssued :
    let full (n : Nat) := engines.onCore (fun c => { c with reqQ := List.replicate n {} });
    engines.Open { rs := [34], rv := [(10, 1)] } ∧ (engines.wave.ctr 4 < 63 ∧ engines.wave.group = some 1
      ∧ (engines.met.readS 34).toNat = 2 ∧ (64 : Nat) % 64 = 0 ∧ 64 + 64 * 2 ≤ (engines.groupD 1).size
      ∧ (∀ l ∈ engines.wave.activeLanes, (engines.wave.fib l).beyond [(10, 1)] = none
      ∧ (engines.met.readV l 10).toNat = 64)
      ∧ engines.core.reqQ.length + 64 ≤ 64 ∧ (full 62).core.reqQ.length + 2 ≤ 64 ∧ 64 < (full 63).core.reqQ.length + 2)
      ∧ engines.Ready {} ∧ engines.met.fencedAll = true
      ∧ (engines.onWave (fun w => { w with outst := [{ kind := .store, space := .vat 1, reqs := [{}] }] })).met.fencedAll = false
      ∧ engines.Ready (quadReads 9) ∧ engines.met.blendCheck false (engines.met.readSQuad 9) = .ok ()
      ∧ engines.met.blendCheck true (engines.met.readSQuad 9) = .ok ()
      ∧ engines.met.fillsHeld (engines.met.blendRanges false (engines.met.readSQuad 9)) = false
      ∧ engines.met.fillsHeld (engines.met.blendRanges true (engines.met.readSQuad 9)) = false :=
  ⟨open_of (by decide), by decide,
   ready_of (by decide), by decide, by decide, ready_of (by decide), rfl, rfl, by decide, by decide⟩

/-- A plane of 64 columns, an MMA of 256 rows that ends with the Vat and tile 15, an MMAR of one packet; a full queue.
-/
theorem witness_MatrixWordsQueued :
    let full := engines.onCore (fun c => { c with arrayQ := List.replicate 8 { op := .swap } });
    engines.wave.ctr 4 < 63 ∧ engines.core.arrayQ.length < 8 ∧ 8 ≤ full.core.arrayQ.length
      ∧ engines.Ready (engines.quadUses 2) ∧ full.Ready (full.quadUses 2) ∧ engines.Ready {}
      ∧ engines.Ready { engines.pairUses 6 true with er := engines.met.mmaReads 6 20 }
      ∧ engines.Ready (engines.pairUses 7 false) ∧ engines.met.Ready (engines.met.quadUses 2)
      ∧ full.Ready { full.pairUses 6 true with er := full.met.mmaReads 6 20 }
      ∧ engines.met.fillsHeld ((headerRanges 0 0x100).map (fun x => (engines.wave.group.getD 0, x.1, x.2))) = false
      ∧ (∃ x, engines.met.ldstatUse 2 none 4 = .ok x)
      ∧ engines.core.mldPending 0 8 = false
      ∧ (∃ x, engines.met.mmaUse 6 12 20 4 = .ok x)
      ∧ (let f := engines.met.engFillAll ((headerRanges 0 0x100).map (fun x => (engines.wave.group.getD 0, x.1, x.2)));
        ∃ hs, f.mmarChecks f.core.arrayView f.probe 0 0x100 15 = .ok hs) :=
  ⟨by decide, by decide, by decide, ready_of (by decide), ready_of (by decide), ready_of (by decide), ready_of (by decide),
   ready_of (by decide), ready_of (by decide), ready_of (by decide), by decide, ok_of (by decide), by decide, ok_of (by decide), ok_of (by decide)⟩

/-- Quads of zeros, an LSUM whose result ends where its source begins, packets of L = 1 and lanes up to G. -/
theorem witness_LabelAndRankWordsQueued :
    let m := engines.met
    let x : Index := { isS := true, pair := 10 };
    engines.wave.ctr 4 < 63 ∧ engines.core.arrayQ.length < 8
      ∧ engines.Ready ((quadReads 4).plus (quadReads 5))
      ∧ relValid (BitVec.ofNat 256 ((m.readSQuad 4).toNat + (m.readSQuad 5).toNat * 2 ^ 128)) = true
      ∧ engines.Ready (quadReads 4) ∧ engines.Ready (quadReads 6)
      ∧ (let q := (m.readSQuad 6).toNat
        bits q 63 32 = 32 ∧ bits q 95 64 = 0 ∧ bits q 127 96 = 8 ∧ bits q 15 8 = 0 ∧ 32 + 4 * 8 ≤ m.vatSize)
      ∧ engines.Ready (Uses.plus { wp := [14, 15] } (engines.pairUses 10 false))
      ∧ (m.readS 20).toNat % 32 = 0 ∧ (m.readS 20).toNat + 32 ≤ m.vatSize
      ∧ engines.Ready (Uses.plus { xw := engines.wave.laneUses 8 1, er := engines.wave.laneUses 9 1 } (quadReads 4))
      ∧ (m.namedCheck [9, 8]).isNone = true ∧ 0 + 1 ≤ engines.wave.g
      ∧ engines.Ready { rs := [20], xw := engines.wave.laneUses 12 1 }
      ∧ (let u := m.engFillAll [(engines.wave.group.getD 0, (m.readS 20).toNat, 8)]
        let h : DWord := BitVec.ofNat 64 (u.engRd (engines.wave.group.getD 0) u.probe (m.readS 20).toNat 8)
        hdrOk h = true ∧ hdrL h ≤ engines.wave.g ∧ 0 + (8 + hdrT h) ≤ m.vatSize
        ∧ m.fillsHeld [(engines.wave.group.getD 0, (m.readS 20).toNat, 8)] = false
        ∧ (u.issueFill engines.wave.lowest (m.readS 20).toNat 8).isNone = true)
      ∧ (m.namedCheck [12]).isNone = true ∧ engines.Ready { rs := [20] } ∧ 512 ≤ m.vatSize
      ∧ engines.Open (Uses.plus { mw := [4] } (x.reads.plus (quadReads 1)))
      ∧ (∃ y, m.mldUse 4 1 10 = .ok y) :=
  ⟨by decide, by decide, ready_of (by decide), by decide, ready_of (by decide), ready_of (by decide), by decide,
   ready_of (by decide), by decide, by decide, ready_of (by decide), by decide, by decide, ready_of (by decide), by decide,
   by decide, ready_of (by decide), by decide, open_of (by decide), ok_of (by decide)⟩

/-- Eight fibres, so that 512 bytes take 16 registers, up to V63; an idle tile port. -/
theorem witness_TileWordsIssued :
    let m := engines.met
    let w := engines.wave
    let reads (n : Nat) : Uses :=
      { xr := (w.byteUses 48 (4 * n)).filter (fun x => (w.fib x.lane).active), tr := [3] };
    engines.core.tileQ = [] ∧ m.tileLent 3 = false ∧ engines.Ready { tw := [3] }
      ∧ engines.Ready { rs := [20], tw := [3] }
      ∧ w.ctr 4 < 63 ∧ engines.Ready { rs := [20, 21], tr := [3] } ∧ tmovBad (m.readS 20).toNat = false
      ∧ (m.readS 21).toNat + tmovSize (m.readS 20).toNat ≤ m.vatSize
      ∧ (m.engFillCheck (w.group.getD 0) w.lowest (m.readS 21).toNat (tmovSize (m.readS 20).toNat)).isNone = true
      ∧ m.fillsHeld [(w.group.getD 0, (m.readS 21).toNat, tmovSize (m.readS 20).toNat)] = false
      ∧ engines.Ready { rs := [20], xw := w.byteUses 48 (256 * (bits (m.readS 20).toNat 13 8 + 1)), tr := [3] }
      ∧ bits (engines.readS 20).toNat 13 8 = bits (m.readS 20).toNat 13 8
      ∧ engines.Ready { xw := w.byteUses 48 256, tr := [3] } ∧ (m.laneCheck 48 256).isNone = true
      ∧ engines.Ready (reads 128) ∧ (m.laneCheck 48 512).isNone = true
      ∧ m.wave.laneInterlocked 48 (w.laneSpan 512) = false ∧ engines.Ready (reads 64) :=
  ⟨by decide, by decide, ready_of (by decide), ready_of (by decide), by decide, ready_of (by decide), by decide, by decide,
   by decide, by decide, ready_of (by decide), by decide, ready_of (by decide), by decide, ready_of (by decide), by decide,
   by decide, ready_of (by decide)⟩

/-- `State.Front`, computed. -/
def frontB (s : State) (c : ArrayCmd) : Bool :=
  s.core.arrayQ == [c] && c.follow.isNone && c.token.isNone &&
  (!(c.op.vatWrites || c.op.isLoad) || !s.cmdFollows c)

theorem front_of {s : State} {c : ArrayCmd} (h : frontB s c = true) : s.Front c [] := by
  simp only [frontB, Bool.and_eq_true, beq_iff_eq, Option.isNone_iff_eq_none, Bool.or_eq_true, Bool.not_eq_true'] at h
  exact ⟨h.1.1.1, h.1.1.2, h.1.2, fun k => by simp_all⟩

/-- A core whose array's queue holds one command of the wave at the port. -/
def arrayOf (op : ArrayOp) : State :=
  engines.onCore (fun k => { k with arrayQ := [{ op := op, wid := 1, group := some 1, ctr := some 4, stamp := 19, bases := [(0, 0), (1, 0)],
                                                  active := [0, 1] }] })

/-- The command at the front of the array's queue. -/
def cmdOf (s : State) : ArrayCmd := s.core.arrayQ.headD { op := .swap }

/-- Queues whose front is a RANK without a packet and with one, an UNRANK, an LSUM and an LTEST. -/
theorem witness_LabelAndRankResult :
    let rank (ctl : Word) : State := arrayOf (.rank ctl 64 0 9 8)
    let h : DWord := 0x00000001;
    (∀ op ∈ [ArrayOp.rank 0x101 64 0 9 8, .rank 0x80101 64 0 9 8, .unrank 64 12 h, .lsum (BitVec.ofNat 128 (32 * 2 ^ 32 + 8 * 2 ^ 96)),
        .ltest 0 32 14 2], (arrayOf op).Front (cmdOf (arrayOf op)) [])
      ∧ (∃ g ∈ (rank 0).groups, g.id = (cmdOf (rank 0)).group.getD 0)
      ∧ bits (0x101 : Word).toNat 16 8 ≤ bits (0x101 : Word).toNat 7 0 + 1
      ∧ bit (0x101 : Word).toNat 19 = false ∧ bit (0x80101 : Word).toNat 19 = true
      ∧ (∀ xs ∈ [[], [(64, packetBytes 1)], [(64 + 8, hdrT h)], [(32, 4 * 8), (0, 32)], [(0, 32), (32, 32)]],
        isOk ((rank 0).fillRanges (cmdOf (rank 0)) 1 xs) = true) := by
  refine ⟨fun op ho => front_of ?_, ?_⟩
  · revert op
    decide
  · decide

/-- A port whose front is a TMOV.vat that waits for an earlier store of its fibre, one that does not, and each other
operation. -/
theorem witness_TileResult :
    let q (op : TileOp) : State := engines.onCore (fun k => { k with tileQ := [{ op := op, wid := 1, group := some 1, ctr := 4,
                                                                                 stamp := 9 }] })
    let late (s : State) : State := s.onWave (fun w => { w with outst := [{ kind := .store, stamp := 1, reqs := [{}] }] })
    let c (s : State) : TileCmd := s.core.tileQ.headD { op := .rowMax 0 0 }
    let waits (s : State) : Bool := s.earlierBy (c s).wid (c s).stamp (c s).lane ||
      s.core.engBefore (c s).wid (c s).stamp (fun l => l == (c s).lane);
    (∀ op ∈ [TileOp.movVat 3 0 0, .movV 3 0 8, .rowMax 3 8, .rowSum 3 8, .rescale 3 8, .norm 3 8],
        (q op).core.tileQ = c (q op) :: [] ∧ (c (q op)).op = op)
      ∧ waits (q (.movVat 3 0 0)) = false ∧ waits (late (q (.movVat 3 0 0))) = true
      ∧ (∃ x ∈ (q (.movVat 3 0 0)).groups, x.id = 1) := by
  decide

/-- Queues whose front is each command of the array, an MMA and an MMAR before the last chunk and an MMA after it, a
KICK with requests left and with none, a merge that waits and one that does not. -/
theorem witness_EngineCompletes :
    let tdt : BitVec 512 := BitVec.ofNat 512 (1 + 64 * 2 ^ 64)
    let mma : ArrayOp := .mma 0 0x01000000 12 20 0 tdt none 0 0
    let with' (f : Core → Core) (op : ArrayOp) : State := (arrayOf op).onCore f
    let done (s : State) : State := s.onCore (fun k => { k with arrayQ := k.arrayQ.map (fun c => { c with chunks := 1 }) })
    let at_ : List Nat := (List.range 16).map (fun i => 0x100000 + 64 * i)
    let pl := engines.core.mat.planeShape 0x00400040 tdt none none;
    (∀ op ∈ [ArrayOp.swap, .relset 15 0, .lblset 0, .ldstat 0x00400040 0 0 0 tdt none none, .attld 64 3, .mld 4 .global at_ 0,
        .mld 4 (.vat 1) [0] 0], (arrayOf op).Front (cmdOf (arrayOf op)) [])
      ∧ isOk ((arrayOf .swap).fillRanges (cmdOf (arrayOf .swap)) 1 (pl.ranges 0 0 0)) = true
      ∧ isOk ((arrayOf .swap).fillRanges (cmdOf (arrayOf .swap)) 1 [(64, 512)]) = true
      ∧ isOk ((arrayOf .swap).fillRanges (cmdOf (arrayOf .swap)) 1 [(0, 1024)]) = true
      ∧ at_.length = 16 ∧ (∀ p ∈ at_, (arrayOf .swap).transferFails p = none)
      ∧ State.transferFails { arrayOf .swap with refuseNext := some .link } 0x100000 ≠ none
      ∧ (∀ op ∈ [mma, .mmar 0 0x100 15 [0]],
        let s := with' (fun k => k) op
        (cmdOf s).follow = none ∧ (cmdOf s).token = none ∧ (cmdOf s).chunks < (cmdOf s).chunkCount
        ∧ (cmdOf (done s)).chunkCount ≤ (cmdOf (done s)).chunks ∧ (cmdOf s).chunkCount ≠ 0
        ∧ s.core.portBlocks (cmdOf s) = false ∧ isOk (s.runFront (cmdOf s)) = true ∧ s.core.mat.active.nv ≤ 64)
      ∧ (with' (fun k => { k with tileQ := [{ op := .norm 12 8, wid := 1, group := some 1, ctr := 4 }] }) mma).core.portBlocks
          (cmdOf (arrayOf mma)) = true
      ∧ (∀ n ∈ [0, 2], (engines.onCore (fun k => { k with kickQ := [{ wid := 1, ctr := 4, left := n }] })).core.kickQ
          = { wid := 1, ctr := 4, left := n } :: [])
      ∧ (∀ n ∈ [0, 1], (engines.onCore (fun k => { k with blendQ := [{ wid := 1, ctr := 4, group := 1, earlier := n }] })).core.blendQ
          = { wid := 1, ctr := 4, group := 1, earlier := n } :: [])
      ∧ (engines.onCore (fun k => { k with blendQ := [{ wid := 1, ctr := 4, group := 1 }] })).core.engBefore 1 0 (fun _ => true) = false
      ∧ (∃ g ∈ engines.groups, g.id = 1) := by
  refine ⟨fun op ho => front_of ?_, ?_⟩
  · revert op
    decide
  · decide

/-- Two fibres with entries in V2:V3 at which a header stands and values from V8. -/
def worker : State := stand [[(2, 0x30000), (8, 5)], [(2, 0x30000), (8, 6)]]

/-- Bins that hold the key with room for one item more, that leave one bin free, that are all taken by other keys, and
that hold 2,048 items. -/
theorem witness_WorkWordsResult :
    let it : Item := {}
    let bins (bs : List Bin) := worker.onCore (fun c => { c with bins := bs });
    worker.Ready (forkUses 1 1 8) ∧ worker.Ready {} ∧ worker.accessBusy = false
      ∧ (∀ l ∈ worker.wave.activeLanes, (worker.met.roomBelow (fun i => [(worker.met.readV64 i 2).toNat]) l).targetCheck l
        (worker.met.readV64 l 2).toNat = none)
      ∧ worker.wave.activeLanes = [0, 1]
      ∧ (let s := bins [{ launch := 1, entry := 9, items := List.replicate 255 it }]
        (s.core.bins.map (fun k => k.items.length)).sum = 255
        ∧ s.core.bins.findIdx? (fun k => k.launch == 1 && k.entry == 9 && decide (k.items.length < 256)) = some 0)
      ∧ (let s := bins (List.replicate 15 { launch := 1, entry := 9, items := [it] })
        s.core.bins.any (fun k => k.launch == 1 && k.entry == 7 && decide (k.items.length < 256)) = false
        ∧ s.core.bins.length = 15 ∧ (s.core.bins.map (fun k => k.items.length)).sum = 15)
      ∧ (let s := bins (List.replicate 16 { launch := 1, entry := 9, items := [it] })
        s.core.bins.any (fun k => k.launch == 1 && k.entry == 7 && decide (k.items.length < 256)) = false
        ∧ s.core.bins.length = 16)
      ∧ (let s := bins (List.replicate 8 { launch := 1, entry := 9, items := List.replicate 256 it })
        (s.core.bins.map (fun k => k.items.length)).sum = 2048) :=
  ⟨ready_of (by decide), ready_of (by decide), by decide⟩

/-- Queue 3 of context 1 with its descriptor at 0x40000 and 16 slots at 0x41000: en, class 1, head and tail. -/
def queued (en : Nat) (head tail : Nat) (s : State) : State :=
  ((s.wrN 0x40000 0x41000 8).wrN 0x40008 (64 * en + 16) 8).wrN 0x40018 (head + tail * 2 ^ 32) 8
    |>.onContext 1 (fun c => { c with queues := [{ num := 3, desc := 0x40000 }] })

/-- Queues that take a record (with 15), that are full (16), disabled, and with a descriptor that no page holds. -/
theorem witness_LaunchResult :
    let base := mapped [[(5, 256)], [(5, 256)]] [(40, 3)]
    let ok (s : State) : Bool := readyB s { rv := [(5, 1)], rs := [40], wp := [1] } && !s.accessBusy &&
      s.wave.group == some 1 && s.wave.activeLanes.all (fun l => (s.met.readV l 5).toNat == 256) &&
      (s.met.readS 40).toNat == 3 && decide (256 + 128 ≤ (s.groupD 1).size) &&
      (s.met.fillCheck 1 s.wave.lowest [recordTouch s.wave.lowest 1 256]).isNone && (s.met.stampCheck [] (recordTouch s.wave.lowest 1 256)).isNone
    let f (s : State) : State :=
      let r := recordTouch s.wave.lowest 1 256;
      (s.met.recordStamps (r :: s.met.fillTouches 1 [r])).fillAll 1 [r]
    let q (s : State) : Option (Bool × Nat × Nat × Option Nat) := ((f s).queueDesc s.wave.ctx 3).map (fun q =>
      (q.enabled, q.count, q.slots, (f s).ctxPhys s.wave.ctx (q.slot q.tail) .write))
    ok base = true ∧ (f base).queueDesc base.wave.ctx 3 = none
    ∧ ok (queued 1 1 16 base) = true ∧ q (queued 1 1 16 base) = some (true, 15, 16, some 0x41000)
    ∧ q (queued 1 0 16 base) = some (true, 16, 16, some 0x41000)
    ∧ q (queued 0 0 1 base) = some (false, 1, 16, some 0x41080) := by decide

/-- A record in slot 0 of queue 3: code object 5, class 1, grant of 4, a Vat of 4 KiB, one level of four fibres. -/
def submitted (extra : Nat) (s : State) : State :=
  ((queued 1 0 1 s).wrN 0x41000 (5 + 2 ^ 56 + 4 * 2 ^ 64 + 16 * 2 ^ 76 + 4 * 2 ^ 640 + extra) 128).onContext 1 (fun c =>
    { c with cobjs := [{ handle := 5, base := 0x30000, length := 0x10000, entries := [0] }] })

/-- A launch of two groups; with a cluster of two; one of whose groups runs, alone and with a wave in each lane ended;
a wave and a task wave that met an unhandled cause; a launch whose every group has ended, without and with a failure. -/
def launched (x : Launch) : State :=
  { mapped [[]] with launches := [{ id := 1, ctx := 1, started := 1 }, { x with id := 2, ctx := 1, vatsz := 4096 }] }

theorem witness_LaunchEvents :
    (let view (s : State) : Option (Bool × Nat × Nat) := (s.queueDesc 1 3).map (fun d => (d.enabled, d.count, d.slots))
      let bs (s : State) : List Byte := ((s.queueDesc 1 3).bind (fun d => s.ctxUnits 1 (d.slot d.head) 8)).getD []
      let why (s : State) : Nat := let r : LaunchRec := ⟨fromBytes (bs s)⟩;
        let obj := (s.ctxD 1).cobjs.find? (fun o => o.handle == r.f 31 0);
        s.rejectReason 1 r obj (r.launch s.nextLaunch 1 3 obj ((s.argBlock 1 r).getD []))
      let s := submitted 0 (mapped [[]])
      let bad := submitted (2 ^ 51) (mapped [[]])
      view s = some (true, 1, 16) ∧ s.nextQueue = some (1, 1, 3) ∧ (bs s).length = 128 ∧ why s = 0
      ∧ (s.argBlock 1 ⟨fromBytes (bs s)⟩).isSome = true
      ∧ bad.nextQueue = some (1, 1, 3) ∧ (bs bad).length = 128 ∧ why bad = 1)
    ∧ (let s (x : Launch) := launched { x with groups := 2 }
      let x (c : Nat) : Launch := { id := 2, ctx := 1, vatsz := 4096, groups := 2, csize := c }
      (s (x 0)).liveLaunch 2 = some (x 0) ∧ (s (x 0)).preloadBytes (x 0) = some [] ∧ (x 0).batch = 1
      ∧ (s (x 0)).mayStart (x 0) 1 1 = true
      ∧ (s (x 2)).liveLaunch 2 = some (x 2) ∧ (s (x 2)).preloadBytes (x 2) = some []
      ∧ (∀ i, i < 2 → (s (x 2)).mayStart (x 2) (4 * 47 + i) 1 = true) ∧ ∃ y ∈ (s (x 0)).launches, y.id = (x 0).id)
    ∧ (let s := (mapped [[]]).onWave (fun w => { w with lanes := w.lanes.map (fun f => { f with run := .ended }) })
      let g := s.groupD 1
      s.groups.find? (fun y => y.id == 1) = some g ∧ g.finished = false ∧ s.groupBusy 1 = false
      ∧ (∀ w ∈ s.allWaves, w.group = some 1 → w.over = true) ∧ (∃ x ∈ s.launches, x.id = g.launch) ∧ g.dirtyLeft = [])
    ∧ (let s (g : Option Nat) := (mapped [[]]).onWave (fun w => { w with dying := some { unhandled := true }, group := g })
      (s (some 1)).wave.dying = some { unhandled := true } ∧ (∃ g ∈ (s (some 1)).groups, g.id = 1)
      ∧ ((s (some 1)).groupD 1).failed = false ∧ (∃ x ∈ (s none).launches, x.id = (s none).wave.launch))
    ∧ (let x (n : Nat) : Launch := { id := 2, ctx := 1, vatsz := 4096, started := 1, ended := 1, nfail := n, done := 0x100000 }
      let s (n : Nat) := launched (x n)
      ∀ n, n < 2 → (s n).launches.find? (fun y => y.id == 2) = some (x n) ∧ (x n).complete = false
        ∧ (s n).workLeft (x n) = false ∧ (x n).ended = (x n).started ∧ (x n).started = (x n).groups) := by decide

/-- A launch whose due bin on core 0 fits, on core 1 is to be stolen, in the steal queue, or fits nowhere; a group that
may be racked to core 5; a deterministic launch of two waves; a word that retires and one that holds. -/
theorem witness_TaskEvents :
    (let x : Launch := { id := 2, ctx := 1, win := 16, greq := 2, legacy := 0 }
      let b : Bin := { launch := 2, entry := 0x30000, items := [{ vals := [7] }], due := true }
      let s := (launched x).onCore (fun c => { c with bins := [b] })
      let r := s.refill
      s.detOn s.core.num = none
      ∧ r.core.bins.findIdx? (fun b => r.binDue r.core b && r.binFits b) = some 0 ∧ (∀ y ∈ s.launches, y.ovf = [])
      ∧ (let t := (launched x).onWave (fun w => { w with lanes := w.lanes.map (fun f => { f with run := .ended }) })
        let u := t.onCores (fun c => if c.num = 1 then { c with bins := [b] } else c)
        let p : Posted := { core := 5, launch := 2, entry := 0x30000 }
        let v := (t.setDie 0 { t.die 0 with steal := [p] }).onCores (fun c =>
          if c.num = 5 then { c with bins := [{ b with posted := true }] } else c)
        let fits (s : State) (c o : Core) (b : Bin) : Bool := s.stealable c o b && decide (c.binItems + b.items.length ≤ 2048)
        u.coreBy 0 = some u.core ∧ u.maySteal u.core = true
        ∧ (u.coreBy 1).map (fun o => o.bins.findIdx? (fits u u.core o)) = some (some 0)
        ∧ v.maySteal v.core = true
        ∧ (∀ j, j < 3 → (v.coreBy ((0 + j + 1) % 4)).all (fun y => y.bins.any (fits v v.core y) = false) = true)
        ∧ (let place (o : Core) : Option Nat := o.bins.findIdx? (fun b => b.posted && b.keyed 2 0x30000 && fits v v.core o b)
          (v.die 0).steal.find? (fun p => match v.coreBy p.core with
            | some y => (if p.core = 0 then none else place y).isSome
            | none => false) = some p
          ∧ (v.coreBy 5).map place = some (some 0)))
      ∧ (let t := (launched { x with win := 256, greq := 256 }).onCore (fun c => { c with bins := [b], preempt := .requested [0] })
        t.core.bins.findIdx? (fun b => b.keyed 2 0x30000 && t.binDue t.core b && !t.binFits b && !b.posted &&
          !(t.launchOf 2).det) = some 0))
    ∧ (let s := { mapped [[]] with launches := [{ id := 1, ctx := 1, win := 128, mig := true }] }
      s.groups.find? (fun y => y.id == 1) = some (s.groupD 1) ∧ s.mayRack (s.groupD 1) 5 = true
      ∧ s.coreBy (s.groupD 1).core = some s.core ∧ (s.coreBy 5).isSome = true)
    ∧ (let s : State := { (stand [[], []]).onWave (fun w => { w with det := true }) with
        launches := [{ id := 1, ctx := 1, win := 128, det := true, rotation := [1], started := 1, core := some 0 }] }
      let o : State := { s.onWave (fun w => { w with outst := [{ kind := .store, reqs := [{}] }] }) with
        launches := [{ s.launchOf 1 with stepOpen := true }] }
      (s.detOn s.core.num).map (fun x => (x.id, x.stepOpen)) = some (1, false)
      ∧ (o.detOn o.core.num).map (fun x => (x.id, x.stepOpen)) = some (1, true)
      ∧ (o.rotationAt (o.launchOf 1)).isSome = true
      ∧ (let u := o.focusWave ((o.launchOf 1).rotation.getD ((o.rotationAt (o.launchOf 1)).getD 0) 0)
        u.openWork u.wave.wid = true)
      ∧ s.core.preempt = .none ∧ s.core.bins = [] ∧ (∀ y ∈ s.launches, y.ovf = [])
      ∧ (s.rotationAt (s.launchOf 1)).isSome = true
      ∧ (let u := s.focusWave ((s.launchOf 1).rotation.getD ((s.rotationAt (s.launchOf 1)).getD 0) 0)
        u.openWork u.wave.wid = false ∧ u.wave.dying = none ∧ u.wave.cur.isSome = true)
      ∧ (∃ y ∈ s.launches, y.id = 1) ∧ (∀ g ∈ s.groups, g.launch = 1 → s.canEnd g = false)
      ∧ goesOn (issueWord (.add 0 .vv 0 0 0) (s.onWave (fun w => { w with stalled := false, turnDone := false }))) = true)
    ∧ decodeWord (stand [[], []]).wave.wordHere = .ok (.add 0 .vv 0 0 0) :=
  ⟨by decide, by decide, by decide, rfl⟩

/-- Core 0 of `mapped`, asked for and stopped; with an image of it; a core without waves. -/
theorem witness_PreemptEvents :
    let s := mapped [[]]
    let ask (t : State) : State := t.onCores (fun c => if c.num = 0 then { c with preempt := .requested [0] } else c)
    let busy := (ask s).onWave (fun w => { w with outst := [{ kind := .load .n32, reqs := [{}] }] })
    let saved := s.saveCore 0 none
    let idle (f : Core → Core) : State := State.reset.onCores (fun c => if c.num = 5 then f c else c)
    let spares (n : Nat) : State := State.reset.setDie 0 { State.reset.die 0 with spareCores := n }
    s.core.preempt.cores = [] ∧ busy.core.preempt.cores = [0] ∧ busy.allStopped [0] = false
    ∧ (ask s).core.preempt.cores = [0] ∧ (ask s).allStopped [0] = true ∧ (∀ c ∈ (ask s).allCores, c.retiring = [])
    ∧ s.coreBy 0 = some s.core ∧ (s.context s.core.matCtx).isSome = true ∧ s.usersOn 0 ≠ []
    ∧ (let i := (saved.ctxD 1).images.getD 0 {}
      (saved.ctxD 1).images.find? (fun y => y.seq == 0) = some i ∧ i.seq = 0 ∧ i.cpos = none
        ∧ saved.imageFits i 7 = true
      ∧ saved.yields (saved.imageClass i) = false
      ∧ ∀ w ∈ saved.allWaves ++ i.waves, (saved.launchOf w.launch).stopped = false)
    ∧ s.clusterCore 0 = false ∧ busy.core.stopped (busy.workOn 0) = false ∧ (idle id).inStep 5 = false
    ∧ (∀ c, c < 2 → (idle (fun k => { k with retired := if c = 0 then none else some 2 })).clusterCore 5 = false)
    ∧ (idle id).workOn 5 = [] ∧ (∀ g ∈ (idle id).groups, g.core = 5 → g.finished = true)
    ∧ ((idle id).coreBy 5).map (fun c => c.stopped ((idle id).workOn 5)) = some true
    ∧ ((idle (fun k => { k with retired := some 2 })).coreBy 5).map (fun c => (c.retired, c.retiring, c.preempt))
        = some (some 2, [], .none)
    ∧ ((spares 0).die 0).spareCores = 0 ∧ 0 < ((spares 1).die 0).spareCores
    ∧ ((spares 0).coreBy 5).map (fun c => c.stopped ((spares 0).workOn 5)) = some true := by decide

/-- A request of one row of 16 bytes from C at Vat byte 64, with its barrier at byte 96, at Vat byte 0. -/
def requested (src : Nat) (extra : Nat) (s : State) : State :=
  let raw : Nat := 96 * 2 ^ 32 + src * 2 ^ 64 + 64 * 2 ^ 128 + 256 * 2 ^ 160 + 16 * 2 ^ 192 + 2 ^ 208 + 2 ^ 224 + extra
  (s.onGroup 1 (fun g => { (g.wr 0 (bytesOf raw 64)).wr 64 (bytesOf (0x100000 + 0x80000000 * 2 ^ 64 + 0x8300 * 2 ^ 96) 16) with
       vtags := [(4, true)] })).onCore (fun k => { k with reqQ := [{ group := 1, wid := 1 }] })

/-- The request that stands first in the decanter. -/
def front (s : State) : CopyReq := s.core.reqQ.getD 0 {}

/-- What validation answers for the front request, once its granules are filled and it has been read. -/
def checkedReq (s : State) : Except ReqStop CopyReq :=
  match s.rqFetch (front s) with
  | .error x => .error x
  | .ok f =>
    ((f.onReq 0 (fun _ => f.rqRead (front s))).onCore (fun k => { k with kickQ := lessOne k.kickQ })).rqValidate
      (f.rqRead (front s))

/-- The state in which the front request is valid. -/
def started (s : State) : State :=
  match checkedReq s with
  | .ok q => s.onReq 0 (fun _ => q)
  | .error _ => s

/-- The code of a stop. -/
def codeOf {α : Type} (x : Except ReqStop α) : Nat :=
  match x with
  | .error (.code c _) => c
  | .error (.wait _) => 0
  | .error (.integrity _) => 0
  | .ok _ => 0

/-- A request that is valid, one of kind 3, one whose capability lies past the allocation, a segment that lands, one
whose source lies in a device that has left the domain; follow-on commands that wait for room, that enter, and that a
check stops. -/
theorem witness_UnitEvents :
    let base := mapped [[]]
    let s := requested 8 0 base
    let t := requested 8 ((65536 - 64) * 2 ^ 128) base
    let b := started s
    let c := started { requested (0x40000000 - 0x100000) 0 (base.wrN 0x20008 (5 * 2 ^ 44 + 7) 8) with
      mgmt := { base.mgmt with left := [5] } }
    let f (n : Nat) (raw : BitVec 512) := base.onCore (fun k =>
      { k with arrayQ := List.replicate n { op := .swap }, reqQ := [{ group := 1, wid := 1, raw := raw, done := true }] })
    let mma := f 7 (BitVec.ofNat 512 (4 + 0xA0000003 * 2 ^ 384))
    let two := base.onCore (fun c => { c with waves := [{ base.wave with wid := 7, passed := 1, resident := 3 },
      { base.wave with wid := 8, passed := 1, resident := 4 }, { base.wave with wid := 9, resident := 9 }] })
    let big := started (requested 8 (6384 * 2 ^ 192) base)
    let fill (t : State) : State := t.folFill (front t);
    s.core.curReq = some (0, front s) ∧ (front s).valid = false ∧ s.rqEarly (front s) = false ∧ (front s).begun = false
    ∧ isOk (s.rqFetch (front s)) = true ∧ isOk (checkedReq s) = true ∧ codeOf (checkedReq (requested 8 3 base)) = 0x030
    ∧ s.rqStage1 (s.rqRead (front s)) = false ∧ s.rqStage2 (s.rqRead (front s)) = false
    ∧ t.rqStage1 (t.rqRead (front t)) = false ∧ (t.groupD 1).size < 65536 + 16
    ∧ b.core.curReq = some (0, front b) ∧ (front b).valid = true ∧ (front b).total ≤ (front b).pos + 4096
    ∧ (front b).segStop = 16
    ∧ big.core.curReq = some (0, front big) ∧ (front big).valid = true ∧ (front big).pos + 4096 < (front big).total
    ∧ (front big).destAt ((front big).pos + 7) / 8 ≠ (front big).destAt ((front big).pos + 8) / 8
    ∧ isOk (b.rqPrepare (front b) 0 16) = true ∧ rqMcast (front b).raw = 0 ∧ rqSum (front b).raw = false
    ∧ (∃ g ∈ b.groups, g.id = (front b).group)
    ∧ (match b.rqPrepare (front b) 0 16 with
        | .ok (_, _, ws) => ws.all (fun x => decide (112 ≤ x.1) || decide (x.1 + x.2.length ≤ 96))
        | .error _ => false) = true
    ∧ (front c).valid = true ∧ codeOf (c.rqPrepare (front c) 0 16) = 0x036
    ∧ (f 8 0).core.reqQ.findIdx? (fun q => q.done) = some 0 ∧ 8 ≤ (f 8 0).core.arrayQ.length
    ∧ (f 7 0).core.arrayQ.length < 8
    ∧ isOk ((fill (f 7 0)).folOp (front (f 7 0)) ((fill (f 7 0)).folCmd (front (f 7 0)) .swap)) = true
    ∧ (match (fill mma).folOp (front mma) ((fill mma).folCmd (front mma) .swap) with
          | .error (.trap _) => true
          | _ => false) = true
    ∧ (two.wave.wid = 7 → two.wave.absent = true) ∧ (two.core.waves.find? (fun y => y.wid == 7)).isSome = true
    ∧ (∀ w ∈ two.core.waves, (w.wid = 7 ∨ w.wid = 8 → w.passedOver = true) ∧ (w.wid = 9 → w.passedOver = false))
    ∧ (∀ w ∈ two.core.waves, w.wid = 7 → ∀ x ∈ two.core.waves, x.seniorTo w = false
        ∧ (x.wid = 8 → w.seniorTo x = true)) := by decide

/-- Where the free value says that the wave at the port alone meets an error, its set has a token to park on. -/
theorem witness_UnitEvents_error (h : ∀ w, Config.errorMet (mapped [[]]).fresh w = true) :
    let s := mapped [[]]
    ((s.wavesOn s.core.num).filter (fun w => !w.steward && !w.absent && !w.over && w.dying.isNone)).filter
        (fun w => Config.errorMet s.fresh w.wid) = [s.wave]
      ∧ s.wave.cur.isSome = true ∧ s.wave.absent = false
      ∧ (s.interest (dieOf s.core.num) s.wave.ctx (s.wave.pc / 65536)).2.isSome = true := by
  refine ⟨?_, by decide, by decide, by decide⟩
  simp only [h]
  decide

/-- A page in the module tier and an absent one that are asked for, and a cask page below the watermark. -/
theorem witness_TierEvents_moves :
    let t1 := asked (paged (0x10000000000 + 32 + 7))
    let ab := asked (paged 6)
    let low := (paged (0x100000 + 7)).setDie 0 { (State.reset.die 0) with swmark := 0xFFFFFFFF }
    let isc (f : Nat) : Bool := isCask (localOf (f * 65536))
    (∀ s ∈ [t1, ab], (s.context 1).isSome = true ∧ (s.leafWord 1 0x4000).map (fun x => x.1) = some 0x60000
      ∧ (s.findWait 1 0x4000).map (fun x => x.2.state) = some .pending ∧ s.ownFrame 0x20 = true ∧ isc 0x20 = true
      ∧ s.frameFree 0x20 = true
      ∧ s.moves.any (fun m => m.ctx == 1 && m.page == 0x4000) = false ∧ s.rd 0x60000 8 / 2 % 8 ≠ 0)
    ∧ t1.pageState 1 0x4000 = .resident ∧ entV (t1.rd 0x60000 8) = true ∧ entTier (t1.rd 0x60000 8) = 1
    ∧ entHome (t1.rd 0x60000 8) = caskDie (localOf (0x20 * 65536))
    ∧ t1.frameBusy (entFrame (t1.rd 0x60000 8) / 65536) = false
    ∧ ab.pageState 1 0x4000 = .absent ∧ entV (ab.rd 0x60000 8) = false
    ∧ (low.leafWord 1 0x4000).map (fun x => x.1) = some 0x60000 ∧ low.pageState 1 0x4000 = .resident
    ∧ entV (low.rd 0x60000 8) = true ∧ low.rd 0x60000 8 / 2 % 8 ≠ 0 ∧ entTier (low.rd 0x60000 8) = 0
    ∧ low.findWait 1 0x4000 = none ∧ 1572864 - ((low.die (entHome (low.rd 0x60000 8))).usedFrames.filter isc).length
        < (low.die (entHome (low.rd 0x60000 8))).swmark.toNat
    ∧ low.ownFrame 0x1000000 = true ∧ isModule (localOf (0x1000000 * 65536)) = true ∧ low.mgmt.tier1 = true
    ∧ low.frameFree 0x1000000 = true ∧ low.frameBusy (entFrame (low.rd 0x60000 8) / 65536) = false := by decide

/-- A move out of the cask, with memory in canonical form. -/
theorem witness_TierEvents_install :
    let m : Move := { ctx := 1, page := 0x4000, srcLeaf := 0x100000 + 7, dst := 0x1000000, dstTier := 1 }
    let s : State := { paged (0x100000 + 6) with moves := [m] }
    s.MemWf ∧ s.moves.find? (fun y => y.ctx == m.ctx && y.page == m.page) = some m ∧ s.badSource m = none
    ∧ ({ s with mem := copyFrame s.mem 0x100000 (0x1000000 * 65536) } : State).pageSlot 1 0x4000 = some 0x60000 := by decide

/-- Units of the module tier, one that is bad; one byte and a whole unit. -/
theorem witness_TierEvents_units :
    let s := paged 0
    let bad : State := { s with badUnits := [0x10000000] }
    (∀ n ∈ [1, 4096], 0 < n ∧ n ≤ 4096) ∧ s.unitOf (4096 * 0x10000000) = some 0x10000000
    ∧ bad.unitOf (4096 * 0x10000000) = some 0x10000000 ∧ bad.unitFails (4096 * 0x10000000) = true
    ∧ bad.unitPages (4096 * 0x10000000) = []
    ∧ (let on : State := { paged (0x10000000000 + 32 + 7) with badUnits := [0x10000001] }
      on.unitOf (4096 * 0x10000001) = some 0x10000001 ∧ on.unitFails (4096 * 0x10000001) = true
      ∧ on.unitPages (4096 * 0x10000001) = [(1, 0x4000, 0)])
    ∧ s.mgmt.tier1 = true ∧ bad.mgmt.tier1 = true ∧ (List.replicate 4096 (0 : Byte)).length = 4096
    ∧ ([1] : List Byte).length < 4096 ∧ 4095 + ([1] : List Byte).length ≤ 4096 := by decide

/-- Pools in every phase. -/
theorem witness_TierEvents_fining :
    let s (ph ctl : Nat) := ((paged 0).wrN 0x100066 ctl 1).onContext 1 (fun c =>
        { c with pools := [{ num := 2, desc := 0x100000, phase := ph }] })
    (∀ x ∈ [(1, 0), (0, 2), (2, 0), (3, 0), (4, 0)], ((s x.1 x.2).poolDesc 1 2).map (fun y => (y.1.phase, y.2)) = some (x.1, 0x100000)
      ∧ bit ((s x.1 x.2).desc 0x100000 102 1) 0 = false ∧ bit ((s x.1 x.2).desc 0x100000 102 1) 2 = false)
    ∧ bit ((s 0 2).desc 0x100000 102 1) 1 = true ∧ (∀ x ∈ [(1, 0), (0, 2), (3, 0)], (s x.1 x.2).kvsetPending 1 = false)
    ∧ (let g := (s 3 0).wrN 0x100050 4 4
      0 < g.desc 0x100000 80 4
        ∧ (g.ctxRd 1 (g.desc 0x100000 24 8 + 8 * (0 % g.desc 0x100000 80 4)) 8).isSome = true) := by
  decide

/-- A block that is allocated and not marked, one that is not allocated, and an entry that names the first. -/
theorem witness_TierEvents_blocks :
    let s := (((paged 0).wrN 0x100080 (2 ^ 126 + 0x400000) 16).wrN 0x100000 0x100080 8).wrN 0x100020 1 8
    s.rd 0x100080 16 / 2 ^ 126 = 1 ∧ bit (s.rd 0x100080 16) 125 = false ∧ 0x100000 + 128 ≤ 0x100080
    ∧ s.rd 0x100090 16 / 2 ^ 126 ≠ 1
    ∧ (let e : Nat := 1 + 16 * 2
      bit e 0 = true ∧ e / 16 % 64 = 2 ∧ e / 2 ^ 52 % 4096 = s.mgmt.devno ∧ e / 2 ^ 50 % 4 ≤ 1
      ∧ s.blockEntry 1 0x100000 (e / 2 ^ 50 % 4) (e / 2 ^ 10 % 2 ^ 40) = some 0x100080) := by decide

/-- Where the free value of a unit's reads says that they do not fail, the unit does not. -/
theorem witness_TierEvents_unit (h : Config.unitError (paged 0).fresh 0x10000000 = false) :
    (paged 0).unitFails (4096 * 0x10000000) = false := by
  have e : (paged 0).unitOf (4096 * 0x10000000) = some 0x10000000 := by decide
  have b : (paged 0).badUnits.contains 0x10000000 = false := by decide
  have t := State.unitHolds_zero (paged 0) 0x10000000 (by decide) (by decide)
  simp only [State.unitFails, e, b, h, t, bne_self_eq_false, Bool.false_and, Bool.or_self]

/-- An object at 0x100000 with one native entry: an image of one clause at 0x100080 with its entry table. -/
def packed : State :=
  let hdr : Nat := 0x424F435A + 2 ^ 32 + 2 ^ 48 + 256 * 2 ^ 64 + 0x40000000 * 2 ^ 128
  let ent : Nat := 256 + 0x80 * 2 ^ 64 + 64 * 2 ^ 128 + 16 * 2 ^ 192 + 2 ^ 224
  (((paged 0).wrN 0x100000 hdr 64).wrN 0x100040 ent 32).wrN 0x100080 0xF1A00000 64

theorem witness_StewardEvents :
    (let s := paged 0;
      (∀ n ∈ [2, 4095], s.madeCtx n = false) ∧ s.madeCtx 1 = true ∧ (∀ x ∈ (s.ctxD 1).queues, x.num ≠ 255)
      ∧ (s.ctxD 1).roots.length < 64
      ∧ (s.onContext 1 (fun c => { c with roots := List.replicate 64 0 })).madeCtx 1 = true
      ∧ s.poolNum 1 63 = none ∧ (0x100080 : DWord).toNat % 128 = 0 ∧ (0x100040 : DWord).toNat % 128 ≠ 0
      ∧ (∀ o ∈ (s.ctxD 1).cobjs, o.handle ≠ 5) ∧ s.rd 0x100000 64 / 2 ^ 0 % 2 ^ 32 ≠ 0x424F435A)
    ∧ (let s := packed
      let x := (s.chooseImage 0x100000).getD (dirEntry 0, 0, [])
      (s.chooseImage 0x100000).isSome = true ∧ x.1.kind = 0 ∧ x.2.1 = 0x40000000 ∧ x.2.2.length = 64
      ∧ imgEntries x.2.2 x.1.tab x.1.nkern = some [0] ∧ x.2.1 % 65536 = 0 ∧ x.2.1 + x.2.2.length ≤ 2 ^ 56
      ∧ s.rangeMapped 1 x.2.1 64 = false)
    ∧ (let s := packed.wrN 0x100010 0 8
      let x := (s.chooseImage 0x100000).getD (dirEntry 0, 0, [])
      (s.chooseImage 0x100000).isSome = true ∧ x.1.kind = 0 ∧ x.2.1 = 0 ∧ s.rangeMapped 1 0 64 = true) := by decide

/-- Tables exist for the page, so a frame at 0x640000 can be mapped. -/
theorem packed_maps : (State.mapCode ((packed.grantFrame 0x640000).wr 0x640000
    (((packed.rdBytes 0x100080 64).drop (65536 * 0)).take 65536)) 1 (0x40000000 + 65536 * 0) 0x640000).isSome = true := by
  decide

/-- Frame 100 is free. -/
theorem packed_free : packed.frameFrom 100 = 100 := by decide

/-- Where the steward's free frame is 100, the image of `packed` finds its place. -/
theorem witness_StewardEvents_place (h : Config.stewardFrame packed.fresh packed.heap = 100) :
    ∃ u, packed.placeImage 1 0x40000000 (packed.rdBytes 0x100080 64) 1 = some u := by
  have e : ∀ x, x = 100 → packed.frameFrom (x % (0x06000000000 / 65536)) * 65536 = 0x640000 := by
    intro x hx; subst hx
    rw [show 100 % (0x06000000000 / 65536) = 100 from rfl, packed_free]
  have f : packed.newFrame packed.heap = 0x640000 := e _ h
  have r : List.range 1 = [0] := rfl
  obtain ⟨u, hu⟩ := Option.isSome_iff_exists.mp packed_maps
  simp only [State.placeImage, r, List.foldl, Option.bind_some, State.placePage, f, hu]
  exact ⟨_, rfl⟩

/-- A device with host windows and one without; a module tier that is absent; ports that are down; saved waves of the
steward. -/
theorem witness_BusEvents :
    let s := mapped [[]]
    let m (f : Mgmt → Mgmt) : State := { s with mgmt := f s.mgmt }
    s.Serving ∧ (7 : Nat) ≠ s.mgmt.devno ∧ (2303 : Nat) < 2304 ∧ unassignedIn 0x100000 64 = false
    ∧ s.mgmt.standalone = false ∧ (m (fun x => { x with paths := [0, 0, 0, 0, 0, 0, 0, 2] })).mgmt.standalone = true
    ∧ hosted.Serving ∧ hosted.inWindow 0x100000 64 = true ∧ hosted.inWindow 0x40000000000 1 = true
    ∧ s.inWindow 0x100000 64 = false ∧ (.read 4 : BusOp) ≠ .linkError
    ∧ s.busRefused 0x100000 (.read 4) = false
    ∧ (m (fun x => { x with tier1 := false })).busRefused 0x10000000000 (.read 4) = true
    ∧ s.mgmt.paths.getD 8 0 ≠ 2 ∧ (m (fun x => { x with paths := [0, 0, 0, 0, 0, 0, 0, 0, 2] })).mgmt.paths.getD 8 0 = 2
    ∧ s.mgmt.parked = [] ∧ (m (fun x => { x with parked := [(5, { steward := true })] })).mgmt.parked ≠ []
    ∧ (∃ c ∈ s.allCores, c.num = 5)
    ∧ unassignedIn 0x40000000000 1 = true ∧ isModule 0x100000 = false ∧ ¬ State.reset.Serving
    ∧ (∃ x ∈ ({ s.mgmt with halfPorts := [(3, 8)] } : Mgmt).halfPorts, x.1 = 3)
    ∧ (∀ x ∈ s.mgmt.halfPorts, x.1 ≠ 3) := by decide

/-- Tolerances about each boundary with a wave that ended; attestation lengths; boot steps begun and not. -/
theorem witness_PackageEvents :
    let s := (mapped [[]]).onWave (fun w => { w with lanes := w.lanes.map (fun f => { f with run := .ended }) })
    let v : Verified := { kind := 1, svn := 0, digest := [] }
    let steward : State := s.onWave (fun w => { w with steward := true })
    s.Serving ∧ s.idle = true ∧ s.agenda = [] ∧ ({ s.mgmt with power := 1 } : Mgmt).power ≠ 0
    ∧ ({ s.mgmt with verified := [v] } : Mgmt).verified ≠ []
    ∧ steward.idle = true ∧ steward.wave.absent = false ∧ deepest 399 = 2 ∧ deepest 400 = 3
    ∧ State.reset.mgmt.boot = .booting ∧ State.reset.mgmt.begun = none
    ∧ ({ State.reset with mgmt := { State.reset.mgmt with begun := some 2, step := 6 } } : State).mgmt.boot = .booting
    ∧ s.mgmt.boot ≠ .booting
    ∧ (∀ x ∈ [(1, 0), (64, 64), (65, 65), (128, 0)], (bit (2 ^ 31 + x.1) 31 = true) ∧ (w32 (2 ^ 31 + x.1)).toNat % 128
        = x.1 % 128) := by decide

/-- A step 6 that is skipped has no outcome but success; of another begun step the free value is one of the two. -/
theorem witness_PackageEvents_boot (b n p : Nat) :
    Config.bootFailure b n p = none ∨ ∃ c, Config.bootFailure b n p = some c := by
  cases Config.bootFailure b n p with
  | none => exact .inl rfl
  | some c => exact .inr ⟨c, rfl⟩

/-- Where slot A of the Sommelier's image is empty, step 1 fails on its primary path. -/
theorem witness_PackageEvents_image (b : Nat) (h : Config.firmware b 1 0 = []) :
    ∃ x ∈ [(1, Config.firmware b 1 0)], ¬ (256 + fwNum x.2 8 8 ≤ x.2.length) :=
  ⟨_, List.mem_singleton.mpr rfl, by simp [h]⟩

theorem witness_DecodeOfEncode :
    Instr.wellFormed (.add 3 .vv 31 30 29) = true ∧ (∃ w, encode (.add 3 .vv 31 30 29) = some w)
    ∧ isEvent (.add 3 .vv 31 30 29) = false ∧ isEvent .boot = true := ⟨rfl, ⟨_, rfl⟩, rfl, rfl⟩

theorem witness_EncodeOfDecode : decodeWord 0x040C1080 = .ok (.add 0 .vs 3 1 2) := rfl

/-- A wave inside its clause, at its first and at its last word; one between clauses; a clause in memory; an event that
is due; a device that boots. -/
theorem witness_StepRunsDecoded :
    (let s := stand [[], []]
      let last := s.onWave (fun w => { w with lanes := w.lanes.map (fun f => { f with pc := placeAt + 60 }) });
      (∀ x ∈ [(s, 0), (last, 14)], x.1.agenda = [] ∧ x.1.Serving ∧ x.1.mgmt.power = 0 ∧ x.1.wave.dying = none
        ∧ x.1.canGo = true
        ∧ x.1.wave.cur = some (placedClause 0) ∧ (placedClause 0).addr < 2 ^ 48 ∧ x.2 < 15
        ∧ x.1.wave.pc = pc48 ((placedClause 0).addr + 4 * (x.2 + 1)) ∧ (placedClause 0).words.getD x.2 0 = 0)
      ∧ (let r := s.onWave (fun w => { w with cur := none, lanes := w.lanes.map (fun f => { f with pc := placeAt }) })
        r.agenda = [] ∧ r.Serving ∧ r.mgmt.power = 0 ∧ r.wave.dying = none ∧ r.canGo = true ∧ r.wave.cur = none
          ∧ r.wave.choosePc.isSome = true
        ∧ r.core.icache = []
        ∧ (match r.findClause 0 placeAt with
          | .clause c _ => c.addr == placeAt
          | _ => false) = true)
      ∧ isEvent .boot = true ∧ State.reset.agenda = [] ∧ State.reset.mgmt.boot = .booting)
    ∧ decodeWord 0 = .ok (.add 0 .vv 0 0 0) := ⟨by decide, rfl⟩

theorem witness_MemWfStep : State.reset.MemWf ∧ goesOn (step State.reset) = true := by decide
end Sys2Proof.Tests
end

section
namespace Sys2Proof.Machine

open Sys2Proof

/-!
### Canonical memory is an invariant of every step (O59)

The kept form is `State.MemWf`; on an outcome it is `Out.MemWf`, which asks nothing of a fault or
a refusal. The lemmas stand in the order of the model's definitions, one for each function a step
can call, in one of two shapes:

* `f_mem`: the function leaves `mem` as it is, whatever else of the state it changes;
* `f_memWf`: the function may write memory, and keeps its form.

Memory itself is written through `putBytes`, `putRun`, `sput`, `sclear` and `filter` only, whose
own lemmas say that they keep the canonical form. A function that takes the rest of a word as a
continuation asks of the continuation that it keeps the form too, so that most words need no lemma
of their own: the rule of the shared operation through which a word goes is enough.
-/

/-! #### The invariant on outcomes, choices and folds -/

/-- The next state, when the outcome has one, holds memory in canonical form. -/
def Out.MemWf : Out → Prop
  | .next t => t.MemWf
  | .fault _ => True
  | .refused _ => True

@[simp] theorem Out.memWf_next (t : State) : Out.MemWf (.next t) ↔ t.MemWf := Iff.rfl

theorem State.MemWf.of_mem_eq {s t : State} (h : s.MemWf) (e : t.mem = s.mem) : t.MemWf := by
  rwa [State.MemWf, e]

theorem Out.ite_memWf {c : Prop} [Decidable c] {a b : Out} (ha : a.MemWf) (hb : b.MemWf) :
    Out.MemWf (if c then a else b) := by
  split <;> assumption

theorem State.ite_memWf {c : Prop} [Decidable c] {a b : State} (ha : a.MemWf) (hb : b.MemWf) :
    State.MemWf (if c then a else b) := by
  split <;> assumption

@[simp] theorem State.foldl_mem {α : Type} {f : State → α → State} (hf : ∀ s x, (f s x).mem = s.mem)
    (xs : List α) (s : State) : (xs.foldl f s).mem = s.mem := by
  induction xs generalizing s with
  | nil => rfl
  | cons x xs ih => rw [List.foldl_cons, ih, hf]

theorem State.foldl_memWf {α : Type} {f : State → α → State} {s : State} (h : s.MemWf)
    (hf : ∀ t x, t.MemWf → (f t x).MemWf) (xs : List α) : (xs.foldl f s).MemWf := by
  induction xs generalizing s with
  | nil => exact h
  | cons x xs ih => exact ih (hf s x h)

/-! #### Traps, retiring and the checks before a word executes -/

@[simp] theorem State.unhandled_mem (s : State) (i : TrapInfo) (fibid : Word) (pc : Nat) (nested : Bool) :
    (s.unhandled i fibid pc nested).mem = s.mem := by
  rfl

@[simp] theorem State.takeTrap_mem (s : State) (i : TrapInfo) (lane pc : Nat) :
    (s.takeTrap i lane pc).mem = s.mem := by
  unfold State.takeTrap
  repeat' split
  all_goals simp

@[simp] theorem State.trapHere_memWf {s : State} {i : TrapInfo} {lane : Nat} (h : s.MemWf) :
    (s.trapHere i lane).MemWf := by
  simp [State.trapHere, State.MemWf, h]

@[simp] theorem State.retire_memWf {s : State} {st : Stall} (h : s.MemWf) : (s.retire st).MemWf := h

@[simp] theorem State.issue_memWf {s : State} {st : Stall} (h : s.MemWf) : (s.issue st).MemWf := h

@[simp] theorem State.hold_memWf {s : State} (h : s.MemWf) : s.hold.MemWf := h

theorem State.checked_memWf {s : State} {u : Uses} {k : State → Out} (h : s.MemWf)
    (hk : ∀ t, t.MemWf → (k t).MemWf) : (s.checked u k).MemWf := by
  unfold State.checked
  split
  · split
    · exact State.trapHere_memWf h
    · split
      · exact State.trapHere_memWf h
      · exact hk s h
  · exact hk s h

theorem State.gate_memWf {s : State} {u : Uses} {k : State → Out} (h : s.MemWf)
    (hk : ∀ t, t.MemWf → (k t).MemWf) : (s.gate u k).MemWf := by
  refine Out.ite_memWf (State.hold_memWf h) ?_
  simp only
  split
  · exact State.trapHere_memWf h
  · exact State.checked_memWf h hk

theorem State.gateOpen_memWf {s : State} {u : Uses} {k : State → Out} (h : s.MemWf)
    (hk : ∀ t, t.MemWf → (k t).MemWf) : (s.gateOpen u k).MemWf :=
  Out.ite_memWf (State.hold_memWf h) (State.checked_memWf h hk)

theorem State.withCtr_memWf {s : State} {n : Nat} {k : State → Out} (h : s.MemWf)
    (hk : ∀ t, t.MemWf → (k t).MemWf) : (s.withCtr n k).MemWf :=
  Out.ite_memWf (State.hold_memWf h) (hk s h)

@[simp] theorem State.decodeTrap_memWf {s : State} {code : Nat} (h : s.MemWf) : (s.decodeTrap code).MemWf :=
  State.trapHere_memWf h

theorem State.stewardOnly_memWf {s : State} {k : State → Out} (h : s.MemWf)
    (hk : ∀ t, t.MemWf → (k t).MemWf) : (s.stewardOnly k).MemWf :=
  Out.ite_memWf (hk s h) (State.decodeTrap_memWf h)

/-! #### Words that compute a result per lane -/

@[simp] theorem State.compute_memWf {s : State} {st : Stall} {lat : Nat} {d : Dest} {r : Nat → LaneRes}
    (h : s.MemWf) : (s.compute st lat d r).MemWf := by
  simp only [State.compute]
  split <;> simp [State.MemWf, h]

theorem State.alu_memWf {s : State} {st : Stall} {lat : Nat} {d : Dest} {u : Uses} {r : State → Nat → LaneRes}
    (h : s.MemWf) : (s.alu st lat d u r).MemWf :=
  State.gate_memWf h fun _ ht => State.compute_memWf ht

@[simp] theorem State.int2_memWf {s : State} {st : Stall} {f : IntForm} {zext : Bool} {d a b : Reg}
    {op : Word → Word → Word × Word} (h : s.MemWf) : (s.int2 st f zext d a b op).MemWf := State.alu_memWf h

@[simp] theorem State.int1_memWf {s : State} {st : Stall} {f : IntForm} {d a : Reg} {op : Word → Word}
    (h : s.MemWf) : (s.int1 st f d a op).MemWf := State.alu_memWf h

@[simp] theorem State.fp2_memWf {s : State} {st : Stall} {f : FForm} {d a b : Reg}
    {op : RoundMode → Nat → Nat → Rounded} (h : s.MemWf) : (s.fp2 st f d a b op).MemWf := State.alu_memWf h

@[simp] theorem State.fp1_memWf {s : State} {st : Stall} {f : FForm} {d a : Reg} {op : Nat → Nat}
    (h : s.MemWf) : (s.fp1 st f d a op).MemWf := State.alu_memWf h

@[simp] theorem State.fp3_memWf {s : State} {st : Stall} {negP negC : Bool} {d a b c : Reg} (h : s.MemWf) :
    (s.fp3 st negP negC d a b c).MemWf := State.alu_memWf h

@[simp] theorem State.special_memWf {s : State} {st : Stall} {d a : Reg} {op : Nat → Rounded} (h : s.MemWf) :
    (s.special st d a op).MemWf := State.alu_memWf h

@[simp] theorem State.packed_memWf {s : State} {st : Stall} {t : HalfType} {readD : Bool} {d a b : Reg}
    {op : FpFmt → RoundMode → Nat → Nat → Nat → Rounded} (h : s.MemWf) :
    (s.packed st t readD d a b op).MemWf := State.alu_memWf h

@[simp] theorem State.dp2_memWf {s : State} {st : Stall} {d a b : Reg} {op : RoundMode → Nat → Nat → Rounded}
    (h : s.MemWf) : (s.dp2 st d a b op).MemWf := State.alu_memWf h

@[simp] theorem State.dp1_memWf {s : State} {st : Stall} {d a : Reg} {op : Nat → Nat} (h : s.MemWf) :
    (s.dp1 st d a op).MemWf := State.alu_memWf h

@[simp] theorem State.interlockV_memWf {s : State} {st : Stall} {d : Reg} {u : Uses}
    {r : State → Nat → LaneRes} (h : s.MemWf) : (s.interlockV st d u r).MemWf := by
  refine State.gate_memWf h fun t ht => ?_
  simp only
  split <;> simp [State.MemWf, ht]

/-! #### Writes of memory, page states and fault records -/

@[simp] theorem State.retag_mem (s : State) (u : Nat) : (s.retag u).mem = s.mem := by
  rfl

@[simp] theorem State.wr_memWf {s : State} {a : Nat} {bs : List Byte} (h : s.MemWf) : (s.wr a bs).MemWf := by
  unfold State.wr
  split <;> exact swf_putBytes a bs h

@[simp] theorem State.wrRun_memWf {s : State} {a : Nat} {bs : List Byte} (h : s.MemWf) : (s.wrRun a bs).MemWf := by
  have hm : State.MemWf { s with mem := putRun s.mem a bs } := swf_putRun a bs h
  unfold State.wrRun
  split
  · exact h
  · refine State.foldl_memWf hm (fun t x ht => ?_) _
    split <;> simp [State.MemWf, ht]

@[simp] theorem State.wrN_memWf {s : State} {a v n : Nat} (h : s.MemWf) : (s.wrN a v n).MemWf :=
  State.wr_memWf h

@[simp] theorem State.onWaves_mem (s : State) (f : Wave → Wave) : (s.onWaves f).mem = s.mem := by
  rfl

@[simp] theorem State.onCores_mem (s : State) (f : Core → Core) : (s.onCores f).mem = s.mem := by
  rfl

@[simp] theorem State.noteUnits_mem (s : State) (ctx : Nat) (ps : List Nat) :
    (s.noteUnits ctx ps).mem = s.mem := by
  rfl

@[simp] theorem State.markBad_mem (s : State) (p : Nat) : (s.markBad p).mem = s.mem := by
  rfl

@[simp] theorem State.noteDead_mem (s : State) (ps : List Nat) : (s.noteDead ps).mem = s.mem := by
  unfold State.noteDead
  split <;> simp

@[simp] theorem State.freeCellar_mem (s : State) : s.freeCellar.mem = s.mem := by
  rfl

@[simp] theorem State.flushPage_mem (s : State) (ctx page : Nat) : (s.flushPage ctx page).mem = s.mem := by
  rfl

@[simp] theorem State.reserve_mem (s : State) (ctx va : Nat) : (s.reserve ctx va).mem = s.mem := by
  unfold State.reserve
  repeat' split
  all_goals simp

@[simp] theorem State.install_mem (s : State) (ctx va : Nat) : (s.install ctx va).mem = s.mem := by
  unfold State.install
  repeat' split
  all_goals simp

@[simp] theorem State.noteRetry_mem (s : State) (ctx va : Nat) : (s.noteRetry ctx va).mem = s.mem := by
  unfold State.noteRetry
  split <;> simp

@[simp] theorem State.tidyMarks_mem (s : State) : s.tidyMarks.mem = s.mem := by
  rfl

@[simp] theorem State.setPage_mem (s : State) (ctx page : Nat) (p : PageState) :
    (s.setPage ctx page p).mem = s.mem := by
  rfl

@[simp] theorem State.clearPage_mem (s : State) (ctx page : Nat) : (s.clearPage ctx page).mem = s.mem := by
  rfl

@[simp] theorem State.onWait_mem (s : State) (d idx : Nat) (f : WtEntry → WtEntry) :
    (s.onWait d idx f).mem = s.mem := by
  rfl

@[simp] theorem State.freeWait_mem (s : State) (d idx : Nat) : (s.freeWait d idx).mem = s.mem := by
  rfl

@[simp] theorem State.settleWait_mem (s : State) (d idx : Nat) : (s.settleWait d idx).mem = s.mem := by
  rfl

@[simp] theorem State.interest_mem (s : State) (die ctx page : Nat) : (s.interest die ctx page).1.mem = s.mem := by
  unfold State.interest
  split
  · simp
  · simp only
    split <;> simp

@[simp] theorem State.postGo_memWf {s : State} {d n : Nat} (h : s.MemWf) : (s.postGo d n).MemWf := by
  induction n generalizing s with
  | zero => exact h
  | succ n ih =>
    unfold State.postGo
    simp only
    split
    · exact h
    · split
      · split
        · simp [State.MemWf, h]
        · exact ih (by simp [State.MemWf, h])
      · exact h

@[simp] theorem State.postSteward_memWf {s : State} {d : Nat} {r : FaultRecord} (h : s.MemWf) :
    (s.postSteward d r).MemWf := State.postGo_memWf h

@[simp] theorem State.postFor_memWf {s : State} {d ctx : Nat} {tok : Word} {r : FaultRecord} (h : s.MemWf) :
    (s.postFor d ctx tok r).MemWf := by
  simp only [State.postFor]
  split <;> simp [State.MemWf, h]

theorem State.withMgmt_memWf {s : State} (h : s.MemWf) (m : Mgmt) : State.MemWf { s with mgmt := m } := h

@[simp] theorem State.postEvent_memWf {s : State} {kind ctx payload : Nat} (h : s.MemWf) :
    (s.postEvent kind ctx payload).MemWf :=
  State.ite_memWf (State.withMgmt_memWf (State.wr_memWf h) _) (State.withMgmt_memWf h _)

@[simp] theorem State.unresolved_memWf {s : State} {r : FaultRecord} {seq : Nat} (h : s.MemWf) :
    (s.unresolved r seq).MemWf := State.postEvent_memWf h

@[simp] theorem State.unitEvent_memWf {s : State} {kind ctx p : Nat} (h : s.MemWf) :
    (s.unitEvent kind ctx p).MemWf := State.postEvent_memWf h

@[simp] theorem State.walkMet_mem (s : State) (i : TrapInfo) (ctx page : Nat) :
    (s.walkMet i ctx page).mem = s.mem := by
  unfold State.walkMet
  split <;> simp

@[simp] theorem State.stewardFault_memWf {s : State} {i : TrapInfo} {lane page : Nat} (h : s.MemWf) :
    (s.stewardFault i lane page).MemWf := by
  simp only [State.stewardFault]
  split <;> simp [State.MemWf, h]

/-! #### Vat contents and the wake of waiters -/

@[simp] theorem State.onAllWaves_mem (s : State) (f : Wave → Wave) : (s.onAllWaves f).mem = s.mem := by
  rfl

@[simp] theorem State.markWaited_mem (s : State) (gid off wid ph : Nat) :
    (s.markWaited gid off wid ph).mem = s.mem := by
  rfl

@[simp] theorem State.retest_mem (s : State) (gid off : Nat) (init : Bool) :
    (s.retest gid off init).mem = s.mem := by
  simp [State.retest]

@[simp] theorem State.barCheck_mem (s : State) (gid off : Nat) (own : Bool) :
    (s.barCheck gid off own).mem = s.mem := by
  simp only [State.barCheck]
  split <;> simp

@[simp] theorem State.barEvent_mem (s : State) (gid off : Nat) (f : Bar → Bar) (own : Bool) :
    (s.barEvent gid off f own).mem = s.mem := by
  simp [State.barEvent]

@[simp] theorem State.breakBar_mem (s : State) (gid off : Nat) (peer : Bool) (own : Bool) :
    (s.breakBar gid off peer own).mem = s.mem := by
  simp [State.breakBar]

@[simp] theorem State.retestBytes_mem (s : State) (gid off n : Nat) :
    (s.retestBytes gid off n).mem = s.mem := by
  simp [State.retestBytes]

@[simp] theorem State.vatWrite_mem (s : State) (gid off : Nat) (bs : List Byte) (own : Bool) :
    (s.vatWrite gid off bs own).mem = s.mem := by
  simp [State.vatWrite]

@[simp] theorem State.fillGranule_mem (s : State) (gid : Nat) (x : Nat × Nat) :
    (s.fillGranule gid x).mem = s.mem := by
  simp only [State.fillGranule]
  split <;> simp

@[simp] theorem State.fillGranules_mem (s : State) (gid : Nat) (xs : List (Nat × Nat)) :
    (s.fillGranules gid xs).mem = s.mem := by
  simp [State.fillGranules]

@[simp] theorem State.wakeEntry_memWf {s : State} {d : Nat} {e : WtEntry} {ok : Bool} (h : s.MemWf) :
    (s.wakeEntry d e ok).MemWf := by
  have hf : (e.records.foldl (fun s r => s.unresolved r.1 r.2) s).MemWf :=
    State.foldl_memWf h (fun t r ht => by simp [State.MemWf, ht]) _
  cases ok with
  | false => simpa [State.wakeEntry, State.MemWf] using hf
  | true => simp [State.wakeEntry, State.MemWf, h]

@[simp] theorem State.giveToken_mem (s : State) (ctx : Nat) (tok : Word) (n : Nat) :
    (s.giveToken ctx tok n).mem = s.mem := by
  unfold State.giveToken
  split <;> simp

@[simp] theorem State.wakePage_memWf {s : State} {ctx page : Nat} {ok : Bool} (h : s.MemWf) :
    (s.wakePage ctx page ok).MemWf := by
  unfold State.wakePage
  split <;> simp [State.MemWf, h]

/-! #### Lost pages, fills and the checks of an access -/

@[simp] theorem State.dropPage_memWf {s : State} {ctx page : Nat} (h : s.MemWf) :
    (s.dropPage ctx page).MemWf := by
  unfold State.dropPage
  repeat' split
  all_goals simp [State.MemWf, h]

@[simp] theorem State.freeFrame_mem (s : State) (d frame : Nat) : (s.freeFrame d frame).mem = s.mem := by
  rfl

@[simp] theorem State.endMove_mem (s : State) (ctx page : Nat) : (s.endMove ctx page).mem = s.mem := by
  unfold State.endMove
  split <;> simp

@[simp] theorem State.settleLoss_memWf {s : State} {x : Loss} (h : s.MemWf) : (s.settleLoss x).MemWf := by
  unfold State.settleLoss
  split <;> simp [State.MemWf, h]

@[simp] theorem State.settleLosses_memWf {s : State} (h : s.MemWf) : s.settleLosses.MemWf := by
  refine State.foldl_memWf h (fun t x ht => ?_) _
  split
  · exact ht
  · exact State.settleLoss_memWf ht

@[simp] theorem State.pageLost_memWf {s : State} {ctx page : Nat} {i : TrapInfo} {r : FaultRecord} {d : Nat}
    (h : s.MemWf) : (s.pageLost ctx page i r d).MemWf := by
  simp [State.pageLost, State.MemWf, h]

@[simp] theorem State.unitLost_memWf {s : State} {ctx page p : Nat} {i : TrapInfo} {r : FaultRecord} {d : Nat}
    (h : s.MemWf) : (s.unitLost ctx page p i r d).MemWf := by
  simp [State.unitLost, State.MemWf, h]

@[simp] theorem State.integrityFail_memWf {s : State} {ctx page : Nat} {i : TrapInfo} {r : FaultRecord}
    {d : Nat} (h : s.MemWf) : (s.integrityFail ctx page i r d).MemWf := by
  unfold State.integrityFail
  split <;> simp [State.MemWf, h]

@[simp] theorem State.raise_memWf {s : State} {l : Nat} {f : Fail} (h : s.MemWf) : (s.raise l f).MemWf := by
  simp only [State.raise]
  repeat' split
  all_goals simp [State.MemWf, h]

theorem State.guardAll_memWf {s : State} {chk : Nat → Option Fail} {k : State → Out} (h : s.MemWf)
    (hk : ∀ t, t.MemWf → (k t).MemWf) : (s.guardAll chk k).MemWf := by
  unfold State.guardAll
  split
  · exact State.raise_memWf h
  · exact hk s h

@[simp] theorem State.recordStamps_mem (s : State) (all : List Touch) : (s.recordStamps all).mem = s.mem := by
  unfold State.recordStamps
  split
  · rfl
  · refine State.foldl_mem (fun s t => ?_) _ _
    split
    · rfl
    · simp only
      split <;> simp

@[simp] theorem State.homeOpen_mem (s : State) : s.homeOpen.mem = s.mem := by
  rfl

@[simp] theorem State.installAll_mem (s : State) (as : List Nat) : (s.installAll as).mem = s.mem := by
  simp [State.installAll]

@[simp] theorem State.readAll_mem (s : State) (as : List Nat) : (s.readAll as).mem = s.mem := by
  simp [State.readAll]

@[simp] theorem State.fillAll_mem (s : State) (gid : Nat) (all : List Touch) :
    (s.fillAll gid all).mem = s.mem := by
  simp [State.fillAll]

theorem State.withFills_memWf {s : State} {gid : Nat} {all : List Touch} {k : State → Out} (h : s.MemWf)
    (hk : ∀ t, t.MemWf → (k t).MemWf) : (s.withFills gid all k).MemWf :=
  Out.ite_memWf (State.hold_memWf h) (hk _ (h.of_mem_eq (by simp)))

@[simp] theorem State.engFillAll_mem (s : State) (xs : List (Nat × Nat × Nat)) :
    (s.engFillAll xs).mem = s.mem := by
  simp [State.engFillAll]

theorem State.withEngFills_memWf {s : State} {xs : List (Nat × Nat × Nat)} {k : State → Out} (h : s.MemWf)
    (hk : ∀ t, t.MemWf → (k t).MemWf) : (s.withEngFills xs k).MemWf :=
  Out.ite_memWf (State.hold_memWf h) (hk _ (h.of_mem_eq (State.engFillAll_mem ..)))

theorem State.issueOp_memWf {s : State} {st : Stall} {o : MemOp} {all : List Touch} (h : s.MemWf) :
    (s.issueOp st o all).MemWf := by
  unfold State.issueOp
  extract_lets go
  have hgo (t : State) (ht : t.MemWf) : (go t).MemWf := by
    have hr := ht.of_mem_eq (State.recordStamps_mem t all)
    exact State.ite_memWf (a := State.onCore _ _) hr hr
  split
  · refine hgo _ (State.ite_memWf ?_ ?_)
    · exact h.of_mem_eq (State.readAll_mem ..)
    · exact h.of_mem_eq (State.installAll_mem ..)
  · exact State.withFills_memWf h hgo

theorem State.memWord_memWf {s : State} {st : Stall} {u : Uses} {ctr : Nat} {k : State → Out}
    (h : s.MemWf) (hk : ∀ t, t.MemWf → (k t).MemWf) : (s.memWord st u ctr k).MemWf :=
  State.gateOpen_memWf h fun _ ht => Out.ite_memWf ht (State.withCtr_memWf ht hk)

/-! #### Issue of memory words -/

theorem State.globalWord_memWf {s : State} {st : Stall} {u : Uses} {g : GlobalUse}
    {pre : State → Nat → Option Fail} {use : State → Nat → LaneUse} (h : s.MemWf) :
    (s.globalWord st u g pre use).MemWf :=
  State.memWord_memWf h fun _ ht => State.guardAll_memWf ht fun _ ht => State.issueOp_memWf ht

@[simp] theorem State.loadC_memWf {s : State} {st : Stall} {g : GlobalUse} {d : Reg} {c : Num4} {x : Index}
    {wp : List Nat} (h : s.MemWf) : (s.loadC st g d c x wp).MemWf := State.globalWord_memWf h

@[simp] theorem State.storeC_memWf {s : State} {st : Stall} {g : GlobalUse} {d : Reg} {c : Num4} {x : Index}
    (h : s.MemWf) : (s.storeC st g d c x).MemWf := State.globalWord_memWf h

@[simp] theorem State.gather_memWf {s : State} {st : Stall} {t : LdType} {sc : Scope} {d : Reg} {q : Num4}
    {x : Index} {k : MCtr} (h : s.MemWf) : (s.gather st t sc d q x k).MemWf := State.globalWord_memWf h

@[simp] theorem State.scatter_memWf {s : State} {st : Stall} {w : Nat} {sc : Scope} {d : Reg} {q : Num4}
    {x : Index} {k : MCtr} (h : s.MemWf) : (s.scatter st w sc d q x k).MemWf := State.globalWord_memWf h

theorem State.vatWord_memWf {s : State} {st : Stall} {u : Uses} {g : VatUse} {v : VatTarget}
    {lanes : State → List Nat} {off : State → Nat → Nat} {req : State → Nat → LaneReq} (h : s.MemWf) :
    (s.vatWord st u g v lanes off req).MemWf :=
  State.memWord_memWf h fun _ ht => State.guardAll_memWf ht fun _ ht => State.issueOp_memWf ht

@[simp] theorem State.vatLoad_memWf {s : State} {st : Stall} {kind : MemKind} {w : Nat} {d : Reg}
    {v : VatTarget} {x : Index} {k : MCtr} (h : s.MemWf) : (s.vatLoad st kind w d v x k).MemWf :=
  State.vatWord_memWf h

@[simp] theorem State.vatStore_memWf {s : State} {st : Stall} {w : Nat} {d : Reg} {v : VatTarget} {x : Index}
    {k : MCtr} (h : s.MemWf) : (s.vatStore st w d v x k).MemWf := State.vatWord_memWf h

theorem State.atomic_memWf {s : State} {st : Stall} {t : AtomType} {o : AtomOp} {ret : Bool} {sc : Scope}
    {d4 : Num4} {c : BitVec 3} {pair : BitVec 5} {k : MCtr} (h : s.MemWf) :
    (s.atomic st t o ret sc d4 c pair k).MemWf :=
  State.memWord_memWf h fun _ ht => Out.ite_memWf (State.globalWord_memWf ht) <|
    State.guardAll_memWf ht fun _ ht => State.issueOp_memWf ht

theorem State.fenceWord_memWf {s : State} {st : Stall} {f : Core → Core} (h : s.MemWf) :
    (s.fenceWord st f).MemWf :=
  State.gate_memWf h fun _ ht => Out.ite_memWf ht (Out.ite_memWf ht ht)

theorem execVmap_memWf {st : Stall} {sc : Scope} {d : Reg} {c : Num4} {pair : BitVec 5} {k : MCtr}
    {s : State} (h : s.MemWf) : (execVmap st sc d c pair k s).MemWf := by
  refine State.memWord_memWf h fun t ht => ?_
  simp only
  split
  · exact State.raise_memWf ht
  · exact Out.ite_memWf ht ht

@[simp] theorem State.syncWord_memWf {s : State} {st : Stall} {sc : Scope} {d : Reg} {k : MCtr} {drop : Bool}
    (h : s.MemWf) : (s.syncWord st sc d k drop).MemWf := by
  refine State.memWord_memWf h fun t ht => ?_
  simp only
  repeat' split
  all_goals simp [State.MemWf, ht]

@[simp] theorem State.lowerInterest_mem (s : State) (tok : Word) : (s.lowerInterest tok).mem = s.mem := by
  unfold State.lowerInterest
  split <;> simp

@[simp] theorem State.waitLane_mem (s : State) (tok : Word) (l : Nat) : (s.waitLane tok l).mem = s.mem := by
  unfold State.waitLane
  repeat' split
  all_goals simp

theorem execPwait_memWf {st : Stall} {d : Reg} {s : State} (h : s.MemWf) : (execPwait st d s).MemWf :=
  State.gate_memWf h fun _ ht =>
    Out.ite_memWf ht (ht.of_mem_eq (State.foldl_mem (fun _ _ => State.waitLane_mem ..) _ _))

theorem execPcancel_memWf {st : Stall} {d : Reg} {k : MCtr} {s : State} (h : s.MemWf) :
    (execPcancel st d k s).MemWf :=
  State.memWord_memWf h fun _ ht => State.guardAll_memWf ht fun _ ht => ht

/-! #### A context's own memory and its queues' records -/

@[simp] theorem State.ctxMet_mem (s : State) (ctx va : Nat) : (s.ctxMet ctx va).mem = s.mem := by
  simp [State.ctxMet]

@[simp] theorem State.ctxWr_memWf {s : State} {ctx va v n : Nat} (h : s.MemWf) :
    (s.ctxWr ctx va v n).MemWf := by
  unfold State.ctxWr
  split <;> simp [State.MemWf, h]

@[simp] theorem State.queueRecord_memWf {s : State} {x : Launch} {r : FaultRecord} (h : s.MemWf) :
    (s.queueRecord x r).MemWf := by
  simp only [State.queueRecord]
  repeat' split
  all_goals simp [State.MemWf, h]

@[simp] theorem State.postError_memWf {s : State} {launch : Nat} {r : FaultRecord} (h : s.MemWf) :
    (s.postError launch r).MemWf := by
  unfold State.postError
  repeat' split
  all_goals simp [State.MemWf, h]

@[simp] theorem State.refuseLane_memWf {s : State} {o : MemOp} {code : Nat} {q : LaneReq} (h : s.MemWf) :
    (s.refuseLane o code q).MemWf := State.postError_memWf h

/-! #### Pools of the key-value store -/

@[simp] theorem State.onPool_mem (s : State) (ctx num : Nat) (f : Pool → Pool) :
    (s.onPool ctx num f).mem = s.mem := by
  rfl

@[simp] theorem State.blockMet_mem (s : State) (ctx p tier k : Nat) :
    (s.blockMet ctx p tier k).mem = s.mem := by
  simp [State.blockMet]

theorem State.kvAllocLane_memWf {s : State} {ctx p t : Nat} (h : s.MemWf) : (s.kvAllocLane ctx p t).1.MemWf := by
  simp only [State.kvAllocLane]
  split
  · exact h
  · split
    · exact h.of_mem_eq (State.blockMet_mem ..)
    · exact State.wrN_memWf (State.wrN_memWf (State.wrN_memWf h))

@[simp] theorem State.kvLow_mem (s : State) (ctx p num : Nat) : (s.kvLow ctx p num).mem = s.mem := by
  simp only [State.kvLow]
  split <;> simp

@[simp] theorem State.setMark_memWf {s : State} {a : Nat} {m : Bool} (h : s.MemWf) :
    (s.setMark a m).MemWf := by
  simp only [State.setMark]
  split <;> simp [State.MemWf, h]

@[simp] theorem State.markEntry_memWf {s : State} {ctx p pool e : Nat} (h : s.MemWf) :
    (s.markEntry ctx p pool e).MemWf := by
  unfold State.markEntry
  repeat' split
  all_goals simp [State.MemWf, h]

@[simp] theorem State.markLogged_memWf {s : State} {ctx p pool i : Nat} (h : s.MemWf) :
    (s.markLogged ctx p pool i).MemWf := by
  unfold State.markLogged
  split <;> simp [State.MemWf, h]

@[simp] theorem State.makeRoom_memWf {s : State} {ctx v p : Nat} {x : Pool} (h : s.MemWf) :
    (s.makeRoom ctx v p x).MemWf := by
  unfold State.makeRoom
  split <;> simp [State.MemWf, h]

@[simp] theorem State.logAppend_memWf {s : State} {ctx v : Nat} (h : s.MemWf) : (s.logAppend ctx v).MemWf := by
  simp only [State.logAppend]
  split
  · exact h
  · split
    · exact h.of_mem_eq (State.ctxMet_mem ..)
    · exact State.wrN_memWf (State.ctxWr_memWf (State.makeRoom_memWf h))

/-! #### Performance and completion of accesses -/

@[simp] theorem State.noteVat_mem (s : State) (gid off n : Nat) : (s.noteVat gid off n).mem = s.mem := by
  unfold State.noteVat
  split <;> simp

@[simp] theorem State.accessWr_memWf {s : State} {o : MemOp} {p : Nat} {bs : List Byte} (h : s.MemWf) :
    (s.accessWr o p bs).MemWf := by
  unfold State.accessWr
  split <;> simp [State.MemWf, h]

@[simp] theorem State.land_mem (s : State) (o : MemOp) (q : LaneReq) (vs : List Word) :
    (s.land o q vs).mem = s.mem := by
  rfl

@[simp] theorem State.preqPage_mem (s : State) (page : Nat) : (s.preqPage page).1.mem = s.mem := by
  unfold State.preqPage
  split <;> simp

@[simp] theorem State.queuePromo_mem (s : State) (page : Nat) : (s.queuePromo page).mem = s.mem := by
  rfl

@[simp] theorem State.promoPage_mem (s : State) (page : Nat) : (s.promoPage page).1.mem = s.mem := by
  unfold State.promoPage
  simp only
  repeat' split
  all_goals simp

@[simp] theorem State.cancelMove_memWf {s : State} {ctx page : Nat} (h : s.MemWf) :
    (s.cancelMove ctx page).MemWf := by
  simp only [State.cancelMove]
  repeat' split
  all_goals simp [State.MemWf, h]

@[simp] theorem State.cancelToken_memWf {s : State} {tok : Word} (h : s.MemWf) :
    (s.cancelToken tok).MemWf := by
  unfold State.cancelToken
  repeat' split
  all_goals simp [State.MemWf, h]

@[simp] theorem State.cleanBack_mem (s : State) (gid off virt n : Nat) :
    (s.cleanBack gid off virt n).mem = s.mem := by
  rfl

@[simp] theorem State.writeBack_memWf {s : State} {gid off virt n p : Nat} (h : s.MemWf) :
    (s.writeBack gid off virt n p).MemWf := by
  unfold State.writeBack
  split
  · exact h
  · simp only [State.MemWf, State.cleanBack_mem]
    exact State.foldl_memWf h (fun t a ht => State.wr_memWf ht) _

/-- What a KVSET does with an entry that it overwrites or writes: the pool's log may take it (22 R416). -/
theorem State.logIf_memWf {s : State} (h : s.MemWf) (b : Bool) (ctx v : Nat) :
    (if b then s.logAppend ctx v else s).MemWf :=
  State.ite_memWf (State.logAppend_memWf h) h

@[simp] theorem State.performReq_memWf {s : State} {o : MemOp} {q : LaneReq} (h : s.MemWf) :
    (s.performReq o q).MemWf := by
  cases hk : o.kind <;> simp only [State.performReq, hk]
  case kvalloc => simp [State.MemWf, State.kvAllocLane_memWf h]
  case kvset =>
    have hw : (s.wrN q.phys q.data.toNat 8).MemWf := State.wrN_memWf h
    exact State.logIf_memWf (State.logIf_memWf hw _ _ _) _ _ _
  case pcancel => exact State.cancelToken_memWf h
  all_goals (repeat' split) <;> simp [State.MemWf, h]

@[simp] theorem State.performAtom_memWf {s : State} {o : MemOp} {t : AtomType} {op : AtomOp} {ret : Bool}
    (h : s.MemWf) : (s.performAtom o t op ret).MemWf := by
  refine State.foldl_memWf h (fun s p hs => ?_) _
  simp only
  split <;> simp [State.MemWf, hs]

@[simp] theorem State.performBarrier_mem (s : State) (o : MemOp) : (s.performBarrier o).mem = s.mem := by
  simp only [State.performBarrier]
  repeat' split
  all_goals simp

@[simp] theorem State.unbind_mem (s : State) (o : MemOp) (off : Nat) (drop : Bool) :
    (s.unbind o off drop).mem = s.mem := by
  unfold State.unbind
  repeat' split
  all_goals simp

@[simp] theorem State.refusedAll_mem (s : State) (o : MemOp) : (s.refusedAll o).mem = s.mem := by
  unfold State.refusedAll
  split <;> simp

@[simp] theorem State.performOp_memWf {s : State} {o : MemOp} (h : s.MemWf) : (s.performOp o).MemWf := by
  have hr : (o.reqs.foldl (fun s q => s.performReq o q) s).MemWf :=
    State.foldl_memWf h (fun t q ht => State.performReq_memWf ht) _
  unfold State.performOp
  split <;> simp [State.MemWf, h, hr]

@[simp] theorem State.fillFor_mem (s : State) (o : MemOp) : (s.fillFor o).mem = s.mem := by
  unfold State.fillFor
  split
  · rfl
  · split
    · rfl
    · exact State.foldl_mem (fun _ _ => State.fillGranules_mem ..) _ _

@[simp] theorem State.unitMet_memWf {s : State} {o : MemOp} {code : Nat} {q : LaneReq} {p : Nat}
    (h : s.MemWf) : (s.unitMet o code q p).MemWf := by
  unfold State.unitMet
  split <;> simp [State.MemWf, h]

@[simp] theorem State.cleanRefused_mem (s : State) (o : MemOp) (q : LaneReq) :
    (s.cleanRefused o q).mem = s.mem := by
  unfold State.cleanRefused
  split <;> simp

@[simp] theorem State.refuseReqs_memWf {s : State} {o : MemOp} {why : LaneReq → Option Nat} (h : s.MemWf) :
    (s.refuseReqs o why).MemWf := by
  refine State.foldl_memWf h (fun t q ht => ?_) _
  split <;> simp [State.MemWf, ht]

@[simp] theorem State.complete_memWf {s : State} {k : Nat} (h : s.MemWf) : (s.complete k).MemWf := by
  unfold State.complete
  split
  · exact h
  · simp only
    split
    · exact h
    · split <;> simp [State.MemWf, h]

@[simp] theorem State.standBack_mem (s : State) : s.standBack.mem = s.mem := by
  unfold State.standBack
  repeat' split
  all_goals simp

theorem State.atSaved_memWf {s : State} {x : SavedOp} {f : State → State} (h : s.MemWf)
    (hf : ∀ t, t.MemWf → (f t).MemWf) : (s.atSaved x f).MemWf := by
  unfold State.atSaved
  split
  · exact h
  · next i w _ =>
    have ht : (f (s.standIn i w)).MemWf := hf _ h
    exact ht.of_mem_eq (State.standBack_mem _)

theorem State.atAccess_memWf {s : State} {k : Nat} {f : State → Nat → State} (h : s.MemWf)
    (hf : ∀ t i, t.MemWf → (f t i).MemWf) : (s.atAccess k f).MemWf := by
  refine State.ite_memWf (hf s k h) ?_
  split
  · exact h
  · exact State.atSaved_memWf h fun t ht => hf t _ ht

theorem execAccessComplete_memWf {k : Nat} {s : State} (h : s.MemWf) : (execAccessComplete k s).MemWf :=
  State.atAccess_memWf h fun _ _ ht => State.complete_memWf ht

@[simp] theorem State.refuseHome_memWf {s : State} {why : RefusalKind} {k : Nat} (h : s.MemWf) :
    (s.refuseHome why k).MemWf := by
  simp only [State.refuseHome]
  repeat' split
  all_goals simp [State.MemWf, h]

theorem execInterlockResult_memWf {k : Nat} {s : State} (h : s.MemWf) : (execInterlockResult k s).MemWf := by
  unfold execInterlockResult
  split <;> simp [State.MemWf, h]

/-! #### Barrier words -/

theorem State.barWord_memWf {s : State} {st : Stall} {u : Uses} {v : VatTarget} {x : Index} {k : MCtr}
    {post : State → Option Fail} {note : State → State → State} {op : State → MemOp} {req : State → Nat → LaneReq}
    (h : s.MemWf) (hn : ∀ a t, t.MemWf → (note a t).MemWf) : (s.barWord st u v x k post note op req).MemWf :=
  State.memWord_memWf h fun _ ht => State.guardAll_memWf ht fun _ ht =>
    State.withFills_memWf ht fun _ ht => hn _ _ ht

theorem execBwait_memWf {st : Stall} {sc : Scope} {d : Reg} {v : VatTarget} {x : Index} {s : State}
    (h : s.MemWf) : (execBwait st sc d v x s).MemWf := by
  refine State.gateOpen_memWf h fun _ ht => Out.ite_memWf ht <| State.guardAll_memWf ht fun _ ht =>
    Out.ite_memWf ht <| State.withFills_memWf ht fun t ht => ?_
  have hb (gid off : Nat) (own : Bool) : (t.barCheck gid off own).MemWf := ht.of_mem_eq (State.barCheck_mem ..)
  simp only
  split
  · exact State.retire_memWf (by simp [State.MemWf, ht])
  · exact hb _ _ _
  · exact State.trapHere_memWf (hb _ _ _)
  · exact Out.ite_memWf ht (hb _ _ _)

/-! #### Tensor descriptors and block words -/

@[simp] theorem State.tdtNote_mem (s : State) (ctx id : Nat) : (s.tdtNote ctx id).mem = s.mem := by
  unfold State.tdtNote
  split <;> simp

@[simp] theorem State.compNote_mem (s : State) (ctx id : Nat) : (s.compNote ctx id).mem = s.mem := by
  unfold State.compNote
  split <;> simp

@[simp] theorem State.blockWord_memWf {s : State} {st : Stall} {d a b : Reg}
    {op : Nat → Option (BitVec 512) → Word → Rounded} (h : s.MemWf) : (s.blockWord st d a b op).MemWf := by
  refine State.gate_memWf h fun t ht => ?_
  simp only
  repeat' split
  all_goals simp [State.MemWf, ht]

/-! #### Reports and fills of the engines -/

@[simp] theorem State.onWid_mem (s : State) (wid : Nat) (f : Wave → Wave) : (s.onWid wid f).mem = s.mem := by
  unfold State.onWid
  split <;> simp

@[simp] theorem State.engWrite_mem (s : State) (gid off : Nat) (bs : List Byte) (wid : Nat) :
    (s.engWrite gid off bs wid).mem = s.mem := by
  unfold State.engWrite
  split <;> simp

@[simp] theorem State.landEng_mem (s : State) (wid stamp ctr : Nat) (xs : List (RegFile × Nat × Nat × Word)) :
    (s.landEng wid stamp ctr xs).mem = s.mem := by
  simp [State.landEng]

@[simp] theorem State.doneEng_mem (s : State) (wid : Nat) (ctr : Option Nat) :
    (s.doneEng wid ctr).mem = s.mem := by
  unfold State.doneEng
  split <;> simp

@[simp] theorem State.followDone_mem (s : State) (f : Option (Nat × Nat)) : (s.followDone f).mem = s.mem := by
  unfold State.followDone
  split <;> simp

@[simp] theorem State.failWid_mem (s : State) (wid : Nat) (r : FaultRecord) :
    (s.failWid wid r).mem = s.mem := by
  simp [State.failWid]

@[simp] theorem State.engReport_memWf {s : State} {c : ArrayCmd} {i : TrapInfo} (h : s.MemWf) :
    (s.engReport c i).MemWf := by
  simp only [State.engReport]
  repeat' split
  all_goals simp [State.MemWf, h]

@[simp] theorem State.engRefuse_memWf {s : State} {c : ArrayCmd} {code addr w : Nat} (h : s.MemWf) :
    (s.engRefuse c code addr w).MemWf := State.engReport_memWf h

theorem State.fillRanges_mem {s t : State} {c : ArrayCmd} {gid : Nat} {xs : List (Nat × Nat)}
    (e : s.fillRanges c gid xs = .ok t) : t.mem = s.mem := by
  induction xs generalizing s with
  | nil => simp_all [State.fillRanges]
  | cons x xs ih =>
    simp only [State.fillRanges] at e
    split at e
    · exact ih e
    · split at e
      · cases e
      · split at e
        · cases e
        · simpa using ih e

@[simp] theorem State.fillFail_memWf {s : State} {c : ArrayCmd} {i : TrapInfo} (h : s.MemWf) :
    (s.fillFail c i).MemWf := by
  unfold State.fillFail
  split <;> simp [State.MemWf, h]

@[simp] theorem State.setToken_mem (s : State) (tok : Option Word) (why : TrapInfo) :
    (s.setToken tok why).mem = s.mem := by
  rfl

@[simp] theorem State.fillPark_memWf {s : State} {c : ArrayCmd} {ctx page : Nat} {i : TrapInfo} {post : Bool}
    (h : s.MemWf) : (s.fillPark c ctx page i post).MemWf := by
  simp only [State.fillPark]
  repeat' split
  all_goals simp [State.MemWf, h]

@[simp] theorem State.fillAnswer_memWf {s : State} {c : ArrayCmd} {ctx : Nat} {tok : Word} (h : s.MemWf) :
    (s.fillAnswer c ctx tok).MemWf := by
  unfold State.fillAnswer
  repeat' split
  all_goals simp [State.MemWf, h]

@[simp] theorem State.fillWait_memWf {s : State} {c : ArrayCmd} {ctx : Nat} {f : Option Fail} (h : s.MemWf) :
    (s.fillWait c ctx f).MemWf := by
  simp only [State.fillWait]
  repeat' split
  all_goals simp [State.MemWf, h]

/-! #### Issue of array words -/

@[simp] theorem State.noteCap_mem (s : State) (cw : Nat) : (s.noteCap cw).mem = s.mem := by
  simp only [State.noteCap]
  split <;> simp

@[simp] theorem State.enqueue_mem (s : State) (x : ArrayUse) (ctr : Option Nat) :
    (s.enqueue x ctr).mem = s.mem := by
  rfl

theorem State.arrayWord_memWf {s : State} {st : Stall} {u : Uses} {ctr : Nat}
    {chk : State → Except Fail ArrayUse} {pre : State → List (Nat × Nat)} (h : s.MemWf) :
    (s.arrayWord st u ctr chk pre).MemWf := by
  refine State.gate_memWf h fun _ ht => Out.ite_memWf ht <| State.withCtr_memWf ht fun t ht =>
    Out.ite_memWf ht <| State.withEngFills_memWf ht fun t' ht' => ?_
  split
  · exact State.raise_memWf ht
  · simp only
    split <;> simp [State.MemWf, ht']

theorem execLdstatSp_memWf {st : Stall} {a4 j : Num4} {e : Bool} {s : State} (h : s.MemWf) :
    (execLdstatSp st a4 j e s).MemWf :=
  State.gate_memWf h fun _ ht => Out.ite_memWf ht (State.arrayWord_memWf ht)

theorem execSwap_memWf {st : Stall} {s : State} (h : s.MemWf) : (execSwap st s).MemWf :=
  State.gate_memWf h fun _ ht => Out.ite_memWf ht (Out.ite_memWf ht ht)

theorem execMld_memWf {st : Stall} {j c : Num4} {pair : BitVec 5} {k : MCtr} {s : State} (h : s.MemWf) :
    (execMld st j c pair k s).MemWf := by
  refine State.gateOpen_memWf h fun _ ht => Out.ite_memWf ht <| State.withCtr_memWf ht fun t ht =>
    Out.ite_memWf ht ?_
  split
  · exact State.raise_memWf ht
  · exact ht.of_mem_eq (State.readAll_mem ..)

/-! #### Commands of the array engine -/

@[simp] theorem State.onMat_mem (s : State) (f : Matrix → Matrix) : (s.onMat f).mem = s.mem := by
  rfl

theorem State.mmaChunk_mem {s t : State} {c : ArrayCmd} {gid k : Nat} {addr ctl : Word} {tile v : Nat}
    {tdt : BitVec 512} {comp : Option (BitVec 512)} {woff slay : Nat}
    (e : s.mmaChunk c gid k addr ctl tile v tdt comp woff slay = .ok t) : t.mem = s.mem := by
  simp only [State.mmaChunk] at e
  split at e
  · cases e
  · next s1 h1 =>
    split at e
    · cases e
    · next s2 h2 =>
      cases e
      exact (State.fillRanges_mem h2).trans (State.fillRanges_mem h1)

theorem State.mmarChunk_mem {s t : State} {c : ArrayCmd} {gid k : Nat} {addr ctl : Word} {tile : Nat}
    {hdrs : List DWord} (e : s.mmarChunk c gid k addr ctl tile hdrs = .ok t) : t.mem = s.mem := by
  simp only [State.mmarChunk] at e
  split at e
  · cases e
  · next s1 e1 =>
    cases e
    exact (State.onMat_mem s1 _).trans (State.fillRanges_mem e1)

theorem State.runRank_mem {s t : State} {c : ArrayCmd} {gid : Nat} {ctl addr scale : Word} {src dst : Nat}
    (e : s.runRank c gid ctl addr scale src dst = .ok t) : t.mem = s.mem := by
  simp only [State.runRank] at e
  split at e
  · cases e
  · next e1 =>
    cases e
    rw [State.landEng_mem, ← State.fillRanges_mem e1]
    split
    · exact State.engWrite_mem ..
    · rfl

theorem State.runUnrank_mem {s t : State} {c : ArrayCmd} {gid : Nat} {addr : Word} {dst : Nat} {h : DWord}
    (e : s.runUnrank c gid addr dst h = .ok t) : t.mem = s.mem := by
  simp only [State.runUnrank] at e
  split at e
  · cases e
  · next h1 =>
    cases e
    simpa using State.fillRanges_mem h1

theorem State.runLsum_mem {s t : State} {c : ArrayCmd} {gid : Nat} {q : Quad}
    (e : s.runLsum c gid q = .ok t) : t.mem = s.mem := by
  simp only [State.runLsum] at e
  split at e
  · cases e
  · next s1 e1 =>
    cases e
    exact (State.foldl_mem (fun _ _ => State.engWrite_mem ..) _ _).trans (State.fillRanges_mem e1)

theorem State.runLtest_mem {s t : State} {c : ArrayCmd} {gid : Nat} {row col : Word} {p slot : Nat}
    (e : s.runLtest c gid row col p slot = .ok t) : t.mem = s.mem := by
  simp only [State.runLtest] at e
  split at e
  · cases e
  · next h1 =>
    cases e
    simpa using State.fillRanges_mem h1

theorem State.runAttld_mem {s t : State} {c : ArrayCmd} {gid : Nat} {addr : Word} {n : Nat}
    (e : s.runAttld c gid addr n = .ok t) : t.mem = s.mem := by
  simp only [State.runAttld] at e
  split at e
  · cases e
  · next h1 =>
    cases e
    simpa using State.fillRanges_mem h1

@[simp] theorem State.mldLost_memWf {s : State} {c : ArrayCmd} {ctx code virt p : Nat} (h : s.MemWf) :
    (s.mldLost c ctx code virt p).MemWf := by
  unfold State.mldLost
  split <;> simp [State.MemWf, h]

theorem State.runMld_memWf {s t : State} {c : ArrayCmd} {j : Nat} {sp : Space} {as : List Nat} {virt : Nat}
    (h : s.MemWf) (e : s.runMld c j sp as virt = .ok t) : t.MemWf := by
  simp only [State.runMld] at e
  split at e
  · split at e <;> cases e <;> simp [State.MemWf, h]
  · split at e
    · cases e
    · next h1 =>
      cases e
      simpa [State.MemWf, State.fillRanges_mem h1] using h

theorem State.runFront_memWf {s t : State} {c : ArrayCmd} (h : s.MemWf) (e : s.runFront c = .ok t) : t.MemWf := by
  simp only [State.runFront] at e
  split at e
  · cases e
  · split at e
    · split at e
      · cases e
      · next s1 e1 =>
        cases e
        exact h.of_mem_eq ((State.onMat_mem s1 _).trans (State.fillRanges_mem e1))
    case h_2 | h_8 | h_9 => cases e; exact h
    case h_3 => exact h.of_mem_eq (State.mmaChunk_mem e)
    case h_4 => exact h.of_mem_eq (State.mmarChunk_mem e)
    case h_5 => exact h.of_mem_eq (State.runRank_mem e)
    case h_6 => exact h.of_mem_eq (State.runUnrank_mem e)
    case h_7 => exact h.of_mem_eq (State.runAttld_mem e)
    case h_10 => exact h.of_mem_eq (State.runLsum_mem e)
    case h_11 => exact h.of_mem_eq (State.runLtest_mem e)
    case h_12 => exact State.runMld_memWf h e

@[simp] theorem State.arrayDone_mem (s : State) (c : ArrayCmd) : (s.arrayDone c).mem = s.mem := by
  simp [State.arrayDone]

@[simp] theorem State.arrayChunk_memWf {s : State} (h : s.MemWf) : s.arrayChunk.MemWf := by
  unfold State.arrayChunk
  split
  · exact h
  · refine State.ite_memWf h ?_
    split
    · exact State.fillAnswer_memWf h
    · split
      · exact State.fillWait_memWf h
      · next t e =>
        have ht : t.MemWf := State.runFront_memWf h e
        exact ht

@[simp] theorem State.arrayComplete_memWf {s : State} (h : s.MemWf) : s.arrayComplete.MemWf := by
  unfold State.arrayComplete
  split
  · exact h
  · split
    · split <;> simp [State.MemWf, h]
    · split
      · exact State.fillAnswer_memWf h
      · split
        · exact State.fillWait_memWf h
        · next e => exact (State.runFront_memWf h e).of_mem_eq (State.arrayDone_mem ..)

/-! #### The tile port -/

theorem State.tclr_memWf {s : State} {st : Stall} {u : Uses} {t : Nat} {fill : State → Word}
    (h : s.MemWf) : (s.tclr st u t fill).MemWf :=
  State.gate_memWf h fun _ ht => Out.ite_memWf ht (Out.ite_memWf ht ht)

theorem State.portWord_memWf {s : State} {st : Stall} {u : Uses} {t : Nat} {e : Bool}
    {lanes : List (Nat × Nat)} {pre : State → Except Fail (TileOp × List Word)}
    {fills : State → List (Nat × Nat × Nat)} (h : s.MemWf) : (s.portWord st u t e lanes pre fills).MemWf := by
  refine State.gate_memWf h fun _ ht => Out.ite_memWf ht <| Out.ite_memWf ht <|
    State.withCtr_memWf ht fun t ht => ?_
  split
  · exact State.raise_memWf ht
  · exact State.withEngFills_memWf ht fun _ ht => ht

@[simp] theorem State.trowWrite_memWf {s : State} {st : Stall} {t : Num4} {v : Reg} {e : Bool} {op : TileOp}
    (h : s.MemWf) : (s.trowWrite st t v e op).MemWf := State.portWord_memWf h

@[simp] theorem State.trowRead_memWf {s : State} {st : Stall} {t : Num4} {v : Reg} {e : Bool} {n : Nat}
    {op : TileOp} (h : s.MemWf) : (s.trowRead st t v e n op).MemWf := State.portWord_memWf h

@[simp] theorem State.runPort_mem (s : State) (c : TileCmd) : (s.runPort c).mem = s.mem := by
  unfold State.runPort
  split <;> simp

@[simp] theorem State.portComplete_mem (s : State) : s.portComplete.mem = s.mem := by
  unfold State.portComplete
  repeat' split
  all_goals simp

/-! #### KICK, OFENCE and the blend unit -/

theorem execKick_memWf {st : Stall} {a v : Reg} {e : Bool} {s : State} (h : s.MemWf) :
    (execKick st a v e s).MemWf :=
  State.gateOpen_memWf h fun _ ht => Out.ite_memWf ht <| State.withCtr_memWf ht fun _ ht =>
    State.guardAll_memWf ht fun _ ht => Out.ite_memWf ht ht

@[simp] theorem State.markFenced_mem (s : State) : s.markFenced.mem = s.mem := by
  unfold State.markFenced
  split <;> simp

theorem execOfence_memWf {st : Stall} {s : State} (h : s.MemWf) : (execOfence st s).MemWf :=
  State.gate_memWf h fun t ht =>
    Out.ite_memWf ht (Out.ite_memWf ht (ht.of_mem_eq (State.markFenced_mem t)))

theorem State.blend_memWf {s : State} {st : Stall} {acc : Bool} {a4 : Num4} {e : Bool} (h : s.MemWf) :
    (s.blend st acc a4 e).MemWf := by
  refine State.gate_memWf h fun _ ht => Out.ite_memWf ht <| State.withCtr_memWf ht fun t ht => ?_
  simp only
  split
  · exact State.raise_memWf ht
  · exact State.withEngFills_memWf ht fun _ ht => ht

@[simp] theorem State.runBlend_mem (s : State) (c : BlendCmd) : (s.runBlend c).mem = s.mem := by
  simp [State.runBlend]

@[simp] theorem State.blendComplete_mem (s : State) : s.blendComplete.mem = s.mem := by
  unfold State.blendComplete
  repeat' split
  all_goals simp

@[simp] theorem State.kickComplete_mem (s : State) : s.kickComplete.mem = s.mem := by
  unfold State.kickComplete
  repeat' split
  all_goals simp

theorem execEngineCommandComplete_memWf {u : EngineUnit} {s : State} (h : s.MemWf) :
    (execEngineCommandComplete u s).MemWf := by
  unfold execEngineCommandComplete
  split <;> simp [State.MemWf, h]

/-! #### The Decanter -/

@[simp] theorem State.onReq_mem (s : State) (i : Nat) (f : CopyReq → CopyReq) :
    (s.onReq i f).mem = s.mem := by
  rfl

@[simp] theorem State.dropReq_mem (s : State) (i : Nat) : (s.dropReq i).mem = s.mem := by
  rfl

@[simp] theorem State.breakAll_mem (s : State) (q : CopyReq) : (s.breakAll q).mem = s.mem := by
  simp only [State.breakAll]
  split
  · rfl
  · refine State.foldl_mem (fun s x => ?_) _ _
    split <;> simp

@[simp] theorem State.lessUnread_mem (s : State) (q : CopyReq) : (s.lessUnread q).mem = s.mem := by
  unfold State.lessUnread
  split <;> simp

@[simp] theorem State.abandon_memWf {s : State} {i : Nat} {q : CopyReq} {group code addr : Nat}
    (h : s.MemWf) : (s.abandon i q group code addr).MemWf := by
  simp [State.abandon, State.MemWf, h]

@[simp] theorem State.rqWait_memWf {s : State} {i : Nat} {q : CopyReq} {va : Nat} (h : s.MemWf) :
    (s.rqWait i q va).MemWf := by
  simp only [State.rqWait]
  repeat' split
  all_goals simp [State.MemWf, h]

@[simp] theorem State.rqAnswer_memWf {s : State} {i : Nat} {q : CopyReq} {tok : Word} (h : s.MemWf) :
    (s.rqAnswer i q tok).MemWf := by
  simp only [State.rqAnswer]
  repeat' split
  all_goals simp [State.MemWf, h]

@[simp] theorem State.rqStop_memWf {s : State} {i : Nat} {q : CopyReq} {x : ReqStop} (h : s.MemWf) :
    (s.rqStop i q x).MemWf := by
  unfold State.rqStop
  split <;> simp [State.MemWf, h]

theorem State.reqFill_mem {s t : State} {q : CopyReq} {gid : Nat} {xs : List (Nat × Nat)}
    (e : s.reqFill q gid xs = .ok t) : t.mem = s.mem := by
  unfold State.reqFill at e
  split at e
  case h_1 e1 => cases e; exact State.fillRanges_mem e1
  all_goals cases e

/-- A computation that ends well has gone through its first part. -/
theorem exists_of_bind_eq_ok {ε α β : Type} {x : Except ε α} {f : α → Except ε β} {b : β}
    (e : x >>= f = .ok b) : ∃ a, x = .ok a ∧ f a = .ok b := by
  cases x with
  | error _ => cases e
  | ok a => exact ⟨a, rfl, e⟩

theorem State.rqFetch_mem {s t : State} {q : CopyReq} (e : s.rqFetch q = .ok t) : t.mem = s.mem := by
  obtain ⟨s1, e1, e2⟩ := exists_of_bind_eq_ok e
  exact (State.reqFill_mem e2).trans (State.reqFill_mem e1)

@[simp] theorem State.rqFilled_mem (s : State) (q : CopyReq) : (s.rqFilled q).mem = s.mem := by
  unfold State.rqFilled
  split
  case h_1 e => exact State.reqFill_mem e
  case h_2 => rfl

/-- The state in which a request is validated: as it was, or with the bytes of the request and of its capability
filled. -/
theorem State.rqFetched_mem {s t : State} {q : CopyReq}
    (e : (if q.begun then .ok s else s.rqFetch q) = Except.ok t) : t.mem = s.mem := by
  split at e
  · cases e; rfl
  · exact State.rqFetch_mem e

@[simp] theorem State.rqBegin_memWf {s : State} (h : s.MemWf) : s.rqBegin.MemWf := by
  simp only [State.rqBegin]
  split
  · exact h
  · split
    · exact h
    · split
      · exact State.rqAnswer_memWf h
      · split
        · exact State.rqStop_memWf h
        · next e =>
          have ht := h.of_mem_eq (State.rqFetched_mem e)
          split
          · refine State.rqStop_memWf ?_
            split <;> exact ht
          · repeat' split
            all_goals simp [State.MemWf, ht]

@[simp] theorem State.landReq_mem (s : State) (q : CopyReq) (gid : Nat) (x : Nat × List Byte) :
    (s.landReq q gid x).mem = s.mem := by
  unfold State.landReq
  split <;> simp

@[simp] theorem State.landVat_mem (s : State) (q : CopyReq) (pos stop gid : Nat) (ws : List (Nat × List Byte)) :
    (s.landVat q pos stop gid ws).mem = s.mem := by
  simp [State.landVat]

theorem State.rqFill_mem {s t : State} {q : CopyReq} {pos stop : Nat} {ws : List (Nat × List Byte)}
    {gs : List Nat} (e : s.rqFill q pos stop ws gs = .ok t) : t.mem = s.mem := by
  induction gs generalizing s with
  | nil => simp_all [State.rqFill]
  | cons gid gs ih =>
    simp only [State.rqFill] at e
    split at e
    · cases e
    · next e1 => exact (ih e).trans (State.reqFill_mem e1)

theorem State.rqSrcFill_mem {s t : State} {q : CopyReq} {pos stop : Nat} (e : s.rqSrcFill q pos stop = .ok t) :
    t.mem = s.mem := by
  simp only [State.rqSrcFill] at e
  split at e
  · cases e; rfl
  · exact State.reqFill_mem e

theorem State.rqPrepare_mem {s t : State} {q q' : CopyReq} {pos stop : Nat} {ws : List (Nat × List Byte)}
    (e : s.rqPrepare q pos stop = .ok (t, q', ws)) : t.mem = s.mem := by
  unfold State.rqPrepare at e
  extract_lets rest at e
  obtain ⟨q1, e⟩ : ∃ q1, rest q1 = .ok (t, q', ws) := by
    split at e
    · obtain ⟨q1, -, e⟩ := exists_of_bind_eq_ok e
      exact ⟨q1, e⟩
    · exact ⟨q, e⟩
  obtain ⟨s1, e1, e⟩ := exists_of_bind_eq_ok e
  obtain ⟨q2, -, e⟩ := exists_of_bind_eq_ok e
  obtain ⟨xs, -, e⟩ := exists_of_bind_eq_ok e
  obtain ⟨s2, e2, e⟩ := exists_of_bind_eq_ok e
  cases e
  exact (State.rqFill_mem e2).trans (State.rqSrcFill_mem e1)

@[simp] theorem State.rqSegment_memWf {s : State} {refused : Bool} (h : s.MemWf) : (s.rqSegment refused).MemWf := by
  simp only [State.rqSegment]
  split
  · exact h
  · split
    · exact h
    · split
      · exact State.rqAnswer_memWf h
      · split
        · exact State.rqStop_memWf h
        · next e =>
          have ht := h.of_mem_eq (State.rqPrepare_mem e)
          split
          · exact State.rqStop_memWf h
          · split <;> simp [State.MemWf, ht]

theorem execHomeRefusal_memWf {k : Nat} {why : RefusalKind} {s : State} (h : s.MemWf) :
    (execHomeRefusal k why s).MemWf := by
  unfold execHomeRefusal
  split
  · exact State.atAccess_memWf h fun _ _ ht => State.refuseHome_memWf ht
  · split
    · exact h
    · exact State.rqSegment_memWf h

@[simp] theorem State.folFill_mem (s : State) (q : CopyReq) : (s.folFill q).mem = s.mem := by
  unfold State.folFill
  split
  · refine State.foldl_mem (fun s x => ?_) _ _
    split
    · next e => exact State.reqFill_mem e
    · rfl
  · rfl

@[simp] theorem State.folEnter_memWf {s : State} (h : s.MemWf) : s.folEnter.MemWf := by
  unfold State.folEnter
  split
  · exact h
  · simp only
    repeat' split
    all_goals simp [State.MemWf, h]

/-! #### Clause fetch and decode -/

@[simp] theorem State.keepBlock_mem (s : State) (va : Nat) : (s.keepBlock va).mem = s.mem := by
  rfl

theorem State.parkIdle_memWf {s t : State} {l pc : Nat} {i : TrapInfo} {page : Nat} {record : Bool} (h : s.MemWf)
    (e : s.parkIdle l pc i page record = some t) : t.MemWf := by
  simp only [State.parkIdle, Option.map_eq_some_iff] at e
  obtain ⟨tok, -, rfl⟩ := e
  cases record <;> simp [State.MemWf, h]

theorem State.parkIdle_getD_memWf {s d : State} {l pc : Nat} {i : TrapInfo} {page : Nat} {record : Bool}
    (h : s.MemWf) (hd : d.MemWf) : ((s.parkIdle l pc i page record).getD d).MemWf := by
  cases e : s.parkIdle l pc i page record with
  | none => exact hd
  | some t => exact State.parkIdle_memWf h e

@[simp] theorem State.raiseIdle_memWf {s : State} {l pc : Nat} {f : Fail} (h : s.MemWf) :
    (s.raiseIdle l pc f).MemWf := by
  unfold State.raiseIdle
  simp only
  split
  · simp [State.MemWf, h]
  · exact State.parkIdle_getD_memWf h h
  · exact State.parkIdle_getD_memWf h h
  · split
    · exact h
    · next e => simp [State.MemWf, State.parkIdle_memWf h e]

@[simp] theorem State.noteFetch_mem (s : State) (c : ClauseBuf) : (s.noteFetch c).mem = s.mem := by
  simp only [State.noteFetch]
  split <;> simp

@[simp] theorem State.decodeSet_memWf {s : State} {l a : Nat} {inside : Option ClauseBuf} (h : s.MemWf) :
    (s.decodeSet l a inside).MemWf := by
  unfold State.decodeSet
  simp only
  split
  · exact State.raiseIdle_memWf h
  · split <;> exact State.raiseIdle_memWf h
  · exact State.raiseIdle_memWf h
  · exact State.raiseIdle_memWf h
  · exact h.of_mem_eq (State.noteFetch_mem ..)

@[simp] theorem State.boundaryTrap_memWf {s : State} {l : Nat} (h : s.MemWf) : (s.boundaryTrap l).MemWf := by
  simp only [State.boundaryTrap]
  repeat' split
  all_goals simp [State.MemWf, h]

@[simp] theorem State.meetError_memWf {s : State} {i : TrapInfo} (h : s.MemWf) : (s.meetError i).MemWf := by
  unfold State.meetError
  split
  · exact State.parkIdle_getD_memWf h h
  · split
    · exact h
    · exact State.parkIdle_getD_memWf h h

@[simp] theorem State.nextSet_memWf {s : State} (h : s.MemWf) : s.nextSet.MemWf := by
  simp only [State.nextSet]
  split
  · exact h
  · split
    · exact State.raiseIdle_memWf h
    · split
      · exact State.decodeSet_memWf h
      · split
        · exact State.boundaryTrap_memWf h
        · exact State.decodeSet_memWf h

theorem execClauseDecode_memWf {s : State} (h : s.MemWf) : (execClauseDecode s).MemWf := by
  unfold execClauseDecode
  split <;> simp [State.MemWf, h]

theorem execBoundaryTrap_memWf {s : State} (h : s.MemWf) : (execBoundaryTrap s).MemWf := by
  unfold execBoundaryTrap
  split <;> simp [State.MemWf, h]

theorem execTimerExpire_memWf {s : State} (h : s.MemWf) : (execTimerExpire s).MemWf := by
  unfold execTimerExpire
  split <;> simp [State.MemWf, h]

/-! #### Branches -/

@[simp] theorem State.left_mem (s : State) (st : Stall) (tg : Nat → Option Nat) :
    (s.left st tg).mem = s.mem := by
  rfl

theorem State.transfer_memWf {s : State} {st : Stall} {tg : Nat → Option Nat} (h : s.MemWf) :
    (s.transfer st tg).MemWf := h.of_mem_eq (State.left_mem ..)

theorem State.branch_memWf {s : State} {st : Stall} {u : Uses} {pre : State → Nat → Option Fail}
    {tg : State → Nat → Option Nat} {act : State → Nat → Fibre → Fibre} {note : State → State}
    {reads : State → Nat → List Nat} (h : s.MemWf) (hn : ∀ t, (note t).mem = t.mem) :
    (s.branch st u pre tg act note reads).MemWf :=
  State.gate_memWf h fun _ ht => State.guardAll_memWf ht fun t ht =>
    State.transfer_memWf (ht.of_mem_eq (hn t))

@[simp] theorem State.entryNote_mem (s : State) (c : Num4) (b : Reg) : (s.entryNote c b).mem = s.mem := by
  simp [State.entryNote]

theorem execBrt_memWf {st : Stall} {c : Num4} {b : Reg} {s : State} (h : s.MemWf) :
    (execBrt st c b s).MemWf :=
  State.gate_memWf h fun _ ht => Out.ite_memWf ht <| State.guardAll_memWf ht fun _ ht =>
    State.branch_memWf ht (State.entryNote_mem · c b)

theorem execJoin_memWf {st : Stall} {p : Pred} {i : Byte} {s : State} (h : s.MemWf) :
    (execJoin st p i s).MemWf := by
  refine State.gate_memWf h fun t ht => ?_
  simp only
  repeat' split
  all_goals simp [State.MemWf, State.transfer, ht]

/-! #### Words across lanes -/

theorem execWidth_memWf {st : Stall} {d a : Reg} {s : State} (h : s.MemWf) : (execWidth st d a s).MemWf :=
  Out.ite_memWf (State.hold_memWf h) <| State.gate_memWf h fun _ ht =>
    Out.ite_memWf ht (Out.ite_memWf (State.trapHere_memWf ht) ht)

@[simp] theorem State.shuffle_memWf {s : State} {st : Stall} {d a : Reg} {u : Uses} {own : Bool}
    {src : State → Nat → Option Nat} {dflt : State → Nat → Word} (h : s.MemWf) :
    (s.shuffle st d a u own src dflt).MemWf := State.alu_memWf h

@[simp] theorem State.indexTrap_memWf {s : State} {n l : Nat} (h : s.MemWf) : (s.indexTrap n l).MemWf :=
  State.trapHere_memWf h

theorem execVxld_memWf {st : Stall} {d a : Reg} {s : State} (h : s.MemWf) : (execVxld st d a s).MemWf := by
  refine State.gate_memWf h fun t ht => ?_
  split
  · exact State.indexTrap_memWf ht
  · exact State.alu_memWf ht

theorem execVxst_memWf {st : Stall} {d a : Reg} {s : State} (h : s.MemWf) : (execVxst st d a s).MemWf := by
  refine State.gate_memWf h fun t ht => ?_
  split
  · exact State.indexTrap_memWf ht
  · exact State.gate_memWf ht fun t ht => ht

/-! #### Creating and ending work -/

@[simp] theorem State.addWave_mem (s : State) (w : Wave) : (s.addWave w).mem = s.mem := by
  unfold State.addWave
  split <;> simp

@[simp] theorem State.interlockP_memWf {s : State} {st : Stall} {d : Nat} {vals : List (Nat × Bool)}
    (h : s.MemWf) : (s.interlockP st d vals).MemWf := h

@[simp] theorem State.placeItem_mem (s : State) (launch entry : Nat) (vals : List Word) :
    (s.placeItem launch entry vals).1.mem = s.mem := by
  simp only [State.placeItem]
  repeat' split
  all_goals rfl

@[simp] theorem State.placeAll_mem (s : State) (launch : Nat) (xs : List (Nat × Nat × List Word)) :
    (s.placeAll launch xs).1.mem = s.mem := by
  induction xs generalizing s with
  | nil => rfl
  | cons x xs ih => simp [State.placeAll, ih]

theorem State.create_memWf {s : State} {st : Stall} {p : Pred} {a2 : BitVec 5} {b : Reg} {k : State → Out}
    (h : s.MemWf) (hk : ∀ t, t.MemWf → (k t).MemWf) : (s.create st p a2 b k).MemWf :=
  State.gate_memWf h fun _ ht => Out.ite_memWf ht <| Out.ite_memWf ht (State.guardAll_memWf ht hk)

theorem execFork_memWf {st : Stall} {p : Pred} {a2 : BitVec 5} {b : Reg} {s : State} (h : s.MemWf) :
    (execFork st p a2 b s).MemWf :=
  State.create_memWf h fun t ht => State.interlockP_memWf (ht.of_mem_eq (State.placeAll_mem t _ _))

theorem execSpawn_memWf {st : Stall} {p : Pred} {a2 : BitVec 5} {b : Reg} {s : State} (h : s.MemWf) :
    (execSpawn st p a2 b s).MemWf :=
  State.create_memWf h fun _ ht =>
    State.interlockP_memWf (State.ite_memWf (ht.of_mem_eq (State.addWave_mem ..)) ht)

theorem execEndF_memWf {st : Stall} {s : State} (h : s.MemWf) : (execEndF st s).MemWf :=
  State.gate_memWf h fun _ ht => ht.of_mem_eq (State.left_mem ..)

@[simp] theorem State.disableQueue_memWf {s : State} {ctx qn : Nat} {q : QueueDesc} (h : s.MemWf) :
    (s.disableQueue ctx qn q).MemWf := by
  refine State.postSteward_memWf (State.postEvent_memWf ?_)
  split
  · exact State.ctxWr_memWf h
  · exact h

theorem State.submit_memWf {s t : State} {ctx qn : Nat} {bytes : List Byte} (h : s.MemWf)
    (e : s.submit ctx qn bytes = some t) : t.MemWf := by
  unfold State.submit at e
  split at e
  · cases e
  · split at e
    · cases e
    · split at e
      · cases e
      · cases e
        exact State.ctxWr_memWf (State.wr_memWf h)

@[simp] theorem State.checkQueue_memWf {s : State} {ctx qn : Nat} (h : s.MemWf) :
    (s.checkQueue ctx qn).MemWf := by
  unfold State.checkQueue
  repeat' split
  all_goals simp [State.MemWf, h]

theorem execLaunch_memWf {st : Stall} {p : Pred} {a b : Reg} {s : State} (h : s.MemWf) :
    (execLaunch st p a b s).MemWf := by
  refine State.gate_memWf h fun t ht => Out.ite_memWf ht <| Out.ite_memWf ht ?_
  split
  · exact State.raise_memWf ht
  · extract_lets gid off q touch s0 s2 r
    have h2 : s2.MemWf := State.checkQueue_memWf (ht.of_mem_eq (by simp [s0]))
    refine State.interlockP_memWf ?_
    cases e : r with
    | none => exact h2
    | some t => exact State.submit_memWf h2 e

/-! #### Cores and waves at the issue port -/

@[simp] theorem State.parkWave_mem (s : State) : s.parkWave.mem = s.mem := by
  unfold State.parkWave
  split <;> simp

@[simp] theorem State.focusWave_mem (s : State) (wid : Nat) : (s.focusWave wid).mem = s.mem := by
  unfold State.focusWave
  repeat' split
  all_goals simp

@[simp] theorem State.focusCore_mem (s : State) (n : Nat) : (s.focusCore n).mem = s.mem := by
  unfold State.focusCore
  repeat' split
  all_goals simp

theorem State.atCore_mem {s : State} {n : Nat} {f : State → State} (hf : ∀ t, (f t).mem = t.mem) :
    (s.atCore n f).mem = s.mem := by
  simp only [State.atCore]
  split <;> simp [hf]

theorem State.atCore_memWf {s : State} {n : Nat} {f : State → State} (h : s.MemWf)
    (hf : ∀ t, t.MemWf → (f t).MemWf) : (s.atCore n f).MemWf := by
  have ht : (f (s.focusCore n)).MemWf := hf _ (h.of_mem_eq (State.focusCore_mem ..))
  simp only [State.atCore]
  split <;> simpa [State.MemWf] using ht

@[simp] theorem State.claim_mem (s : State) (ctx : Nat) : (s.claim ctx).mem = s.mem := by
  unfold State.claim
  split <;> simp

/-! #### Launch records and their acceptance -/

@[simp] theorem State.writeDone_memWf {s : State} {x : Launch} {nfail reason status : Nat} (h : s.MemWf) :
    (s.writeDone x nfail reason status).MemWf := State.ctxWr_memWf h

@[simp] theorem State.accept_memWf {s : State} {cls ctx q : Nat} {d : QueueDesc} (h : s.MemWf) :
    (s.accept cls ctx q d).MemWf := by
  simp only [State.accept]
  repeat' split
  all_goals simp [State.MemWf, h]

theorem execLaunchAccept_memWf {ctx queue : Nat} {s : State} (h : s.MemWf) :
    (execLaunchAccept ctx queue s).MemWf := by
  unfold execLaunchAccept
  repeat' split
  all_goals simp [State.MemWf, h]

/-! #### Capability words -/

theorem State.capWord_memWf {s : State} {st : Stall} {d a : Num4} {u : Uses}
    {chk : State → Nat → Option Fail} {res : State → Nat → Quad} (h : s.MemWf) :
    (s.capWord st d a u chk res).MemWf :=
  State.gate_memWf h fun _ ht => State.guardAll_memWf ht fun _ ht => ht

@[simp] theorem State.capGet_memWf {s : State} {st : Stall} {dest : Dest} {a4 : Num4} {f : CapUse → Nat}
    (h : s.MemWf) : (s.capGet st dest a4 f).MemWf := State.alu_memWf h

/-! #### Predicate words -/

@[simp] theorem State.pred2_memWf {s : State} {st : Stall} {d a b : Pred} {op : Bool → Bool → Bool}
    (h : s.MemWf) : (s.pred2 st d a b op).MemWf := State.alu_memWf h

@[simp] theorem State.pred1_memWf {s : State} {st : Stall} {d a : Pred} {op : Bool → Bool} (h : s.MemWf) :
    (s.pred1 st d a op).MemWf := State.alu_memWf h

/-! #### Start and end of groups and clusters -/

@[simp] theorem State.addWaves_mem (s : State) (x : Launch) (gid g : Nat) (ws : List Nat) :
    (s.addWaves x gid g ws).mem = s.mem := by
  induction ws generalizing s with
  | nil => rfl
  | cons w ws ih => simp [State.addWaves, ih]

@[simp] theorem State.startGroup_mem (s : State) (x : Launch) (g : Nat) (pre : List Byte) :
    (s.startGroup x g pre).mem = s.mem := by
  simp [State.startGroup]

@[simp] theorem State.startGroups_mem (s : State) (x : Launch) (pre : List Byte) (gs : List Nat) :
    (s.startGroups x pre gs).mem = s.mem := by
  induction gs generalizing s with
  | nil => rfl
  | cons g gs ih => rw [State.startGroups, ih, State.startGroup_mem]

theorem execGroupStart_memWf {launch core : Nat} {s : State} (h : s.MemWf) :
    (execGroupStart launch core s).MemWf := by
  simp only [execGroupStart]
  split
  · exact h
  · split
    · exact h
    · split
      · exact h
      · split
        · exact h
        · exact h.of_mem_eq (State.atCore_mem fun t => State.startGroups_mem t ..)

@[simp] theorem State.startCluster_mem (s : State) (x : Launch) (k : Nat) (pre : List Byte) (is : List Nat) :
    (s.startCluster x k pre is).mem = s.mem := by
  induction is generalizing s with
  | nil => rfl
  | cons i is ih => rw [State.startCluster, ih, State.atCore_mem fun t => State.startGroup_mem t _ _ _]

theorem execClusterStart_memWf {launch cluster : Nat} {s : State} (h : s.MemWf) :
    (execClusterStart launch cluster s).MemWf := by
  simp only [execClusterStart]
  repeat' split
  all_goals simp [State.MemWf, h]

@[simp] theorem State.giveBack_mem (s : State) (w : Wave) : (s.giveBack w).mem = s.mem := by
  simp [State.giveBack]

@[simp] theorem State.withdraw_mem (s : State) (p : Wave → Bool) : (s.withdraw p).mem = s.mem := by
  simp [State.withdraw]

@[simp] theorem State.breakPeers_mem (s : State) (gid : Nat) : (s.breakPeers gid).mem = s.mem := by
  simp only [State.breakPeers]
  split
  · rfl
  · refine State.foldl_mem (fun s m => State.foldl_mem (fun s off => ?_) _ _) _ _
    split <;> simp

@[simp] theorem State.stopLaunch_mem (s : State) (id : Nat) : (s.stopLaunch id).mem = s.mem := by
  simp [State.stopLaunch]

@[simp] theorem State.groupFailed_mem (s : State) (gid : Nat) : (s.groupFailed gid).mem = s.mem := by
  simp only [State.groupFailed]
  repeat' split
  all_goals simp

theorem execGroupFail_memWf {s : State} (h : s.MemWf) : (execGroupFail s).MemWf := by
  simp only [execGroupFail]
  repeat' split
  all_goals simp [State.MemWf, h]

@[simp] theorem State.endFault_memWf {s : State} {gid off va : Nat} (h : s.MemWf) :
    (s.endFault gid off va).MemWf := by
  simp [State.endFault, State.MemWf, h]

@[simp] theorem State.endBack_memWf {s : State} {gid : Nat} {xs : List (Nat × Nat × Nat)} (h : s.MemWf) :
    (s.endBack gid xs).MemWf := by
  refine State.foldl_memWf h (fun t x ht => ?_) _
  simp only
  split
  · exact State.endFault_memWf ht
  · split
    · exact State.writeBack_memWf ht
    · have hf : (t.homeOpen.endFault gid x.1 x.2.1).MemWf := State.endFault_memWf ht
      exact State.ite_memWf (State.unitLost_memWf hf) hf

@[simp] theorem State.dropWaves_mem (s : State) (p : Wave → Bool) : (s.dropWaves p).mem = s.mem := by
  simp only [State.dropWaves]
  split <;> simp

@[simp] theorem State.freeGroups_mem (s : State) (launch : Nat) : (s.freeGroups launch).mem = s.mem := by
  rfl

@[simp] theorem State.finishLaunch_memWf {s : State} {id : Nat} (h : s.MemWf) :
    (s.finishLaunch id).MemWf := by
  unfold State.finishLaunch
  repeat' split
  all_goals simp [State.MemWf, h]

@[simp] theorem State.sweep_memWf {s : State} (h : s.MemWf) : s.sweep.MemWf :=
  State.foldl_memWf (h.of_mem_eq (State.dropWaves_mem ..)) (fun _ _ ht => State.finishLaunch_memWf ht) _

theorem execGroupEnd_memWf {group : Nat} {s : State} (h : s.MemWf) : (execGroupEnd group s).MemWf := by
  simp only [execGroupEnd]
  repeat' split
  all_goals simp [State.MemWf, h]

/-! #### Bins and stealing -/

@[simp] theorem State.refill_mem (s : State) : s.refill.mem = s.mem :=
  State.foldl_mem (fun _ _ => by simp) _ _

@[simp] theorem State.unpost_mem (s : State) (core : Nat) (b : Bin) : (s.unpost core b).mem = s.mem := by
  unfold State.unpost
  split <;> simp

@[simp] theorem State.cooper_mem (s : State) : s.cooper.mem = s.mem := by
  simp only [State.cooper]
  split <;> simp

theorem execCooperLaunch_memWf {s : State} (h : s.MemWf) : (execCooperLaunch s).MemWf := by
  unfold execCooperLaunch
  split <;> simp [State.MemWf, h]

@[simp] theorem State.gainBin_mem (s : State) (n : Nat) (b : Bin) : (s.gainBin n b).mem = s.mem := by
  rfl

@[simp] theorem State.steal_mem (s : State) (n : Nat) : (s.steal n).mem = s.mem := by
  unfold State.steal
  repeat' split
  all_goals simp

theorem execBinSteal_memWf {core : Nat} {s : State} (h : s.MemWf) : (execBinSteal core s).MemWf := by
  simp [execBinSteal, State.MemWf, h]

theorem execStealQueuePost_memWf {launch : Nat} {entry : DWord} {s : State} (h : s.MemWf) :
    (execStealQueuePost launch entry s).MemWf := by
  unfold execStealQueuePost
  split <;> simp [State.MemWf, h]

@[simp] theorem State.repost_mem (s : State) (a n : Nat) : (s.repost a n).mem = s.mem := by
  rfl

@[simp] theorem State.rack_mem (s : State) (g : Group) (n : Nat) : (s.rack g n).mem = s.mem := by
  simp only [State.rack]
  split
  · rfl
  · simp [State.atCore_mem]

theorem execRacking_memWf {group core : Nat} {s : State} (h : s.MemWf) :
    (execRacking group core s).MemWf := by
  unfold execRacking
  repeat' split
  all_goals simp [State.MemWf, h]

theorem execIssueStarvationPromote_memWf {wid : Nat} {s : State} (h : s.MemWf) :
    (execIssueStarvationPromote wid s).MemWf := by
  unfold execIssueStarvationPromote
  repeat' split
  all_goals simp [State.MemWf, h]

/-! #### Save images -/

@[simp] theorem State.streamOut_memWf {s : State} {i : Image} {ctx : Nat} (h : s.MemWf) :
    (s.streamOut i ctx).MemWf := by
  unfold State.streamOut
  split <;> simp [State.MemWf, h]

/-! #### Pre-emption and restore -/

@[simp] theorem State.emptyCore_mem (s : State) (n : Nat) : (s.emptyCore n).mem = s.mem := by
  simp [State.emptyCore]

@[simp] theorem State.saveCore_memWf {s : State} {n : Nat} {set : Option Nat} (h : s.MemWf) :
    (s.saveCore n set).MemWf := by
  unfold State.saveCore
  repeat' split
  all_goals simp [State.MemWf, h]

@[simp] theorem State.onFibres_mem (s : State) (wids : List Nat) (f : Fibre → Fibre) :
    (s.onFibres wids f).mem = s.mem := by
  rfl

@[simp] theorem State.retestToken_mem (s : State) (ctx : Nat) (ws : List Wave) (tok : Word) :
    (s.retestToken ctx ws tok).mem = s.mem := by
  unfold State.retestToken
  repeat' split
  all_goals simp

@[simp] theorem State.putImage_mem (s : State) (ctx : Nat) (i : Image) (n : Nat) :
    (s.putImage ctx i n).mem = s.mem := by
  simp [State.putImage, State.atCore_mem]

@[simp] theorem State.restore_mem (s : State) (ctx seq n : Nat) : (s.restore ctx seq n).mem = s.mem := by
  unfold State.restore
  repeat' split
  all_goals simp

theorem execRestore_memWf {ctx seq core : Nat} {s : State} (h : s.MemWf) :
    (execRestore ctx seq core s).MemWf := by
  simp [execRestore, State.MemWf, h]

@[simp] theorem State.useReserve_mem (s : State) (u : RetireUnit) : (s.useReserve u).mem = s.mem := by
  simp only [State.useReserve]
  split <;> simp

@[simp] theorem State.bringIn_memWf {s : State} {u : RetireUnit} (h : s.MemWf) : (s.bringIn u).MemWf := by
  simp only [State.bringIn]
  split <;> simp [State.MemWf, h]

@[simp] theorem State.bringBack_mem (s : State) (n : Nat) (is : List (Nat × Nat)) :
    (s.bringBack n is).mem = s.mem := by
  refine State.foldl_mem (fun s x => ?_) _ _
  simp only
  split
  · rw [State.foldl_mem, State.restore_mem]
    intro t m
    split <;> simp
  · simp

@[simp] theorem State.acknowledge_memWf {s : State} {n : Nat} (h : s.MemWf) : (s.acknowledge n).MemWf := by
  have hs (t : State) (ns : List Nat) (ht : t.MemWf) :
      (ns.foldl (fun u m => u.saveCore m (s.clusterSet m)) t).MemWf :=
    State.foldl_memWf ht (fun _ _ hu => State.saveCore_memWf hu) ns
  have hb (t : State) (us : List RetireUnit) (ht : t.MemWf) : (us.foldl (fun s u => s.bringIn u) t).MemWf :=
    State.foldl_memWf ht (fun _ _ hu => State.bringIn_memWf hu) us
  have hall := fun us ns => hb _ us (hs s ns h)
  simp only [State.acknowledge]
  split
  · exact h
  · exact State.ite_memWf (hall _ _) ((hall _ _).of_mem_eq (State.bringBack_mem ..))

/-! #### Waiting, windows and system registers -/

theorem State.window_memWf {s : State} {st : Stall} {new : Fibre → Int} (h : s.MemWf) :
    (s.window st new).MemWf := by
  refine State.gate_memWf h fun t ht => ?_
  simp only
  split
  · exact State.trapHere_memWf ht
  · exact ht

theorem State.modeFor_memWf {s : State} {r : SysReg} {k : State → Out} (h : s.MemWf)
    (hk : ∀ t, t.MemWf → (k t).MemWf) : (s.modeFor r k).MemWf :=
  Out.ite_memWf (State.stewardOnly_memWf h hk) (hk s h)

theorem execSrd_memWf {st : Stall} {d : Reg} {r : SysReg} {s : State} (h : s.MemWf) : (execSrd st d r s).MemWf :=
  State.modeFor_memWf h fun _ ht => State.gate_memWf ht fun _ ht =>
    Out.ite_memWf ht (State.ite_memWf (a := State.sample _) ht ht)

theorem State.swrOnce_memWf {s : State} {st : Stall} {d : Reg} {span : Nat} {r : SysReg} {ready : State → Bool}
    {write : State → DWord → State} (h : s.MemWf) (hw : ∀ t v, t.MemWf → (write t v).MemWf) :
    (s.swrOnce st d span r ready write).MemWf :=
  State.gate_memWf h fun _ ht => Out.ite_memWf ht <| Out.ite_memWf ht
    (State.ite_memWf (hw _ _ ht) (hw _ _ ht))

@[simp] theorem State.onDie_mem (s : State) (f : Die → Die) : (s.onDie f).mem = s.mem := by
  rfl

@[simp] theorem State.onSctx_mem (s : State) (f : Context → Context) : (s.onSctx f).mem = s.mem := by
  simp only [State.onSctx]
  split <;> simp

@[simp] theorem State.drainPosts_memWf {s : State} (h : s.MemWf) : s.drainPosts.MemWf := State.postGo_memWf h

@[simp] theorem State.sysWrite_memWf {s : State} {r : SysReg} {v : DWord} (h : s.MemWf) :
    (s.sysWrite r v).MemWf := by
  unfold State.sysWrite
  split <;> simp [State.MemWf, h]

theorem execSwr_memWf {st : Stall} {d : Reg} {r : SysReg} {s : State} (h : s.MemWf) : (execSwr st d r s).MemWf :=
  State.modeFor_memWf h fun _ ht => State.swrOnce_memWf ht fun _ _ ht => State.sysWrite_memWf ht

theorem execSfqheadWrite_memWf {st : Stall} {d : Reg} {s : State} (h : s.MemWf) : (execSfqheadWrite st d s).MemWf :=
  State.stewardOnly_memWf h fun _ ht => State.swrOnce_memWf ht fun _ _ ht => State.drainPosts_memWf ht

theorem execSwrSlim_memWf {st : Stall} {d : Reg} {s : State} (h : s.MemWf) : (execSwrSlim st d s).MemWf := by
  refine State.gate_memWf h fun t ht => ?_
  simp only
  split
  · exact State.trapHere_memWf ht
  · exact ht

/-! #### TRAP, BRK, TRET and the words of the steward's mode -/

theorem State.softTrap_memWf {s : State} {st : Stall} {u : Uses} {info : State → TrapInfo} (h : s.MemWf) :
    (s.softTrap st u info).MemWf :=
  State.gate_memWf h fun _ ht => Out.ite_memWf (State.transfer_memWf ht) <|
    State.ite_memWf ht (ht.of_mem_eq (State.takeTrap_mem ..))

theorem execTret_memWf {st : Stall} {s : State} (h : s.MemWf) : (execTret st s).MemWf := by
  refine State.gate_memWf h fun _ ht => Out.ite_memWf (State.transfer_memWf ht) <|
    Out.ite_memWf (State.trapHere_memWf ht) ?_
  split
  · exact State.raise_memWf ht
  · exact ht

theorem State.tlbi_memWf {s : State} {st : Stall} {sc : Scope} {u : Uses} {what : State → TlbiKind × Nat}
    (h : s.MemWf) : (s.tlbi st sc u what).MemWf :=
  State.stewardOnly_memWf h fun _ ht => State.gate_memWf ht fun _ ht => Out.ite_memWf ht ht

@[simp] theorem State.ackTlbi_mem (s : State) (n : Nat) (t : Tlbi) : (s.ackTlbi n t).mem = s.mem := by
  simp only [State.ackTlbi]
  repeat' split
  all_goals simp

@[simp] theorem State.ackFrom_mem (s : State) (c : Core) (ws : List Wave) : (s.ackFrom c ws).mem = s.mem := by
  unfold State.ackFrom
  split <;> simp

theorem execTlbiAck_memWf {core : Nat} {s : State} (h : s.MemWf) : (execTlbiAck core s).MemWf := by
  unfold execTlbiAck
  repeat' split
  all_goals simp [State.MemWf, h]

theorem execWtwake_memWf {st : Stall} {a b : Reg} {s : State} (h : s.MemWf) : (execWtwake st a b s).MemWf := by
  refine State.stewardOnly_memWf h fun _ ht => State.gate_memWf ht fun t ht => Out.ite_memWf ht ?_
  split
  · exact ht
  · next x _ => exact State.wakeEntry_memWf (d := x.1) ht

/-! #### Instruction words, and a wave's run to its end (DET_STEP) -/

/-- An instruction word keeps memory in canonical form. Each arm cites the rule of the operation
through which its word goes; an event's row has no word and leaves the state as it is. -/
theorem issueWord_memWf {i : Instr} {s : State} (h : s.MemWf) : Out.MemWf (issueWord i s) := by
  cases i <;> unfold issueWord
  case add | sub | mul | mulhI32 | mulhN32 | divI32 | divN32 | remI32 | remN32 | andI | orI | xorI |
      andn | shl | shr | sar | rol | minI32 | minN32 | maxI32 | maxN32 | addsatI32 | subsatI32 =>
    exact State.int2_memWf h
  case clz | popc | brev => exact State.int1_memWf h
  case imad | icmp | movl | movh | addi | movlS | fcmp | dcmp | dfma | cvt | add64 | sub64 | cmp64 |
      lea | voteAny | voteAll | voteBallot | matchL | xred | xscanInc | xscanExc | xseg | sel =>
    exact State.alu_memWf h
  case fadd | fsub | fmul | fmin | fmax => exact State.fp2_memWf h
  case fabs | fneg | fsat => exact State.fp1_memWf h
  case fma | fms | fnma | fnms => exact State.fp3_memWf h
  case frcp | frsq | fexp2 | flog2 | frndRn | frndRz | frndRu | frndRd => exact State.special_memWf h
  case fsqrt | fdiv => exact State.interlockV_memWf h
  case padd | psub | pmul | pmin | pmax | pfma => exact State.packed_memWf h
  case dadd | dsub | dmul | dmin | dmax => exact State.dp2_memWf h
  case dabs | dneg => exact State.dp1_memWf h
  case qnt | dqn => exact State.blockWord_memWf h
  case shflIdx | shflUp | shflDown | shflXor | bcast => exact State.shuffle_memWf h
  case perm | whenP | yieldW | waitd | cnt => exact State.gate_memWf h fun _ ht => ht
  case pand | por | pxor | pandn => exact State.pred2_memWf h
  case pnot | pmov => exact State.pred1_memWf h
  case width => exact execWidth_memWf h
  case vxld => exact execVxld_memWf h
  case vxst => exact execVxst_memWf h
  case ld | ldnr | ldaN32 | ldaN64 | preq | promo => exact State.loadC_memWf h
  case store | stlN32 | stlN64 => exact State.storeC_memWf h
  case vldN32 | vldN64 | vldCap => exact State.vatLoad_memWf h
  case vstN32 | vstN64 | vstN8 => exact State.vatStore_memWf h
  case vstCap | vldsN32 => exact State.vatWord_memWf h
  case atom | ared => exact State.atomic_memWf h
  case fence | ifence | dfence => exact State.fenceWord_memWf h
  case gathN32 | gathN64 => exact State.gather_memWf h
  case scatN32 | scatN64 => exact State.scatter_memWf h
  case cnarrow | cperm => exact State.capWord_memWf h
  case cgetBase | cgetLen | cgetPerm | cgetTid | cgetTag => exact State.capGet_memWf h
  case cmov | srdCounter => exact State.gate_memWf h fun _ ht => Out.ite_memWf ht ht
  case vmap => exact execVmap_memWf h
  case vsync | vunmap => exact State.syncWord_memWf h
  case pwait => exact execPwait_memWf h
  case pcancel => exact execPcancel_memWf h
  case mld => exact execMld_memWf h
  case cflush | kvalloc | kvset => exact State.globalWord_memWf h
  case binit | barr | bexp | btest => exact State.barWord_memWf h fun _ _ ht => ht
  case bwait => exact execBwait_memWf h
  case kick => exact execKick_memWf h
  case ofence => exact execOfence_memWf h
  case blendStat | blendAcc => exact State.blend_memWf h
  case rank | unrank | attld | ldstat | mma | mmar | relset | lblset | lsum | ltest =>
    exact State.arrayWord_memWf h
  case ldstatSp => exact execLdstatSp_memWf h
  case swap => exact execSwap_memWf h
  case tclr | tclrFill => exact State.tclr_memWf h
  case tmovVat | tmovV => exact State.portWord_memWf h
  case trowMax | trowSum => exact State.trowWrite_memWf h
  case trowRescale | trowNorm => exact State.trowRead_memWf h
  case brp | bra | brx | callx | call | ret => exact State.branch_memWf h fun _ => rfl
  case brt => exact execBrt_memWf h
  case join => exact execJoin_memWf h
  case fork => exact execFork_memWf h
  case spawn => exact execSpawn_memWf h
  case endF => exact execEndF_memWf h
  case launch => exact execLaunch_memWf h
  case wset | wslide => exact State.window_memWf h
  case srd => exact execSrd_memWf h
  case swr => exact execSwr_memWf h
  case trap | brk => exact State.softTrap_memWf h
  case tret => exact execTret_memWf h
  case tlbiPage | tlbiCtx | tlbiAll => exact State.tlbi_memWf h
  case wtwake => exact execWtwake_memWf h
  case swrSkipcnt | swrFpctl | swrFpstat => exact State.swrOnce_memWf h fun _ _ ht => ht
  case swrTimer | swrTctl => exact State.swrOnce_memWf h fun _ _ ht => State.ite_memWf ht ht
  case swrSlim => exact execSwrSlim_memWf h
  case sfqheadWrite => exact execSfqheadWrite_memWf h
  -- The rows of events: no words.
  all_goals exact h

theorem nextOr_memWf {s : State} {o : Out} (h : s.MemWf) (ho : o.MemWf) : (nextOr s o).MemWf := by
  cases o with
  | next t => exact ho
  | fault _ => exact h
  | refused _ => exact h

theorem State.unitsPass_memWf {s : State} (h : s.MemWf) : s.unitsPass.MemWf := by
  have h1 : (nextOr s (execInterlockResult 0 s)).MemWf := nextOr_memWf h (execInterlockResult_memWf h)
  have h2 := State.arrayComplete_memWf (State.arrayChunk_memWf (State.complete_memWf
    (k := (nextOr s (execInterlockResult 0 s)).firstReady.getD 0) h1))
  have h3 := h2.of_mem_eq (((State.kickComplete_mem _).trans (State.blendComplete_mem _)).trans
    (State.portComplete_mem _))
  exact State.folEnter_memWf (State.rqSegment_memWf (State.rqBegin_memWf h3))

theorem State.drainWave_memWf {n : Nat} {s : State} (h : s.MemWf) : (State.drainWave n s).MemWf := by
  induction n generalizing s with
  | zero => exact h
  | succ n ih =>
    simp only [State.drainWave]
    split
    · exact h
    · have hu : s.unitsPass.MemWf := State.unitsPass_memWf h
      split
      · exact hu
      · exact ih hu

theorem State.issueHere_memWf {s : State} (h : s.MemWf) : s.issueHere.MemWf := by
  unfold State.issueHere
  split
  · exact h
  · exact nextOr_memWf h (issueWord_memWf h)

theorem State.stepWave_memWf {s : State} (h : s.MemWf) : s.stepWave.MemWf := by
  have h1 (t : State) (ht : t.MemWf) : State.MemWf (if t.wave.cur.isSome then t else nextOr t t.nextSet) :=
    State.ite_memWf ht (nextOr_memWf ht (State.nextSet_memWf ht))
  simp only [State.stepWave]
  refine State.ite_memWf (h1 _ h) (State.ite_memWf h (State.drainWave_memWf (State.issueHere_memWf (h1 _ h))))

@[simp] theorem State.countRetired_mem (s : State) (id : Nat) : (s.countRetired id).mem = s.mem := by
  simp only [State.countRetired]
  split <;> simp

@[simp] theorem State.countStep_mem (s : State) (id : Nat) : (s.countStep id).mem = s.mem := by
  rfl

@[simp] theorem State.closeStep_mem (s : State) (id i : Nat) : (s.closeStep id i).mem = s.mem := by
  rfl

theorem State.endGroups_memWf {s : State} {id : Nat} (h : s.MemWf) : (s.endGroups id).MemWf :=
  State.foldl_memWf h (fun _ _ ht => State.ite_memWf (nextOr_memWf ht (execGroupEnd_memWf ht)) ht) _

theorem State.endStep_memWf {s : State} {id i : Nat} (h : s.MemWf) : (s.endStep id i).MemWf :=
  State.ite_memWf h (State.endGroups_memWf (h.of_mem_eq (by simp)))

@[simp] theorem State.cooperAll_mem (n : Nat) (s : State) : (State.cooperAll n s).mem = s.mem := by
  induction n generalizing s with
  | zero => rfl
  | succ n ih =>
    simp only [State.cooperAll]
    split <;> simp [ih]

theorem State.detStep_memWf {s : State} {id : Nat} (h : s.MemWf) : (s.detStep id).MemWf := by
  have h0 : State.MemWf (if (s.launchOf id).stepOpen then s else State.cooperAll 33 s) :=
    State.ite_memWf h (h.of_mem_eq (State.cooperAll_mem ..))
  simp only [State.detStep]
  split
  · exact h0
  · have h1 := fun w => h0.of_mem_eq (State.focusWave_mem _ w)
    exact State.endStep_memWf (State.ite_memWf (State.drainWave_memWf (h1 _))
      (State.ite_memWf (h1 _) (State.stepWave_memWf (h1 _))))

theorem execDetStep_memWf {s : State} (h : s.MemWf) : (execDetStep s).MemWf := by
  unfold execDetStep
  split
  · exact h
  · split
    · exact State.detStep_memWf h
    · exact h

/-! #### Moves between tiers -/

@[simp] theorem State.withdrawLeaf_memWf {s : State} {ctx page slot leaf : Nat} (h : s.MemWf) :
    (s.withdrawLeaf ctx page slot leaf).MemWf := State.wrN_memWf h

@[simp] theorem State.takeFrame_mem (s : State) (d frame : Nat) : (s.takeFrame d frame).mem = s.mem := by
  rfl

@[simp] theorem State.beginMove_memWf {s : State} {m : Move} {slot : Nat} (h : s.MemWf) :
    (s.beginMove m slot).MemWf := by
  simp [State.beginMove, State.MemWf, h]

theorem execSoleraPromote_memWf {ctx page frame : Nat} {s : State} (h : s.MemWf) :
    (execSoleraPromote ctx page frame s).MemWf := by
  simp only [execSoleraPromote]
  repeat' split
  all_goals simp [State.MemWf, h]

theorem execSoleraDemote_memWf {ctx page frame : Nat} {s : State} (h : s.MemWf) :
    (execSoleraDemote ctx page frame s).MemWf := by
  simp only [execSoleraDemote]
  repeat' split
  all_goals simp [State.MemWf, h]

@[simp] theorem State.retagFrame_mem (s : State) (dst : Nat) : (s.retagFrame dst).mem = s.mem := by
  refine State.foldl_mem (fun s i => ?_) _ _
  split <;> rfl

@[simp] theorem State.noteSource_mem (s : State) (m : Move) : (s.noteSource m).mem = s.mem := by
  rfl

@[simp] theorem State.healFrame_mem (s : State) (dst : Nat) : (s.healFrame dst).mem = s.mem := by
  rfl

/-- Copying a frame keeps the canonical form of memory (22 R403). -/
theorem Memory.wf_copyFrame {m : Memory} (src dst : Nat) (h : m.wf = true) : (copyFrame m src dst).wf = true :=
  swf_foldl_sput _ _ _ (swf_sclear dst 65536 h)

theorem Out.nextFresh_memWf {s : State} {n : Nat} (h : s.MemWf) : Out.MemWf (.next { s with fresh := n }) := h

theorem State.writeLeaf_memWf {o : Option Nat} {s : State} {v : Nat} (h : s.MemWf) :
    State.MemWf (match o with
      | some a => s.wrN a v 8
      | none => s) := by
  cases o with
  | none => exact h
  | some a => exact State.wrN_memWf h

/-- A move reaches memory twice: it copies the frame, then rewrites the page's leaf entry. -/
theorem execMoveInstall_memWf {ctx page : Nat} {s : State} (h : s.MemWf) : (execMoveInstall ctx page s).MemWf := by
  unfold execMoveInstall
  cases s.moves.find? fun m => m.ctx == ctx && m.page == page with
  | none => exact h
  | some m =>
    cases hb : s.badSource m with
    | some p =>
      simp -zeta only [hb]
      exact Out.nextFresh_memWf (State.unitLost_memWf (h.of_mem_eq (State.noteSource_mem s m)))
    | none =>
      have hcopy : (copyFrame s.mem (entFrame m.srcLeaf.toNat) (m.dst * 65536)).wf = true :=
        Memory.wf_copyFrame _ _ h
      simp -zeta only [hb]
      exact Out.nextFresh_memWf <| State.wakePage_memWf <| State.MemWf.of_mem_eq
        ((State.writeLeaf_memWf (State.MemWf.of_mem_eq (State.MemWf.of_mem_eq hcopy (State.healFrame_mem _ _))
          (State.retagFrame_mem _ _))).of_mem_eq (State.freeFrame_mem _ _ _)) (State.clearPage_mem _ _ _)

@[simp] theorem State.unitDead_memWf {s : State} {p : Nat} (h : s.MemWf) : (s.unitDead p).MemWf := by
  refine State.foldl_memWf ?_ (fun _ _ ht => State.pageLost_memWf ht) _
  exact (State.unitEvent_memWf h).of_mem_eq (State.markBad_mem ..)

@[simp] theorem State.readUnit_memWf {s : State} {u : Nat} (h : s.MemWf) : (s.readUnit u).MemWf := by
  simp only [State.readUnit]
  repeat' split
  all_goals simp [State.MemWf, h]

@[simp] theorem State.loseDead_memWf {s : State} (h : s.MemWf) : s.loseDead.MemWf :=
  State.foldl_memWf (s := { s with deadUnits := [] }) h (fun _ _ ht => State.unitDead_memWf ht) _

@[simp] theorem State.postRetries_memWf {s : State} (h : s.MemWf) : s.postRetries.MemWf :=
  State.foldl_memWf (s := { s with retried := [] }) h (fun _ _ ht => State.unitEvent_memWf ht) _

theorem execModuleTierRead_memWf {addr n : Nat} {s : State} (h : s.MemWf) : (execModuleTierRead addr n s).MemWf :=
  State.foldl_memWf h (fun _ _ ht => State.readUnit_memWf ht) (unitsOf addr n)

@[simp] theorem State.writeUnit_memWf {s : State} {a : Nat} {bs : List Byte} {u : Nat} (h : s.MemWf) :
    (s.writeUnit a bs u).MemWf := by
  simp only [State.writeUnit]
  repeat' split
  all_goals simp [State.MemWf, h]

theorem execModuleTierWrite_memWf {addr : Nat} {bytes : List Byte} {s : State} (h : s.MemWf) :
    (execModuleTierWrite addr bytes s).MemWf :=
  State.foldl_memWf h (fun _ _ ht => State.writeUnit_memWf ht) (unitsOf addr bytes.length)

@[simp] theorem State.poolMet_mem (s : State) (ctx num : Nat) : (s.poolMet ctx num).mem = s.mem := by
  unfold State.poolMet
  split <;> simp

@[simp] theorem State.poolCtl_memWf {s : State} {p : Nat} {act req swp : Bool} (h : s.MemWf) :
    (s.poolCtl p act req swp).MemWf := State.wrN_memWf h

theorem State.foldBlocks_memWf {s : State} {ctx p : Nat} {f : State → Nat → Nat → Nat → State} (h : s.MemWf)
    (hf : ∀ t tier k a, t.MemWf → (f t tier k a).MemWf) : (s.foldBlocks ctx p f).MemWf := by
  refine State.foldl_memWf h (fun t tier ht => State.foldl_memWf ht (fun t k ht => ?_) _) _
  split
  · exact ht.of_mem_eq (State.blockMet_mem ..)
  · exact hf _ _ _ _ ht

theorem execFiningStart_memWf {ctx pool : Nat} {s : State} (h : s.MemWf) : (execFiningStart ctx pool s).MemWf := by
  simp only [execFiningStart]
  split
  · exact h.of_mem_eq (State.poolMet_mem ..)
  · split
    · exact State.wrN_memWf (State.foldBlocks_memWf (State.poolCtl_memWf h) fun _ _ _ _ ht => State.setMark_memWf ht)
    · exact h

@[simp] theorem State.markRoots_memWf {s : State} {ctx p pool : Nat} (h : s.MemWf) :
    (s.markRoots ctx p pool).MemWf := by
  refine State.foldl_memWf h (fun t i ht => ?_) _
  simp only
  split
  · refine State.foldl_memWf ht (fun t j ht => ?_) _
    split <;> simp [State.MemWf, ht]
  · simp [State.MemWf, ht]

@[simp] theorem State.drainLog_memWf {s : State} {ctx p pool : Nat} {x : Pool} (h : s.MemWf) :
    (s.drainLog ctx p pool x).MemWf :=
  State.foldl_memWf h (fun _ _ ht => State.markLogged_memWf ht) (List.range _)

theorem execFiningMark_memWf {ctx pool : Nat} {s : State} (h : s.MemWf) :
    (execFiningMark ctx pool s).MemWf := by
  unfold execFiningMark
  repeat' split
  all_goals simp [State.MemWf, h]

theorem execFiningClose_memWf {ctx pool : Nat} {s : State} (h : s.MemWf) :
    (execFiningClose ctx pool s).MemWf := by
  unfold execFiningClose
  repeat' split
  all_goals simp [State.MemWf, h]

theorem State.sweepBlock_memWf {s : State} {p tier k a : Nat} (h : s.MemWf) : (s.sweepBlock p tier k a).MemWf :=
  State.ite_memWf (State.wrN_memWf (State.wrN_memWf (State.wrN_memWf h))) h

theorem execFiningSweep_memWf {ctx pool : Nat} {s : State} (h : s.MemWf) : (execFiningSweep ctx pool s).MemWf := by
  simp only [execFiningSweep]
  split
  · exact h.of_mem_eq (State.poolMet_mem ..)
  · split
    · exact State.wrN_memWf (State.poolCtl_memWf
        (State.foldBlocks_memWf (State.poolCtl_memWf h) fun _ _ _ _ ht => State.sweepBlock_memWf ht))
    · exact h

/-! #### Contexts, queues, roots, pools and hardware errors -/

theorem execContextCreate_memWf {ctx : Nat} {ptroot tdtbase : DWord} {tdtcnt : Nat} {save spill : DWord}
    {s : State} (h : s.MemWf) : (execContextCreate ctx ptroot tdtbase tdtcnt save spill s).MemWf := by
  simp only [execContextCreate]
  split <;> simp [State.MemWf, h]

theorem execQueueCreate_memWf {ctx queue addr : Nat} {s : State} (h : s.MemWf) :
    (execQueueCreate ctx queue addr s).MemWf := by
  unfold execQueueCreate
  split <;> simp [State.MemWf, h]

theorem execRootInstall_memWf {ctx : Nat} {cap : Quad} {s : State} (h : s.MemWf) :
    (execRootInstall ctx cap s).MemWf := by
  unfold execRootInstall
  split <;> simp [State.MemWf, h]

theorem execPoolRegister_memWf {ctx pool : Nat} {addr : DWord} {s : State} (h : s.MemWf) :
    (execPoolRegister ctx pool addr s).MemWf := by
  unfold execPoolRegister
  split <;> simp [State.MemWf, h]

@[simp] theorem State.grantFrame_memWf {s : State} {f : Nat} (h : s.MemWf) : (s.grantFrame f).MemWf := by
  simpa [State.grantFrame, State.MemWf, Memory.wf] using swf_sclear f 65536 h

theorem State.nextTable_memWf {s t : State} {level va table n : Nat} (h : s.MemWf)
    (e : s.nextTable level va table = some (n, t)) : t.MemWf := by
  simp only [State.nextTable] at e
  split at e
  · cases e
    exact State.wrN_memWf (State.grantFrame_memWf h)
  · split at e
    · cases e
      exact h
    · cases e

theorem State.mapCode_memWf {s t : State} {ctx va frame : Nat} (h : s.MemWf)
    (e : s.mapCode ctx va frame = some t) : t.MemWf := by
  simp only [State.mapCode] at e
  split at e
  · cases e
  · next e1 =>
    split at e
    · cases e
    · next e2 =>
      split at e
      · cases e
      · next e3 =>
        cases e
        exact State.wrN_memWf
          (State.nextTable_memWf (State.nextTable_memWf (State.nextTable_memWf h e1) e2) e3)

theorem State.placePage_memWf {s t : State} {ctx va i : Nat} {bs : List Byte} (h : s.MemWf)
    (e : s.placePage ctx va bs i = some t) : t.MemWf :=
  State.mapCode_memWf (State.wr_memWf (State.grantFrame_memWf h)) e

theorem State.placeImage_memWf {s t : State} {ctx va n : Nat} {bs : List Byte} (h : s.MemWf)
    (e : s.placeImage ctx va bs n = some t) : t.MemWf := by
  induction n generalizing t with
  | zero => cases e; exact h
  | succ n ih =>
    rw [State.placeImage, List.range_succ, List.foldl_append] at e
    obtain ⟨u, eu, et⟩ := Option.bind_eq_some_iff.mp e
    exact State.placePage_memWf (ih eu) et

theorem State.registerObj_memWf {s t : State} {ctx handle a : Nat} (h : s.MemWf)
    (e : s.registerObj ctx handle a = some t) : t.MemWf := by
  unfold State.registerObj at e
  split at e
  · cases e
  · split at e
    · cases e
    · extract_lets bs at e
      split at e
      · cases e
      · split at e
        · cases e
        · obtain ⟨u, eu, rfl⟩ := Option.map_eq_some_iff.mp e
          have hu : u.MemWf := State.placeImage_memWf h eu
          exact hu

theorem execCodeObjectRegister_memWf {ctx handle addr : Nat} {s : State} (h : s.MemWf) :
    (execCodeObjectRegister ctx handle addr s).MemWf := by
  unfold execCodeObjectRegister
  split
  · exact h
  · split
    · exact h
    · next t e =>
      have ht : t.MemWf := State.registerObj_memWf h e
      exact ht

theorem State.meetAt_memWf {s : State} {n wid : Nat} {i : TrapInfo} (h : s.MemWf) : (s.meetAt n wid i).MemWf := by
  have hm : (s.atCore n fun x => (x.focusWave wid).meetError i).MemWf :=
    State.atCore_memWf h fun t ht => State.meetError_memWf (ht.of_mem_eq (State.focusWave_mem t wid))
  exact State.ite_memWf hm (hm.of_mem_eq (State.focusWave_mem ..))

@[simp] theorem State.hwError_memWf {s : State} {met : Bool} {n code : Nat} (h : s.MemWf) :
    (s.hwError met n code).MemWf :=
  State.ite_memWf (State.postSteward_memWf h) (State.foldl_memWf h (fun _ _ ht => State.meetAt_memWf ht) _)

theorem execHardwareError_memWf {u : HwUnit} {s : State} (h : s.MemWf) : (execHardwareError u s).MemWf := by
  unfold execHardwareError
  split <;> simp [State.MemWf, h]

/-! #### The package: host, links, power and boot -/

@[simp] theorem State.onMgmt_mem (s : State) (f : Mgmt → Mgmt) : (s.onMgmt f).mem = s.mem := by
  rfl

@[simp] theorem State.wakeUp_mem (s : State) : s.wakeUp.mem = s.mem := by
  simp [State.wakeUp]

@[simp] theorem State.busWrite_memWf {s : State} {a : Nat} {bs : List Byte} (h : s.MemWf) :
    (s.busWrite a bs).MemWf :=
  State.ite_memWf (State.foldl_memWf h (fun _ _ ht => State.writeUnit_memWf ht) _) (State.wr_memWf h)

@[simp] theorem State.busRead_memWf {s : State} {a n : Nat} (h : s.MemWf) : (s.busRead a n).MemWf :=
  State.ite_memWf (State.foldl_memWf h (fun _ _ ht => State.readUnit_memWf ht) _) h

theorem State.busDo_memWf {s : State} {a : Nat} {op : BusOp} (h : s.MemWf) : (s.busDo a op).1.MemWf := by
  cases op with
  | read n => exact State.busRead_memWf h
  | write bs => exact State.busWrite_memWf h
  | atomic t o x y => exact State.busWrite_memWf h
  | linkError => exact h

@[simp] theorem State.errorReply_mem (s : State) : s.errorReply.mem = s.mem := by
  rfl

theorem State.busAccess_memWf {s : State} {a : Nat} {op : BusOp} {k : State → State} (h : s.MemWf)
    (hk : ∀ t, t.MemWf → (k t).MemWf) : (s.busAccess a op k).MemWf := by
  have hw : s.wakeUp.MemWf := h.of_mem_eq (State.wakeUp_mem s)
  refine Out.ite_memWf h <| Out.ite_memWf hw <| Out.ite_memWf trivial <| Out.ite_memWf ?_ ?_
  · exact State.busRead_memWf hw
  · exact hk _ (State.busDo_memWf hw)

theorem execHostAccess_memWf {addr : Nat} {op : BusOp} {s : State} (h : s.MemWf) :
    (execHostAccess addr op s).MemWf :=
  Out.ite_memWf (h.of_mem_eq (State.wakeUp_mem s)) (State.busAccess_memWf h fun _ ht => ht)

theorem execTrellisAccess_memWf {device addr : Nat} {op : BusOp} {s : State} (h : s.MemWf) :
    (execTrellisAccess device addr op s).MemWf :=
  Out.ite_memWf h (State.busAccess_memWf h fun _ ht => ht)

theorem execRdmaMessage_memWf {addr : Nat} {op : BusOp} {flag : Option (Nat × DWord)} {s : State} (h : s.MemWf) :
    (execRdmaMessage addr op flag s).MemWf := by
  refine Out.ite_memWf h ?_
  split
  · exact State.busAccess_memWf h fun _ ht => ht
  · exact Out.ite_memWf trivial (State.busAccess_memWf h fun _ ht => State.busWrite_memWf ht)

theorem execDeviceLeavesDomain_memWf {device : Nat} {s : State} (h : s.MemWf) :
    (execDeviceLeavesDomain device s).MemWf := by
  unfold execDeviceLeavesDomain
  split <;> simp [State.MemWf, h]

theorem execPortHalfWidth_memWf {port lanes : Nat} {s : State} (h : s.MemWf) :
    (execPortHalfWidth port lanes s).MemWf := by
  unfold execPortHalfWidth
  split <;> simp [State.MemWf, h]

theorem execPowerControlWrite_memWf {v : Word} {s : State} (h : s.MemWf) :
    (execPowerControlWrite v s).MemWf := by
  simp [execPowerControlWrite, State.MemWf, h]

theorem execRetryWrite_memWf {v : Word} {s : State} (h : s.MemWf) : (execRetryWrite v s).MemWf := by
  simp [execRetryWrite, State.MemWf, h]

theorem execEvringConfigWrite_memWf {base : Bool} {v : DWord} {s : State} (h : s.MemWf) :
    (execEvringConfigWrite base v s).MemWf := by
  simp [execEvringConfigWrite, State.MemWf, h]

theorem execEvheadWrite_memWf {v : Word} {s : State} (h : s.MemWf) : (execEvheadWrite v s).MemWf := by
  simp [execEvheadWrite, State.MemWf, h]

theorem execAttestationRequest_memWf {v : Word} {s : State} (h : s.MemWf) :
    (execAttestationRequest v s).MemWf := by
  simp only [execAttestationRequest]
  repeat' split
  all_goals simp [State.MemWf, h]

theorem execMgmtRegisterWrite_memWf {off : Nat} {op : BusOp} {s : State} (h : s.MemWf) :
    (execMgmtRegisterWrite off op s).MemWf := by
  unfold execMgmtRegisterWrite
  split <;> simp [State.MemWf, h]

@[simp] theorem State.saveSteward_mem (s : State) : s.saveSteward.mem = s.mem := by
  unfold State.saveSteward
  repeat' split
  all_goals simp

theorem execPowerStateEnter_memWf {d : BitVec 2} {s : State} (h : s.MemWf) :
    (execPowerStateEnter d s).MemWf := by
  unfold execPowerStateEnter
  repeat' split
  all_goals simp [State.MemWf, h]

theorem execPowerWake_memWf {s : State} (h : s.MemWf) : (execPowerWake s).MemWf := by
  simp [execPowerWake, State.MemWf, h]

/-- Device memory takes the addresses of its new number; the canonical form stays (18 R318). -/
@[simp] theorem State.renumber_memWf {s : State} {n : Nat} (h : s.MemWf) : (s.renumber n).MemWf := by
  simp only [State.renumber]
  split
  · exact h
  · exact swf_foldl_sput _ _ _ (swf_filter _ h)

@[simp] theorem State.coldStart_memWf {s : State} (h : s.MemWf) : s.coldStart.MemWf :=
  swf_filter _ (State.renumber_memWf h)

theorem execResetWrite_memWf {v : Word} {s : State} (h : s.MemWf) : (execResetWrite v s).MemWf := by
  unfold execResetWrite
  split <;> simp [State.MemWf, h]

@[simp] theorem State.loadSteward_mem (s : State) : s.loadSteward.mem = s.mem := by
  rfl

@[simp] theorem State.trainModules_memWf {s : State} (h : s.MemWf) : s.trainModules.MemWf :=
  swf_sclear _ _ h

@[simp] theorem State.bootEffect_memWf {s : State} {step path : Nat} (h : s.MemWf) :
    (s.bootEffect step path).MemWf := by
  unfold State.bootEffect
  repeat' split
  all_goals simp [State.MemWf, h]

@[simp] theorem State.bootBegin_mem (s : State) : s.bootBegin.mem = s.mem := by
  rfl

@[simp] theorem State.bootDone_memWf {s : State} {p : Nat} (h : s.MemWf) : (s.bootDone p).MemWf :=
  State.bootEffect_memWf h

@[simp] theorem State.bootFail_memWf {s : State} {p : Nat} {code : Word} (h : s.MemWf) :
    (s.bootFail p code).MemWf := by
  unfold State.bootFail
  split <;> simp [State.MemWf, h]

theorem execBoot_memWf {s : State} (h : s.MemWf) : (execBoot s).MemWf := by
  unfold execBoot
  repeat' split
  all_goals simp [State.MemWf, h]

/-! #### Every row of the instruction table -/

theorem execEvent_memWf {i : Instr} {s : State} (hi : isEvent i = true) (h : s.MemWf) :
    Out.MemWf (exec i s) := by
  cases i with
  | clauseDecode => exact execClauseDecode_memWf h
  | issueStarvationPromote => exact execIssueStarvationPromote_memWf h
  | vatStarvationPromote | binTimeout | preemptRequest | collectorWindowClose | clockThrottle => exact h
  | detStep => exact execDetStep_memWf h
  | interlockResult => exact execInterlockResult_memWf h
  | accessComplete => exact execAccessComplete_memWf h
  | engineCommandComplete => exact execEngineCommandComplete_memWf h
  | mmaChunk => exact State.arrayChunk_memWf h
  | homeRefusal => exact execHomeRefusal_memWf h
  | timerExpire => exact execTimerExpire_memWf h
  | boundaryTrap => exact execBoundaryTrap_memWf h
  | hardwareError => exact execHardwareError_memWf h
  | contextCreate => exact execContextCreate_memWf h
  | codeObjectRegister => exact execCodeObjectRegister_memWf h
  | queueCreate => exact execQueueCreate_memWf h
  | rootInstall => exact execRootInstall_memWf h
  | poolRegister => exact execPoolRegister_memWf h
  | launchAccept => exact execLaunchAccept_memWf h
  | groupStart => exact execGroupStart_memWf h
  | clusterStart => exact execClusterStart_memWf h
  | groupEnd => exact execGroupEnd_memWf h
  | groupFail => exact execGroupFail_memWf h
  | cooperLaunch => exact execCooperLaunch_memWf h
  | binSteal => exact execBinSteal_memWf h
  | stealQueuePost => exact execStealQueuePost_memWf h
  | racking => exact execRacking_memWf h
  | preemptAck | coreRetire => exact State.acknowledge_memWf h
  | restore => exact execRestore_memWf h
  | tlbiAck => exact execTlbiAck_memWf h
  | followOnEntry => exact State.folEnter_memWf h
  | decanterRequestBegin => exact State.rqBegin_memWf h
  | decanterSegment => exact State.rqSegment_memWf h
  | soleraPromote => exact execSoleraPromote_memWf h
  | soleraDemote => exact execSoleraDemote_memWf h
  | moveInstall => exact execMoveInstall_memWf h
  | moduleTierRead => exact execModuleTierRead_memWf h
  | moduleTierWrite => exact execModuleTierWrite_memWf h
  | finingStart => exact execFiningStart_memWf h
  | finingMark => exact execFiningMark_memWf h
  | finingClose => exact execFiningClose_memWf h
  | finingSweep => exact execFiningSweep_memWf h
  | hostAccess => exact execHostAccess_memWf h
  | trellisAccess => exact execTrellisAccess_memWf h
  | rdmaMessage => exact execRdmaMessage_memWf h
  | portHalfWidth => exact execPortHalfWidth_memWf h
  | powerControlWrite => exact execPowerControlWrite_memWf h
  | retryWrite => exact execRetryWrite_memWf h
  | resetWrite => exact execResetWrite_memWf h
  | evringConfigWrite => exact execEvringConfigWrite_memWf h
  | evheadWrite => exact execEvheadWrite_memWf h
  | attestationRequest => exact execAttestationRequest_memWf h
  | mgmtRegisterWrite => exact execMgmtRegisterWrite_memWf h
  | powerStateEnter => exact execPowerStateEnter_memWf h
  | powerWake => exact execPowerWake_memWf h
  | boot => exact execBoot_memWf h
  | powerLoss => exact State.coldStart_memWf h
  | deviceLeavesDomain => exact execDeviceLeavesDomain_memWf h
  | _ => cases hi

/-- DET_STEP and the issue port give an instruction word the same meaning (09 R209). -/
theorem exec_eq_issueWord {i : Instr} (hi : isEvent i = false) (s : State) : exec i s = issueWord i s := by
  cases i
  case clauseDecode | issueStarvationPromote | vatStarvationPromote | detStep | interlockResult |
      accessComplete | engineCommandComplete | mmaChunk | homeRefusal | timerExpire | boundaryTrap |
      hardwareError | contextCreate | codeObjectRegister | queueCreate | rootInstall | poolRegister |
      launchAccept | groupStart | clusterStart | groupEnd | groupFail | binTimeout | cooperLaunch |
      binSteal | stealQueuePost | racking | preemptRequest | preemptAck | restore | tlbiAck |
      followOnEntry | decanterRequestBegin | decanterSegment | collectorWindowClose | soleraPromote |
      soleraDemote | moveInstall | moduleTierRead | moduleTierWrite | finingStart | finingMark |
      finingClose | finingSweep | hostAccess | trellisAccess | rdmaMessage | portHalfWidth |
      powerControlWrite | retryWrite | resetWrite | evringConfigWrite | evheadWrite |
      attestationRequest | mgmtRegisterWrite | powerStateEnter | powerWake | clockThrottle | boot |
      coreRetire | powerLoss | deviceLeavesDomain => cases hi
  all_goals rfl

theorem exec_memWf {i : Instr} {s : State} (h : s.MemWf) : Out.MemWf (exec i s) := by
  cases hi : isEvent i with
  | false => exact exec_eq_issueWord hi s ▸ issueWord_memWf h
  | true => exact execEvent_memWf hi h

/-! #### The step -/

@[simp] theorem State.nextCore_mem (s : State) : s.nextCore.mem = s.mem := by
  simp only [State.nextCore]
  split <;> simp

@[simp] theorem State.takeWave_mem (s : State) : s.takeWave.mem = s.mem := by
  unfold State.takeWave
  split <;> simp

@[simp] theorem State.rotate_mem (s : State) : s.rotate.mem = s.mem := by
  simp [State.rotate]

theorem State.serve_memWf {s : State} {es : List Instr} (h : s.MemWf) : (s.serve es).MemWf := by
  induction es generalizing s with
  | nil => exact h
  | cons e es ih =>
    have he : Out.MemWf (exec e s) := exec_memWf h
    unfold State.serve
    split
    · next t et =>
      rw [et] at he
      split
      · exact ih he
      · exact he
    · trivial
    · trivial

@[simp] theorem State.chores_memWf {s : State} (h : s.MemWf) : s.chores.MemWf :=
  State.settleLosses_memWf (State.loseDead_memWf (State.postRetries_memWf h))

theorem State.between_memWf {s : State} (h : s.MemWf) : s.between.MemWf := by
  have hc : s.chores.MemWf := State.chores_memWf h
  simp only [State.between]
  split
  · split
    · exact State.serve_memWf hc
    · exact exec_memWf hc
  · exact hc.of_mem_eq (State.rotate_mem _)

theorem State.issueNext_memWf {s : State} (h : s.MemWf) : s.issueNext.MemWf := by
  unfold State.issueNext
  split
  · exact exec_memWf h
  · exact exec_memWf h

theorem State.advance_memWf {s : State} (h : s.MemWf) : s.advance.MemWf :=
  Out.ite_memWf (exec_memWf h) <| Out.ite_memWf h <| Out.ite_memWf h <| Out.ite_memWf (exec_memWf h) <|
    Out.ite_memWf (State.issueNext_memWf h) <| Out.ite_memWf (exec_memWf h) (State.between_memWf h)

theorem step_memWf {s : State} (h : s.MemWf) : Out.MemWf (step s) := by
  unfold step
  split
  · exact State.advance_memWf h
  · exact Out.ite_memWf (exec_memWf h) h
  · exact State.advance_memWf h

/-- Settles O59: every function by which a step reaches memory keeps it in canonical form. -/
theorem memWfStep : Obligations.MemWfStep := by
  intro s t e h
  have ht : Out.MemWf (step s) := step_memWf h
  rwa [e] at ht

end Sys2Proof.Machine
end

section
/-!
### Where a result goes, and what it leaves (O5)

A word that writes a result touches its wave in two moves: the write of the destination
(`Wave.writeDest`) and the passage to the next word (`Wave.next`). Of a fibre the first leaves
`Fibre.written` of what was there, for an active lane, and the second keeps the whole register file
(`Wave.sameRegs_next`). Of the wave's own registers both keep `Wave.SameSpecials`.
-/

namespace Sys2Proof.Machine

open Sys2Proof

/-! #### Halves of a 64-bit value (03 R54) -/

theorem lo32_eq_setWidth (x : DWord) : lo32 x = x.setWidth 32 := by
  apply BitVec.eq_of_toNat_eq
  simp [lo32]

theorem hi32_eq_setWidth (x : DWord) : hi32 x = (x >>> 32).setWidth 32 := by
  apply BitVec.eq_of_toNat_eq
  simp [hi32, Nat.shiftRight_eq_div_pow]

/-! #### One fibre -/

theorem Fibre.SameRegs.reg {f g : Fibre} (h : f.SameRegs g) (r : Nat) : g.reg r = f.reg r := by
  simp only [Fibre.reg, h.v]

theorem Fibre.SameRegs.pred {f g : Fibre} (h : f.SameRegs g) (p : Nat) : g.pred p = f.pred p := by
  simp only [Fibre.pred, h.preds]

theorem Fibre.SameRegs.tag {f g : Fibre} (h : f.SameRegs g) (r : Nat) : g.tag r = f.tag r := by
  simp only [Fibre.tag, h.vtags]

theorem Fibre.reg_setPred (f : Fibre) (p r : Nat) (b : Bool) : (f.setPred p b).reg r = f.reg r := by
  unfold Fibre.setPred
  split <;> rfl

theorem Fibre.tag_setPred (f : Fibre) (p r : Nat) (b : Bool) : (f.setPred p b).tag r = f.tag r := by
  unfold Fibre.setPred
  split <;> rfl

/-- A written register takes the tag from its own quad and from no other (03 R56). -/
theorem Fibre.tag_putV (f : Fibre) (r q : Nat) (x : Word) :
    (f.putV r x).tag q = (f.tag q && !(r / 4 == q / 4)) := by
  show sget false (sput false f.vtags (r / 4) false) (q / 4) = _
  rw [sget_sput]
  by_cases h : r / 4 = q / 4 <;> simp [h, Fibre.tag]

/-- What stays of a fibre whose registers, predicates and tags a word writes: its window, stack, run state and
identifiers. -/
structure Fibre.SameSeat (f g : Fibre) : Prop where
  base   : g.base = f.base
  alloc  : g.alloc = f.alloc
  frames : g.frames = f.frames
  slim   : g.slim = f.slim
  run    : g.run = f.run
  fibid  : g.fibid = f.fibid
  lvl    : g.lvl = f.lvl

theorem Fibre.SameSeat.refl (f : Fibre) : f.SameSeat f := ⟨rfl, rfl, rfl, rfl, rfl, rfl, rfl⟩

theorem Fibre.sameSeat_setPred (f : Fibre) (p : Nat) (b : Bool) : f.SameSeat (f.setPred p b) := by
  unfold Fibre.setPred
  split <;> exact ⟨rfl, rfl, rfl, rfl, rfl, rfl, rfl⟩

/-- An active fibre once its lane's value stands in the destination. -/
def Fibre.written (f : Fibre) (d : Dest) (x : DWord) : Fibre :=
  match d with
  | .v n => f.putV (f.base + n) (lo32 x)
  | .v64 n => (f.putV (f.base + n) (lo32 x)).putV (f.base + (n + 1)) (hi32 x)
  | .s _ => f
  | .p n => f.setPred n (x != 0)

theorem Fibre.reg_written (f : Fibre) (d : Dest) (x : DWord) (r : Nat) :
    (f.written d x).reg r = match d with
      | .v n => if r = f.base + n then x.setWidth 32 else f.reg r
      | .v64 n =>
        if r = f.base + n + 1 then (x >>> 32).setWidth 32
        else if r = f.base + n then x.setWidth 32 else f.reg r
      | .s _ => f.reg r
      | .p _ => f.reg r := by
  cases d with
  | v n => simp only [Fibre.written, Fibre.reg_putV, lo32_eq_setWidth, eq_comm]
  | v64 n => simp only [Fibre.written, Fibre.reg_putV, lo32_eq_setWidth, hi32_eq_setWidth, eq_comm, Nat.add_assoc]
  | s n => rfl
  | p n => exact Fibre.reg_setPred f n r _

theorem Fibre.pred_written (f : Fibre) (d : Dest) (x : DWord) (q : Nat) :
    (f.written d x).pred q = match d with
      | .p n => if q = n ∧ q ≠ 0 then x != 0 else f.pred q
      | .v _ => f.pred q
      | .v64 _ => f.pred q
      | .s _ => f.pred q := by
  cases d with
  | v n => rfl
  | v64 n => rfl
  | s n => rfl
  | p n => simp only [Fibre.written, Fibre.pred_setPred, eq_comm]

theorem Fibre.tag_written (f : Fibre) (d : Dest) (x : DWord) (r : Nat) :
    (f.written d x).tag r = match d with
      | .v n => f.tag r && !((f.base + n) / 4 == r / 4)
      | .v64 n => f.tag r && !((f.base + n) / 4 == r / 4 || (f.base + n + 1) / 4 == r / 4)
      | .s _ => f.tag r
      | .p _ => f.tag r := by
  cases d with
  | v n => simp only [Fibre.written, Fibre.tag_putV]
  | v64 n => simp only [Fibre.written, Fibre.tag_putV, Bool.not_or, Bool.and_assoc, Nat.add_assoc]
  | s n => rfl
  | p n => exact Fibre.tag_setPred f n r _

theorem Fibre.sameSeat_written (f : Fibre) (d : Dest) (x : DWord) : f.SameSeat (f.written d x) := by
  cases d with
  | v n => exact ⟨rfl, rfl, rfl, rfl, rfl, rfl, rfl⟩
  | v64 n => exact ⟨rfl, rfl, rfl, rfl, rfl, rfl, rfl⟩
  | s n => exact Fibre.SameSeat.refl f
  | p n => exact Fibre.sameSeat_setPred f n _

/-! #### The wave's lanes, S registers and special registers -/

/-- A result reaches the active lanes (05 R99). -/
theorem Wave.fib_writeDest (w : Wave) (lat : Nat) (d : Dest) (r : Nat → LaneRes) (l : Nat) :
    (w.writeDest lat d r).fib l
      = if (w.fib l).active then (w.fib l).written d (r l).val else w.fib l := by
  cases d with
  | v n => exact Wave.fib_writeV w lat n _ l
  | v64 n =>
    have hlow := Wave.fib_writeV w lat n (fun l => lo32 (r l).val) l
    show ((w.writeV lat n _).writeV lat (n + 1) _).fib l = _
    rw [Wave.fib_writeV, hlow]
    by_cases ha : (w.fib l).active = true
    · simp only [ha, if_true]
      exact if_pos ha
    · simp only [ha, if_false, Bool.false_eq_true]
  | s n =>
    have hlane : (w.writeDest lat (.s n) r).fib l = w.fib l := Wave.fib_writeS w lat n _ l
    rw [hlane]
    exact (ite_self _).symm
  | p n => exact Wave.fib_writeP w lat n _ l

theorem Wave.stags_writeS (w : Wave) (lat n q : Nat) (x : Word) (h : w.anyActive = true) :
    sget false (w.writeS lat n x).stags q = (sget false w.stags q && !(n / 4 == q)) := by
  unfold Wave.writeS
  simp only [h, if_true]
  show sget false (sput false (w.supersede [(RegFile.s, 0, n)]).stags (n / 4) false) q = _
  rw [Wave.supersede_stags, sget_sput]
  by_cases hq : n / 4 = q <;> simp [hq]

theorem Wave.writeV_s (w : Wave) (lat n : Nat) (val : Nat → Word) : (w.writeV lat n val).s = w.s :=
  Wave.supersede_s w _

theorem Wave.writeV_stags (w : Wave) (lat n : Nat) (val : Nat → Word) : (w.writeV lat n val).stags = w.stags :=
  Wave.supersede_stags w _

theorem Wave.writeP_s (w : Wave) (lat p : Nat) (val : Nat → Bool) : (w.writeP lat p val).s = w.s := by
  unfold Wave.writeP
  split
  · rfl
  · exact Wave.supersede_s w _

theorem Wave.writeP_stags (w : Wave) (lat p : Nat) (val : Nat → Bool) : (w.writeP lat p val).stags = w.stags := by
  unfold Wave.writeP
  split
  · rfl
  · exact Wave.supersede_stags w _

theorem Wave.sreg_writeDest (w : Wave) (lat : Nat) (d : Dest) (r : Nat → LaneRes) (m : Nat)
    (h : w.anyActive = true) :
    (w.writeDest lat d r).sreg m = match d with
      | .s n => if m = n then (r w.lowest).val.setWidth 32 else w.sreg m
      | .v _ => w.sreg m
      | .v64 _ => w.sreg m
      | .p _ => w.sreg m := by
  cases d with
  | v n => simp only [Wave.writeDest, Wave.sreg, Wave.writeV_s]
  | v64 n => simp only [Wave.writeDest, Wave.writeV64, Wave.sreg, Wave.writeV_s]
  | s n => simp only [Wave.writeDest, Wave.sreg_writeS w _ _ _ _ h, lo32_eq_setWidth, eq_comm]
  | p n => simp only [Wave.writeDest, Wave.sreg, Wave.writeP_s]

theorem Wave.stags_writeDest (w : Wave) (lat : Nat) (d : Dest) (r : Nat → LaneRes) (q : Nat)
    (h : w.anyActive = true) :
    sget false (w.writeDest lat d r).stags q = match d with
      | .s n => sget false w.stags q && !(n / 4 == q)
      | .v _ => sget false w.stags q
      | .v64 _ => sget false w.stags q
      | .p _ => sget false w.stags q := by
  cases d with
  | v n => simp only [Wave.writeDest, Wave.writeV_stags]
  | v64 n => simp only [Wave.writeDest, Wave.writeV64, Wave.writeV_stags]
  | s n => exact Wave.stags_writeS w lat n q _ h
  | p n => simp only [Wave.writeDest, Wave.writeP_stags]

/-- The special registers of a wave, its counters and its grant are the same. -/
structure Wave.SameSpecials (w v : Wave) : Prop where
  ctxcyc  : v.ctxcyc = w.ctxcyc
  retcnt  : v.retcnt = w.retcnt
  fpctl   : v.fpctl = w.fpctl
  fpstat  : v.fpstat = w.fpstat
  timer   : v.timer = w.timer
  tctl    : v.tctl = w.tctl
  tvec    : v.tvec = w.tvec
  tpc     : v.tpc = w.tpc
  tcause  : v.tcause = w.tcause
  tdet0   : v.tdet0 = w.tdet0
  tdet1   : v.tdet1 = w.tdet1
  tdet2   : v.tdet2 = w.tdet2
  chk     : v.chk = w.chk
  wchg    : v.wchg = w.wchg
  sctx    : v.sctx = w.sctx
  d       : v.d = w.d
  g       : v.g = w.g
  handler : v.handler = w.handler

theorem Wave.SameSpecials.refl (w : Wave) : w.SameSpecials w := by constructor <;> rfl

theorem Wave.SameSpecials.trans {u v w : Wave} (a : u.SameSpecials v) (b : v.SameSpecials w) : u.SameSpecials w :=
  ⟨b.1.trans a.1, b.2.trans a.2, b.3.trans a.3, b.4.trans a.4, b.5.trans a.5, b.6.trans a.6, b.7.trans a.7,
    b.8.trans a.8, b.9.trans a.9, b.10.trans a.10, b.11.trans a.11, b.12.trans a.12, b.13.trans a.13,
    b.14.trans a.14, b.15.trans a.15, b.16.trans a.16, b.17.trans a.17, b.18.trans a.18⟩

/-- The lanes, the S registers with their tags and the writes in flight are none of the special registers. -/
theorem Wave.sameSpecials_files (w : Wave) (lanes : List Fibre) (x : Regs) (tags : Flags) (board : List BoardEntry) :
    w.SameSpecials { w with lanes := lanes, s := x, stags := tags, board := board } := by constructor <;> rfl

theorem Wave.sameSpecials_supersede (w : Wave) (xs : List (RegFile × Nat × Nat)) :
    w.SameSpecials (w.supersede xs) := by
  unfold Wave.supersede
  split <;> constructor <;> rfl

theorem Wave.sameSpecials_writeV (w : Wave) (lat n : Nat) (val : Nat → Word) :
    w.SameSpecials (w.writeV lat n val) :=
  (Wave.sameSpecials_supersede w _).trans (Wave.sameSpecials_files _ _ _ _ _)

theorem Wave.sameSpecials_writeDest (w : Wave) (lat : Nat) (d : Dest) (r : Nat → LaneRes) :
    w.SameSpecials (w.writeDest lat d r) := by
  cases d with
  | v n => exact Wave.sameSpecials_writeV w lat n _
  | v64 n => exact (Wave.sameSpecials_writeV w lat n _).trans (Wave.sameSpecials_writeV _ lat (n + 1) _)
  | s n =>
    show w.SameSpecials (w.writeS lat n _)
    unfold Wave.writeS
    split
    · exact (Wave.sameSpecials_supersede w _).trans (Wave.sameSpecials_files _ _ _ _ _)
    · exact Wave.SameSpecials.refl w
  | p n =>
    show w.SameSpecials (w.writeP lat n _)
    unfold Wave.writeP
    split
    · exact Wave.SameSpecials.refl w
    · exact (Wave.sameSpecials_supersede w _).trans (Wave.sameSpecials_files _ _ _ _ _)

theorem Wave.closeClause_counts (w : Wave) : w.closeClause.ctxcyc = w.ctxcyc ∧ w.closeClause.retcnt = w.retcnt :=
  ⟨rfl, rfl⟩

theorem Wave.leaveClause_counts (w : Wave) : w.leaveClause.ctxcyc = w.ctxcyc ∧ w.leaveClause.retcnt = w.retcnt := by
  unfold Wave.leaveClause
  split <;> exact ⟨rfl, rfl⟩

theorem Wave.next_counts (w : Wave) (st : Stall) : (w.next st).ctxcyc = w.ctxcyc ∧ (w.next st).retcnt = w.retcnt := by
  unfold Wave.next
  simp only
  split
  · simp [Wave.closeClause_counts]
  · simp [Wave.leaveClause_counts]

theorem Wave.sameSpecials_next (w : Wave) (st : Stall) : w.SameSpecials (w.next st) :=
  have h := Wave.sameBut_next w st
  have hc := Wave.next_counts w st
  ⟨hc.1, hc.2, h.fpctl, h.fpstat, h.timer, h.tctl, h.tvec, h.tpc, h.tcause, h.tdet0, h.tdet1, h.tdet2, h.chk, h.wchg,
    h.sctx, h.d, h.g, h.handler⟩

theorem Wave.sameSpecials_meetMask (w : Wave) : w.SameSpecials w.meetMask := by constructor <;> simp

/-- Merging flags and counting the word change FPSTAT and RETCNT alone. -/
theorem Wave.SameSpecials.retired {w v u : Wave} {fl : Word} (hput : w.SameSpecials v)
    (hpass : (v.mergeFlags fl).SameSpecials u) :
    { w with fpstat := w.fpstat ||| fl, retcnt := w.retcnt + 1 }.SameSpecials { u with retcnt := v.retcnt + 1 } :=
  have hmerge : { w with fpstat := w.fpstat ||| fl, retcnt := w.retcnt + 1 }.SameSpecials
      { v with fpstat := v.fpstat ||| fl, retcnt := v.retcnt + 1 } :=
    { hput with fpstat := congrArg (· ||| fl) hput.fpstat, retcnt := congrArg (· + 1) hput.retcnt }
  hmerge.trans { hpass with retcnt := rfl }

/-! #### The word as a whole -/

/-- A word that changes only its wave, and retires or is issued, changes nothing outside the wave but the count of
free values used. -/
theorem State.finish_onWave_onWave (s : State) (st : Stall) (now : Bool) (f g : Wave → Wave) :
    ((s.onWave f).onWave g).finish st now
      = { s with
          wave := (((s.onWave f).onWave g).finish st now).wave
          fresh := (((s.onWave f).onWave g).finish st now).fresh } := rfl

section Wrote

variable (s : State) (st : Stall) (lat : Nat) (d : Dest) (val : Nat → DWord) (fl : Word)

/-- The issuing wave with the result in its destination, before the set passes on. -/
def State.placed : Wave := s.met.wave.writeDest lat d (fun l => { val := val l })

theorem State.wrote_wave : (s.wrote st lat d val fl).wave
    = { ((s.placed lat d val).mergeFlags fl).next st with retcnt := (s.placed lat d val).retcnt + 1 } := rfl

theorem State.sameRegs_wrote (l : Nat) :
    (if (s.wave.fib l).active then (s.wave.fib l).written d (val l) else s.wave.fib l).SameRegs
      ((s.wrote st lat d val fl).wave.fib l) := by
  have hput := Wave.fib_writeDest s.wave.meetMask lat d (fun l => { val := val l }) l
  rw [Wave.meetMask_fib] at hput
  rw [← hput]
  exact Wave.sameRegs_next ((s.placed lat d val).mergeFlags fl) st l

theorem State.sameSeat_wrote (l : Nat) : (s.wave.fib l).SameSeat ((s.wrote st lat d val fl).wave.fib l) := by
  have hkeep : (s.wave.fib l).SameSeat
      (if (s.wave.fib l).active then (s.wave.fib l).written d (val l) else s.wave.fib l) := by
    split
    · exact Fibre.sameSeat_written _ d _
    · exact Fibre.SameSeat.refl _
  have hnext := s.sameRegs_wrote st lat d val fl l
  exact ⟨hnext.base.trans hkeep.base, hnext.alloc.trans hkeep.alloc, hnext.frames.trans hkeep.frames,
    hnext.slim.trans hkeep.slim, hnext.run.trans hkeep.run, hnext.fibid.trans hkeep.fibid, hnext.lvl.trans hkeep.lvl⟩

theorem State.reg_wrote (l r : Nat) :
    ((s.wrote st lat d val fl).wave.fib l).reg r = match d with
      | .v n => if (s.wave.fib l).active = true ∧ r = (s.wave.fib l).base + n then (val l).setWidth 32
          else (s.wave.fib l).reg r
      | .v64 n =>
        if (s.wave.fib l).active = true ∧ r = (s.wave.fib l).base + n + 1 then (val l >>> 32).setWidth 32
        else if (s.wave.fib l).active = true ∧ r = (s.wave.fib l).base + n then (val l).setWidth 32
        else (s.wave.fib l).reg r
      | .s _ => (s.wave.fib l).reg r
      | .p _ => (s.wave.fib l).reg r := by
  rw [(s.sameRegs_wrote st lat d val fl l).reg]
  cases (s.wave.fib l).active
  · cases d <;> simp
  · cases d <;> simp [Fibre.reg_written]

theorem State.pred_wrote (l q : Nat) :
    ((s.wrote st lat d val fl).wave.fib l).pred q = match d with
      | .p n => if (s.wave.fib l).active = true ∧ q = n ∧ q ≠ 0 then val l != 0 else (s.wave.fib l).pred q
      | .v _ => (s.wave.fib l).pred q
      | .v64 _ => (s.wave.fib l).pred q
      | .s _ => (s.wave.fib l).pred q := by
  rw [(s.sameRegs_wrote st lat d val fl l).pred]
  cases (s.wave.fib l).active
  · cases d <;> simp
  · cases d <;> simp [Fibre.pred_written]

theorem State.tag_wrote (l r : Nat) :
    ((s.wrote st lat d val fl).wave.fib l).tag r = match d with
      | .v n => (s.wave.fib l).tag r && !((s.wave.fib l).active && ((s.wave.fib l).base + n) / 4 == r / 4)
      | .v64 n => (s.wave.fib l).tag r && !((s.wave.fib l).active
          && (((s.wave.fib l).base + n) / 4 == r / 4 || ((s.wave.fib l).base + n + 1) / 4 == r / 4))
      | .s _ => (s.wave.fib l).tag r
      | .p _ => (s.wave.fib l).tag r := by
  rw [(s.sameRegs_wrote st lat d val fl l).tag]
  cases (s.wave.fib l).active
  · cases d <;> simp
  · cases d <;> simp [Fibre.tag_written]

theorem State.s_wrote : (s.wrote st lat d val fl).wave.s = (s.placed lat d val).s := by
  rw [State.wrote_wave]
  exact (Wave.sameBut_next ((s.placed lat d val).mergeFlags fl) st).s

theorem State.stags_wrote : (s.wrote st lat d val fl).wave.stags = (s.placed lat d val).stags := by
  rw [State.wrote_wave]
  exact (Wave.sameBut_next ((s.placed lat d val).mergeFlags fl) st).stags

theorem State.sreg_wrote (m : Nat) (hact : s.wave.anyActive = true) :
    (s.wrote st lat d val fl).wave.sreg m = match d with
      | .s n => if m = n then (val s.wave.lowest).setWidth 32 else s.wave.sreg m
      | .v _ => s.wave.sreg m
      | .v64 _ => s.wave.sreg m
      | .p _ => s.wave.sreg m := by
  have h := Wave.sreg_writeDest s.wave.meetMask lat d (fun l => { val := val l }) m (s.wave.meetMask_anyActive.trans hact)
  simp only [Wave.sreg, Wave.meetMask_s, Wave.meetMask_lowest] at h
  rw [Wave.sreg, s.s_wrote st lat d val fl]
  exact h

theorem State.quadTag_wrote (q : Nat) (hact : s.wave.anyActive = true) :
    sget false (s.wrote st lat d val fl).wave.stags q = match d with
      | .s n => sget false s.wave.stags q && !(n / 4 == q)
      | .v _ => sget false s.wave.stags q
      | .v64 _ => sget false s.wave.stags q
      | .p _ => sget false s.wave.stags q := by
  have h := Wave.stags_writeDest s.wave.meetMask lat d (fun l => { val := val l }) q (s.wave.meetMask_anyActive.trans hact)
  simp only [Wave.meetMask_stags] at h
  rw [s.stags_wrote st lat d val fl]
  exact h

theorem State.sameSpecials_wrote :
    { s.wave with fpstat := s.wave.fpstat ||| fl, retcnt := s.wave.retcnt + 1 }.SameSpecials
      (s.wrote st lat d val fl).wave := by
  have hput : s.wave.SameSpecials (s.placed lat d val) :=
    (Wave.sameSpecials_meetMask s.wave).trans (Wave.sameSpecials_writeDest s.wave.meetMask lat d _)
  rw [State.wrote_wave]
  exact hput.retired (Wave.sameSpecials_next _ st)

/-- The word changes the issuing wave and uses up free values; nothing outside them changes. -/
theorem State.wrote_eq : s.wrote st lat d val fl
    = { s with wave := (s.wrote st lat d val fl).wave, fresh := (s.wrote st lat d val fl).fresh } :=
  State.finish_onWave_onWave s st true Wave.meetMask _

end Wrote

/-- Settles O5: the write reaches the active lanes through `Fibre.written`, and the rest of the wave through the
frame lemmas of the write and of the passage to the next word. -/
theorem resultPlaced : Obligations.ResultPlaced := by
  intro s st lat d val fl hact t on b
  have hspec := s.sameSpecials_wrote st lat d val fl
  refine ⟨?_, ?_, ?_, ?_, ?_, hspec.fpstat, hspec.retcnt, ?_, hspec.ctxcyc, hspec.fpctl, hspec.timer, hspec.tctl,
    hspec.tvec, hspec.tpc, hspec.tcause, hspec.tdet0, hspec.tdet1, hspec.tdet2, hspec.chk, hspec.wchg, hspec.sctx,
    hspec.d, hspec.g, hspec.handler, ?_⟩
  · exact s.reg_wrote st lat d val fl
  · exact s.pred_wrote st lat d val fl
  · exact fun m => s.sreg_wrote st lat d val fl m hact
  · exact s.tag_wrote st lat d val fl
  · exact fun q => s.quadTag_wrote st lat d val fl q hact
  · intro l
    obtain ⟨hbase, halloc, hframes, hslim, hrun, hfibid, hlvl⟩ := s.sameSeat_wrote st lat d val fl l
    exact ⟨hbase, halloc, hframes, hslim, hrun, hfibid, hlvl⟩
  · exact s.wrote_eq st lat d val fl

end Sys2Proof.Machine
end

section
/-!
### The steward's words (O25)

In user mode each of them goes through `State.stewardOnly`, which asks the mode before anything else.
In steward mode WTWAKE ends in `State.wakeEntry`: it may report failed records to the host
(`State.reported`, which writes memory and the window only), settles the wait-table entry, and wakes
every resident wave (`Wave.woken`).
-/

namespace Sys2Proof.Machine

open Sys2Proof

/-! #### The mode (18 R351) -/

theorem State.stewardOnly_of_steward {s : State} (h : s.wave.steward = true) (k : State → Out) :
    s.stewardOnly k = k s := if_pos h

theorem State.stewardOnly_of_user {s : State} (h : s.wave.steward = false) (k : State → Out) :
    s.stewardOnly k = s.decodeTrap 0x00D := by
  simp [State.stewardOnly, h]

theorem State.modeFor_of_user {s : State} {r : SysReg} (hr : r.isSteward = true) (h : s.wave.steward = false)
    (k : State → Out) : s.modeFor r k = s.decodeTrap 0x00D := by
  rw [State.modeFor, if_pos hr, State.stewardOnly_of_user h]

theorem State.tlbi_of_user {s : State} (h : s.wave.steward = false) (st : Stall) (sc : Scope) (u : Uses)
    (what : State → TlbiKind × Nat) : s.tlbi st sc u what = s.decodeTrap 0x00D :=
  State.stewardOnly_of_user h _

theorem State.decodeTrap_of_cur {s : State} {c : ClauseBuf} (h : s.wave.cur = some c) (code : Nat) :
    s.decodeTrap code = s.trapHere
      { group := 1, code := code, d0 := c.words.getD (c.indexOf s.wave.pc - 1) 0, d1 := c.hdr
        d2 := w32 (c.indexOf s.wave.pc) } (s.wave.setLanes.headD 0) := by
  simp [State.decodeTrap, h]

section Dispatch

variable (s : State) (st : Stall) (sc : Scope) (a b d : Reg) (a2 : BitVec 5) (r : SysReg)

theorem exec_tlbiPage : exec (.tlbiPage st sc a2 b) s = execTlbiPage st sc a2 b s := rfl

theorem exec_tlbiCtx : exec (.tlbiCtx st sc b) s = execTlbiCtx st sc b s := rfl

theorem exec_tlbiAll : exec (.tlbiAll st sc) s = execTlbiAll st sc s := rfl

theorem exec_wtwake : exec (.wtwake st a b) s = execWtwake st a b s := rfl

theorem exec_sfqheadWrite : exec (.sfqheadWrite st d) s = execSfqheadWrite st d s := rfl

theorem exec_srd : exec (.srd st d r) s = execSrd st d r s := rfl

theorem exec_swr : exec (.swr st d r) s = execSwr st d r s := rfl

end Dispatch

/-! #### Waking a fibre (18 R331) -/

theorem Fibre.setPred_v (f : Fibre) (p : Nat) (b : Bool) : (f.setPred p b).v = f.v := by
  unfold Fibre.setPred
  split <;> rfl

theorem Fibre.unpark_v (f : Fibre) : f.unpark.v = f.v := (Fibre.sameRegs_advance f.clause f).v

theorem Fibre.unpark_pred (f : Fibre) (p : Nat) : f.unpark.pred p = f.pred p :=
  (Fibre.sameRegs_advance f.clause f).pred p

theorem Fibre.wake_of_wait {f : Fibre} {tok : Word} (h : f.park = .wait tok) (ok : Bool) :
    f.wake tok ok = (f.setPred 15 ok).unpark := by
  simp [Fibre.wake, h]

theorem Fibre.wake_of_fault {f : Fibre} {tok : Word} {i : TrapInfo} {lead : Option Nat}
    (h : f.park = .fault tok i lead) (ok : Bool) :
    f.wake tok ok = f.reissue (if ok then none else some (i, lead)) := by
  simp [Fibre.wake, h]

theorem Fibre.wake_of_none {f : Fibre} (h : f.park = .none) (tok : Word) (ok : Bool) : f.wake tok ok = f := by
  simp [Fibre.wake, h]

/-- Waking writes no V register: it writes P15 at most. -/
theorem Fibre.wake_v (f : Fibre) (tok : Word) (ok : Bool) : (f.wake tok ok).v = f.v := by
  unfold Fibre.wake
  split
  · split
    · rw [Fibre.unpark_v, Fibre.setPred_v]
    · rfl
  · split <;> rfl
  · rfl
  · rfl

/-! #### Waking a wave -/

/-- A wave once the fibres that wait on a token have been woken. -/
def Wave.woken (w : Wave) (tok : Word) (ok : Bool) : Wave :=
  if w.hasParked then w.mapLanes (fun _ f => f.wake tok ok) else w

theorem Wave.woken_s (w : Wave) (tok : Word) (ok : Bool) : (w.woken tok ok).s = w.s := by
  unfold Wave.woken
  split <;> rfl

theorem Wave.woken_retcnt (w : Wave) (tok : Word) (ok : Bool) : (w.woken tok ok).retcnt = w.retcnt := by
  unfold Wave.woken
  split <;> rfl

theorem Wave.woken_lanes_length (w : Wave) (tok : Word) (ok : Bool) :
    (w.woken tok ok).lanes.length = w.lanes.length := by
  unfold Wave.woken
  split
  · exact Wave.mapLanes_lanes_length w _
  · rfl

theorem Wave.hasParked_of_fib {w : Wave} {l : Nat} (hl : l < w.lanes.length) (h : (w.fib l).run = .parked) :
    w.hasParked = true := by
  have hf : w.fib l = w.lanes[l] := by simp [Wave.fib, hl]
  exact List.any_eq_true.mpr ⟨w.lanes[l], List.getElem_mem hl, by simp [← hf, h]⟩

/-- A fibre of a wave in which none is parked stays as it is. -/
theorem Wave.fib_woken {w : Wave} {l : Nat} (hl : l < w.lanes.length) (tok : Word) (ok : Bool) :
    (w.woken tok ok).fib l = if w.hasParked then (w.fib l).wake tok ok else w.fib l := by
  unfold Wave.woken
  split
  · rw [Wave.fib_mapLanes, if_pos hl]
  · rfl

theorem Wave.fib_woken_of_parked {w : Wave} {l : Nat} (hl : l < w.lanes.length) (h : (w.fib l).run = .parked)
    (tok : Word) (ok : Bool) : (w.woken tok ok).fib l = (w.fib l).wake tok ok := by
  rw [Wave.fib_woken hl, if_pos (Wave.hasParked_of_fib hl h)]

section WokenLane

variable {w : Wave} {l : Nat} (hl : l < w.lanes.length) (tok : Word) (ok : Bool)
include hl

theorem Wave.woken_v : ((w.woken tok ok).fib l).v = (w.fib l).v := by
  rw [Wave.fib_woken hl]
  split
  · exact Fibre.wake_v _ tok ok
  · rfl

/-- A fibre that PWAIT parked goes on with the status in P15. -/
theorem Wave.woken_of_wait (hrun : (w.fib l).run = .parked) (h : (w.fib l).park = .wait tok) :
    ((w.woken tok ok).fib l).run = .running ∧ ((w.woken tok ok).fib l).park = .none
      ∧ ((w.woken tok ok).fib l).pred 15 = ok := by
  rw [Wave.fib_woken_of_parked hl hrun, Fibre.wake_of_wait h]
  exact ⟨rfl, rfl, by simp [Fibre.unpark_pred, Fibre.pred_setPred]⟩

/-- A fibre that a fault parked returns to its word, with a trap to take there after a failure. -/
theorem Wave.woken_of_fault {i : TrapInfo} {lead : Option Nat} (hrun : (w.fib l).run = .parked)
    (h : (w.fib l).park = .fault tok i lead) :
    ((w.woken tok ok).fib l).run = .running ∧ ((w.woken tok ok).fib l).park = .none
      ∧ ((w.woken tok ok).fib l).pc = (w.fib l).pc
      ∧ ((w.woken tok ok).fib l).wakeTrap = if ok then none else some (i, lead) := by
  rw [Wave.fib_woken_of_parked hl hrun, Fibre.wake_of_fault h]
  exact ⟨rfl, rfl, rfl, rfl⟩

theorem Wave.woken_of_none (h : (w.fib l).park = .none) : (w.woken tok ok).fib l = w.fib l := by
  rw [Wave.fib_woken hl, Fibre.wake_of_none h, ite_self]

end WokenLane

/-! #### Reports to the host (19 R354) -/

theorem State.wr_eq (s : State) (a : Nat) (bs : List Byte) :
    ∃ m u, s.wr a bs = { s with mem := m, unitTags := u } := by
  unfold State.wr
  simp only
  split
  · exact ⟨_, _, rfl⟩
  · exact ⟨_, s.unitTags, rfl⟩

/-- An event changes memory, the tags of the module tier's units and the management window, and nothing else. -/
theorem State.postEvent_eq (s : State) (kind ctx payload : Nat) :
    ∃ m u g, s.postEvent kind ctx payload = { s with mem := m, unitTags := u, mgmt := g } := by
  unfold State.postEvent
  simp only
  split
  · obtain ⟨m, u, h⟩ := s.wr_eq _ _
    exact ⟨m, u, _, by rw [h]⟩
  · exact ⟨s.mem, s.unitTags, _, rfl⟩

/-- The state once the records of an entry that fails have been reported. -/
def State.reported (s : State) (e : WtEntry) (ok : Bool) : State :=
  if ok then s else e.records.foldl (fun s r => s.unresolved r.1 r.2) s

theorem State.unresolvedAll_eq (rs : List (FaultRecord × Nat)) (s : State) :
    ∃ m u g, rs.foldl (fun s r => s.unresolved r.1 r.2) s = { s with mem := m, unitTags := u, mgmt := g } := by
  induction rs generalizing s with
  | nil => exact ⟨s.mem, s.unitTags, s.mgmt, rfl⟩
  | cons r rs ih =>
    obtain ⟨m, u, g, h⟩ := s.postEvent_eq 1 r.1.ctx (bits (fromBytes (r.1.bytes r.2)) 159 0)
    obtain ⟨m', u', g', h'⟩ := ih (s.unresolved r.1 r.2)
    refine ⟨m', u', g', h'.trans ?_⟩
    rw [State.unresolved, h]

theorem State.reported_eq (s : State) (e : WtEntry) (ok : Bool) :
    ∃ m u g, s.reported e ok = { s with mem := m, unitTags := u, mgmt := g } := by
  unfold State.reported
  split
  · exact ⟨s.mem, s.unitTags, s.mgmt, rfl⟩
  · exact State.unresolvedAll_eq e.records s

section Reported

variable (s : State) (e : WtEntry) (ok : Bool)

@[simp] theorem State.reported_wave : (s.reported e ok).wave = s.wave := by
  obtain ⟨m, u, g, h⟩ := s.reported_eq e ok
  rw [h]

@[simp] theorem State.reported_core : (s.reported e ok).core = s.core := by
  obtain ⟨m, u, g, h⟩ := s.reported_eq e ok
  rw [h]

@[simp] theorem State.reported_cores : (s.reported e ok).cores = s.cores := by
  obtain ⟨m, u, g, h⟩ := s.reported_eq e ok
  rw [h]

@[simp] theorem State.reported_die (d : Nat) : (s.reported e ok).die d = s.die d := by
  obtain ⟨m, u, g, h⟩ := s.reported_eq e ok
  rw [h]
  rfl

theorem State.reported_mem (h : ok = true ∨ e.records = []) : (s.reported e ok).mem = s.mem := by
  obtain hok | hrec := h
  · rw [State.reported, if_pos hok]
  · simp [State.reported, hrec]

end Reported

/-! #### The wait table (18 R329) -/

@[simp] theorem State.setDie_die (s : State) (d : Nat) (x : Die) : (s.setDie d x).die d = x := by
  show sget {} (sins s.dies d x) d = x
  rw [sget_sins, if_pos rfl]

theorem State.onWait_waits (s : State) (d idx : Nat) (f : WtEntry → WtEntry) :
    ((s.onWait d idx f).die d).waits = updateWhere (fun e => e.idx == idx) f (s.die d).waits := by
  simp [State.onWait]

theorem State.settleWait_waits (s : State) (d idx : Nat) :
    ((s.settleWait d idx).die d).waits
      = (s.die d).waits.filter (fun e => !(e.idx == idx && e.interest == 0 && e.state != .pending)) := by
  simp [State.settleWait]

/-- The interest that waves give back when a token is woken. -/
def State.interestBack (s : State) (tok : Word) : Nat := (s.allWaves.map (fun w => w.waiters tok)).sum

/-- An entry once it has been given its state. -/
def WtEntry.settled (e : WtEntry) (ok : Bool) (n : Nat) : WtEntry :=
  { e with state := if ok then .succeeded else .failed, interest := e.interest - n, records := [] }

theorem WtEntry.settled_not_pending (e : WtEntry) (ok : Bool) (n : Nat) : (e.settled ok n).state ≠ .pending := by
  cases ok <;> simp [WtEntry.settled]

/-! #### Waking an entry (18 R331, R333) -/

theorem State.wakeEntry_eq (s : State) (d : Nat) (e : WtEntry) (ok : Bool) :
    s.wakeEntry d e ok
      = (((s.reported e ok).onWait d e.idx (fun y => y.settled ok (s.interestBack (tokenOf d e)))).onWaves
          (fun w => w.woken (tokenOf d e) ok)).settleWait d e.idx := rfl

section WakeEntry

variable (s : State) (d : Nat) (e : WtEntry) (ok : Bool)

theorem State.wakeEntry_wave : (s.wakeEntry d e ok).wave = s.wave.woken (tokenOf d e) ok := by
  rw [State.wakeEntry_eq]
  show (s.reported e ok).wave.woken (tokenOf d e) ok = _
  rw [State.reported_wave]

theorem State.wakeEntry_coreWaves :
    (s.wakeEntry d e ok).core.waves = s.core.waves.map (fun w => w.woken (tokenOf d e) ok) := by
  rw [State.wakeEntry_eq]
  show (s.reported e ok).core.waves.map _ = _
  rw [State.reported_core]

theorem State.wakeEntry_cores :
    (s.wakeEntry d e ok).cores
      = s.cores.map (fun c => { c with waves := c.waves.map (fun w => w.woken (tokenOf d e) ok) }) := by
  rw [State.wakeEntry_eq]
  show (s.reported e ok).cores.map _ = _
  rw [State.reported_cores]

theorem State.wakeEntry_mem (h : ok = true ∨ e.records = []) : (s.wakeEntry d e ok).mem = s.mem := by
  rw [State.wakeEntry_eq]
  exact s.reported_mem e ok h

/-- The entry takes its state, gives back the interest and leaves the table when none is left: it is not pending any
more, so that the condition of `State.settleWait` on its state always holds. -/
theorem State.wakeEntry_waits :
    ((s.wakeEntry d e ok).die d).waits
      = ((s.die d).waits.map (fun y =>
          if y.idx = e.idx then y.settled ok (s.interestBack (tokenOf d e)) else y)).filter
        (fun y => !(y.idx == e.idx && y.interest == 0)) := by
  have hwaits : ((s.wakeEntry d e ok).die d).waits
      = (updateWhere (fun y => y.idx == e.idx) (fun y => y.settled ok (s.interestBack (tokenOf d e)))
          (s.die d).waits).filter (fun y => !(y.idx == e.idx && y.interest == 0 && y.state != .pending)) := by
    rw [State.wakeEntry_eq, State.settleWait_waits, ← s.reported_die e ok d, ← State.onWait_waits]
    rfl
  rw [hwaits]
  simp only [updateWhere, beq_iff_eq]
  refine List.filter_congr fun y hy => ?_
  obtain ⟨x, -, rfl⟩ := List.mem_map.mp hy
  by_cases hx : x.idx = e.idx
  · simp [hx, WtEntry.settled_not_pending]
  · simp [hx]

end WakeEntry

/-! #### WTWAKE -/

theorem State.met_cores (s : State) : s.met.cores = s.cores := State.onWave_cores s Wave.meetMask

theorem State.met_die (s : State) (d : Nat) : s.met.die d = s.die d := by
  rw [State.die, State.met, State.onWave_dies, State.die]

theorem State.met_anyToken (s : State) (tok : Word) : s.met.anyToken tok = s.anyToken tok := by
  simp only [State.anyToken, State.met_die]

@[simp] theorem State.finish_die (s : State) (st : Stall) (now : Bool) (d : Nat) :
    (s.finish st now).die d = s.die d := rfl

theorem State.finish_wave_s (s : State) (st : Stall) (now : Bool) : (s.finish st now).wave.s = s.wave.s :=
  (Wave.sameBut_next s.wave st).s

theorem State.met_interestBack (s : State) (tok : Word) : s.met.interestBack tok = s.interestBack tok := by
  simp only [State.interestBack, State.allWaves, State.met_cores, State.met_core, State.met_wave, List.cons_append,
    List.map_cons, Wave.waiters, Wave.meetMask_lanes]

section Wtwake

variable {s : State} (st : Stall) {a b : Reg} (hst : s.wave.steward = true)
  (hready : s.Ready { rs := [a.toNat, b.toNat] })
include hst hready

theorem execWtwake_of_stale (h : s.anyToken (s.met.readS a.toNat) = none) :
    execWtwake st a b s = .next (s.met.finish st true) := by
  rw [execWtwake, State.stewardOnly_of_steward hst, State.gate_of_ready hready]
  simp [hready.active, State.met_anyToken, h, State.retire]

theorem execWtwake_of_live {d : Nat} {e : WtEntry} (h : s.anyToken (s.met.readS a.toNat) = some (d, e)) :
    execWtwake st a b s
      = .next ((s.met.wakeEntry d e (decide (s.met.readS b.toNat = 0))).finish st true) := by
  rw [execWtwake, State.stewardOnly_of_steward hst, State.gate_of_ready hready]
  simp [hready.active, State.met_anyToken, h, State.retire]

end Wtwake

/-- In user mode each of the steward's words raises its decode fault before it reads anything (18 R351). -/
theorem stewardWords_trap_in_user (s : State) (st : Stall) (sc : Scope) (a b d : Reg) (a2 : BitVec 5) (r : SysReg)
    (hst : s.wave.steward = false) :
    exec (.tlbiPage st sc a2 b) s = s.decodeTrap 0x00D ∧ exec (.tlbiCtx st sc b) s = s.decodeTrap 0x00D
      ∧ exec (.tlbiAll st sc) s = s.decodeTrap 0x00D ∧ exec (.wtwake st a b) s = s.decodeTrap 0x00D
      ∧ exec (.sfqheadWrite st d) s = s.decodeTrap 0x00D
      ∧ (r.isSteward = true →
        exec (.srd st d r) s = s.decodeTrap 0x00D ∧ exec (.swr st d r) s = s.decodeTrap 0x00D) := by
  rw [exec_tlbiPage, exec_tlbiCtx, exec_tlbiAll, exec_wtwake, exec_sfqheadWrite, exec_srd, exec_swr]
  exact ⟨State.tlbi_of_user hst st sc _ _, State.tlbi_of_user hst st sc _ _, State.tlbi_of_user hst st sc _ _,
    State.stewardOnly_of_user hst _, State.stewardOnly_of_user hst _,
    fun hr => ⟨State.modeFor_of_user hr hst _, State.modeFor_of_user hr hst _⟩⟩

/-- Settles O25: every steward's word asks the mode first; WTWAKE of a live token is `State.wakeEntry`, which settles
the entry and wakes each wave. -/
theorem stewardWords : Obligations.StewardWords := by
  constructor
  · intro s st sc a b d a2 r c hst hcur n trap
    have htrap : s.decodeTrap 0x00D = trap := State.decodeTrap_of_cur hcur 0x00D
    rw [← htrap]
    exact stewardWords_trap_in_user s st sc a b d a2 r hst
  · intro s st a b hst hready tok ok n wakes
    rw [exec_wtwake]
    refine ⟨execWtwake_of_stale st hst hready, fun d e hlive htok => ?_⟩
    have hwakes (w : Wave) : wakes w (w.woken (tokenOf d e) ok) := by
      rw [htok]
      exact ⟨w.woken_lanes_length tok ok, fun l hl => ⟨Wave.woken_v hl tok ok, Wave.woken_of_wait hl tok ok,
        fun _ _ => Wave.woken_of_fault hl tok ok, Wave.woken_of_none hl tok ok⟩⟩
    refine ⟨_, execWtwake_of_live st hst hready hlive, ?_, ?_, ?_, ?_, ?_, ?_, ?_, ?_⟩
    · rw [State.finish_wave_s, State.wakeEntry_wave, Wave.woken_s, State.met_wave, Wave.meetMask_s]
    · simp [State.wakeEntry_wave, Wave.woken_retcnt]
    · intro hrec
      rw [State.finish_mem, s.met.wakeEntry_mem d e ok hrec, State.met_mem]
    · rw [State.finish_die, State.wakeEntry_waits, State.met_interestBack, State.met_die]
      rfl
    · simp [State.wakeEntry_coreWaves]
    · simp [State.wakeEntry_cores, State.met_cores]
    · intro i w v hw hv
      rw [State.finish_core, State.wakeEntry_coreWaves, List.getElem?_map, State.met_core, hw] at hv
      obtain rfl := Option.some.inj hv
      exact hwakes w
    · intro j i c c' w v hc hc' hw hv
      rw [State.finish_cores, State.wakeEntry_cores, List.getElem?_map, State.met_cores, hc] at hc'
      obtain rfl := Option.some.inj hc'
      rw [List.getElem?_map, hw] at hv
      obtain rfl := Option.some.inj hv
      exact hwakes w

end Sys2Proof.Machine
end

section
/-!
### NaNs, and the values that a format holds (O11)

A NaN operand decides an operation before its value does: the exact operations answer
`(.nan false, _)`, and `finish` gives the format's canonical code whatever the NaN was (04 R80).

A finite code is `F.significand a · 2 ^ F.exponent a`, where a subnormal has the exponent of the least
normal value (04 R78). Rounding takes that exponent for its quantum again: a normal significand has
exactly `F.f + 1` bits, and a subnormal one has fewer, so that the least quantum applies. The quotient
is then the significand, the remainder is 0, and the code is the one read (04 R88).
-/

namespace Sys2Proof.Machine

open Sys2Proof

/-! #### The kinds of an exact value -/

@[simp] theorem XReal.isNan_xdyadic (s : Bool) (n : Nat) (e : Int) : (xdyadic s n e).isNan = false := by
  unfold xdyadic
  split <;> rfl

@[simp] theorem XReal.isSig_xdyadic (s : Bool) (n : Nat) (e : Int) : (xdyadic s n e).isSig = false := by
  unfold xdyadic
  split <;> rfl

theorem XReal.isNan_eq_true_iff {x : XReal} : x.isNan = true ↔ ∃ g, x = .nan g := by
  cases x <;> simp [XReal.isNan]

theorem XReal.exists_eq_nan {x y : XReal} (h : x.isNan = true ∨ y.isNan = true) :
    ∃ g, x = .nan g ∨ y = .nan g := by
  obtain hx | hy := h
  · obtain ⟨g, rfl⟩ := XReal.isNan_eq_true_iff.mp hx
    exact ⟨g, .inl rfl⟩
  · obtain ⟨g, rfl⟩ := XReal.isNan_eq_true_iff.mp hy
    exact ⟨g, .inr rfl⟩

@[simp] theorem XReal.isNan_xneg (x : XReal) : (xneg x).isNan = x.isNan := by
  cases x <;> rfl

@[simp] theorem XReal.isSig_xneg (x : XReal) : (xneg x).isSig = x.isSig := by
  cases x <;> rfl

/-! #### The fields of a code of an IEEE format (04 R78) -/

/-- The sign of a code. -/
def FpFmt.sign (F : FpFmt) (a : Nat) : Bool := decide (F.signBit ≤ a % (2 * F.signBit))

/-- The code without its sign. -/
def FpFmt.magnitude (F : FpFmt) (a : Nat) : Nat := a % F.signBit

/-- The exponent field of a code. -/
def FpFmt.expField (F : FpFmt) (a : Nat) : Nat := F.magnitude a / 2 ^ F.f

/-- The fraction field of a code. -/
def FpFmt.fracField (F : FpFmt) (a : Nat) : Nat := F.magnitude a % 2 ^ F.f

/-- The fraction of a code with its hidden bit, which a subnormal does not have. -/
def FpFmt.significand (F : FpFmt) (a : Nat) : Nat :=
  if F.expField a = 0 then F.fracField a else 2 ^ F.f + F.fracField a

/-- The weight of the last bit of the significand, as a power of 2. -/
def FpFmt.exponent (F : FpFmt) (a : Nat) : Int := (max (F.expField a) 1 : Nat) - F.bias - F.f

section Fields

variable (F : FpFmt) (a : Nat)

theorem FpFmt.signBit_pos : 0 < F.signBit := Nat.two_pow_pos _

theorem FpFmt.fracField_lt : F.fracField a < 2 ^ F.f := Nat.mod_lt _ (Nat.two_pow_pos _)

theorem FpFmt.fracField_eq : F.fracField a = a % 2 ^ F.f :=
  Nat.mod_mod_of_dvd a (Nat.pow_dvd_pow 2 (Nat.le_add_left F.f F.w))

theorem FpFmt.expField_lt : F.expField a < 2 ^ F.w := by
  have h : F.magnitude a < F.signBit := Nat.mod_lt _ F.signBit_pos
  rw [FpFmt.signBit, Nat.pow_add] at h
  exact Nat.div_lt_of_lt_mul (by rwa [Nat.mul_comm])

theorem FpFmt.magnitude_eq : F.magnitude a = F.expField a * 2 ^ F.f + F.fracField a :=
  (Nat.div_add_mod' _ _).symm

/-- The exponent counts the quanta of the least normal value, so that a code is its exponent above that
one, scaled, and its significand. -/
theorem FpFmt.magnitude_eq_significand :
    F.magnitude a = (max (F.expField a) 1 - 1) * 2 ^ F.f + F.significand a := by
  rw [F.magnitude_eq a, FpFmt.significand]
  cases hE : F.expField a with
  | zero => simp
  | succ e => simp [Nat.succ_mul, Nat.add_assoc]

theorem FpFmt.exponent_sub : (F.exponent a - (1 - (F.bias : Int) - F.f)).toNat = max (F.expField a) 1 - 1 := by
  unfold FpFmt.exponent
  omega

variable {F a}

theorem FpFmt.code_of_sign (ha : a < 2 * F.signBit) :
    (if F.sign a then F.magnitude a + F.signBit else F.magnitude a) = a := by
  simp only [FpFmt.sign, FpFmt.magnitude, Nat.mod_eq_of_lt ha, decide_eq_true_eq]
  split
  next h => rw [Nat.mod_eq_sub_mod h, Nat.mod_eq_of_lt (by omega)]; omega
  next h => exact Nat.mod_eq_of_lt (by omega)

theorem signCode_sign_magnitude (hF : F.kind = .ieee) (ha : a < 2 * F.signBit) :
    signCode F (F.sign a) (F.magnitude a) = a := by
  simp [signCode, hF, FpFmt.code_of_sign ha]

theorem decodeFp_ieee (hF : F.kind = .ieee) :
    decodeFp F a = if F.expField a = 2 ^ F.w - 1
      then if F.fracField a = 0 then .inf (F.sign a)
        else .nan (decide (F.fracField a < 2 ^ (F.f - 1)) && decide (F.w + F.f ≠ 7))
      else if F.expField a = 0 then xdyadic (F.sign a) (F.fracField a) (1 - (F.bias : Int) - F.f)
      else xdyadic (F.sign a) (2 ^ F.f + F.fracField a) ((F.expField a : Int) - F.bias - F.f) := by
  simp only [decodeFp, hF, Nat.mod_mul_left_mod, true_and, reduceCtorEq, false_and, if_false]
  rfl

/-- The codes of the greatest exponent field are the infinities and the NaNs. -/
theorem decodeFp_of_expField_max (hF : F.kind = .ieee) (hE : F.expField a = 2 ^ F.w - 1) :
    decodeFp F a = if F.fracField a = 0 then .inf (F.sign a)
      else .nan (decide (F.fracField a < 2 ^ (F.f - 1)) && decide (F.w + F.f ≠ 7)) := by
  rw [decodeFp_ieee hF, if_pos hE]

/-- Every other code is its significand, scaled. -/
theorem decodeFp_of_expField_ne_max (hF : F.kind = .ieee) (hE : F.expField a ≠ 2 ^ F.w - 1) :
    decodeFp F a = xdyadic (F.sign a) (F.significand a) (F.exponent a) := by
  rw [decodeFp_ieee hF, if_neg hE, FpFmt.significand, FpFmt.exponent]
  split
  next h0 => simp [h0]
  next h0 => rw [Nat.max_eq_left (Nat.one_le_iff_ne_zero.mpr h0)]

end Fields

/-! #### Quiet and signalling NaNs (04 R80) -/

theorem fracField_lt_half_iff {F : FpFmt} (hf : 0 < F.f) (a : Nat) :
    F.fracField a < 2 ^ (F.f - 1) ↔ bit a (F.f - 1) = false := by
  obtain ⟨g, hg⟩ := Nat.exists_eq_succ_of_ne_zero (Nat.ne_of_gt hf)
  have hlt : a % 2 ^ g < 2 ^ g := Nat.mod_lt _ (Nat.two_pow_pos g)
  rw [F.fracField_eq, hg, Nat.succ_sub_one, bit, Nat.mod_pow_succ]
  obtain hbit | hbit := Nat.mod_two_eq_zero_or_one (a / 2 ^ g) <;> simp [hbit, hlt]

theorem decodeFp_isSig_of_isNan {F : FpFmt} {a : Nat} (hF : F.kind = .ieee) (hf : 0 < F.f) (h7 : F.w + F.f ≠ 7)
    (hnan : (decodeFp F a).isNan = true) : (decodeFp F a).isSig = !bit a (F.f - 1) := by
  by_cases hE : F.expField a = 2 ^ F.w - 1
  · rw [decodeFp_of_expField_max hF hE] at hnan ⊢
    by_cases hfrac : F.fracField a = 0
    · simp [hfrac, XReal.isNan] at hnan
    · simp [hfrac, XReal.isSig, h7, fracField_lt_half_iff hf]
  · simp [decodeFp_of_expField_ne_max hF hE] at hnan

theorem e5m2_isSig (a : Nat) : (decodeFp e5m2 a).isSig = false := by
  by_cases hE : e5m2.expField a = 2 ^ e5m2.w - 1
  · rw [decodeFp_of_expField_max rfl hE]
    split
    · rfl
    · simp [XReal.isSig, e5m2]
  · simp [decodeFp_of_expField_ne_max rfl hE]

theorem e4m3_isSig (a : Nat) : (decodeFp e4m3 a).isSig = false := by
  have hkind : e4m3.kind ≠ .ieee := by decide
  simp only [decodeFp, hkind, false_and, if_false]
  split
  · rfl
  · split <;> exact XReal.isSig_xdyadic _ _ _

/-! #### What a NaN operand gives (04 R80, 05 R107) -/

theorem roundFp_of_isNan {x : XReal} (h : x.isNan = true) (F : FpFmt) (m : RoundMode) :
    roundFp F m x = { code := F.nanCode, flags := 0 } := by
  obtain ⟨g, rfl⟩ := XReal.isNan_eq_true_iff.mp h
  rfl

theorem cvtFF_code_of_isNan {x : XReal} (h : x.isNan = true) (F : FpFmt) (m : RoundMode) (sat : Bool) :
    (cvtFF F m sat x).code = F.nanCode := by
  obtain ⟨g, rfl⟩ := XReal.isNan_eq_true_iff.mp h
  rfl

theorem finish_of_isNan {x : XReal} (h : x.isNan = true) (F : FpFmt) (m : RoundMode) (nv : Bool) :
    finish F m (x, nv) = { code := F.nanCode, flags := flagIf nv fNV } := by
  simp [finish, roundFp_of_isNan h]

section Operations

variable {x y : XReal} (h : x.isNan = true ∨ y.isNan = true)
include h

theorem xadd_of_isNan (m : RoundMode) : xadd m x y = (.nan false, x.isSig || y.isSig) := by
  obtain ⟨g, rfl | rfl⟩ := XReal.exists_eq_nan h
  · cases y <;> simp [xadd, XReal.isSig]
  · cases x <;> simp [xadd, XReal.isSig]

theorem xmul_of_isNan : xmul x y = (.nan false, x.isSig || y.isSig) := by
  obtain ⟨g, rfl | rfl⟩ := XReal.exists_eq_nan h
  · cases y <;> simp [xmul, XReal.isSig]
  · cases x <;> simp [xmul, XReal.isSig]

theorem xdiv_of_isNan : xdiv x y = (.nan false, x.isSig || y.isSig, false) := by
  obtain ⟨g, rfl | rfl⟩ := XReal.exists_eq_nan h
  · cases y <;> simp [xdiv, XReal.isSig]
  · cases x <;> simp [xdiv, XReal.isSig]

end Operations

/-- The result of an operation that reads a NaN: the canonical one, with NV for a signalling operand. -/
def nanResult (F : FpFmt) (x y : XReal) : Rounded :=
  { code := F.nanCode, flags := flagIf (x.isSig || y.isSig) fNV }

theorem nanResult_invalid (F : FpFmt) {x y : XReal} (h : x.isSig = true ∨ y.isSig = true) :
    bit (nanResult F x y).flags.toNat 0 = true := by
  simp only [nanResult, Bool.or_eq_true_iff.mpr h]
  rfl

section Codes

variable {F : FpFmt} {a b : Nat} (h : (decodeFp F a).isNan = true ∨ (decodeFp F b).isNan = true)
include h

theorem fpAdd_of_isNan (m : RoundMode) : fpAdd F m a b = nanResult F (decodeFp F a) (decodeFp F b) := by
  rw [fpAdd, xadd_of_isNan h, finish_of_isNan rfl, nanResult]

theorem fpSub_of_isNan (m : RoundMode) : fpSub F m a b = nanResult F (decodeFp F a) (decodeFp F b) := by
  rw [fpSub, xadd_of_isNan (by rwa [XReal.isNan_xneg]), finish_of_isNan rfl, XReal.isSig_xneg, nanResult]

theorem fpMul_of_isNan (m : RoundMode) : fpMul F m a b = nanResult F (decodeFp F a) (decodeFp F b) := by
  rw [fpMul, xmul_of_isNan h, finish_of_isNan rfl, nanResult]

theorem fpDiv_of_isNan (m : RoundMode) : fpDiv F m a b = nanResult F (decodeFp F a) (decodeFp F b) := by
  simp [fpDiv, xdiv_of_isNan h, finish_of_isNan (x := .nan false) rfl, nanResult, flagIf]

end Codes

theorem fpFma_code_of_isNan {F : FpFmt} {a b c : Nat} (m : RoundMode) (p q : Bool)
    (h : ((decodeFp F a).isNan = true ∨ (decodeFp F b).isNan = true) ∨ (decodeFp F c).isNan = true) :
    (fpFma F m p q a b c).code = F.nanCode := by
  have hoperand : (if p then xneg (xmul (decodeFp F a) (decodeFp F b)).1
        else (xmul (decodeFp F a) (decodeFp F b)).1).isNan = true
      ∨ (if q then xneg (decodeFp F c) else decodeFp F c).isNan = true := by
    obtain hab | hc := h
    · left
      rw [xmul_of_isNan hab]
      split <;> rfl
    · right
      split
      · rwa [XReal.isNan_xneg]
      · exact hc
  simp only [fpFma, xadd_of_isNan hoperand]
  rw [finish_of_isNan rfl]

theorem minMax_code_of_isNan {F : FpFmt} {a b : Nat} (ha : (decodeFp F a).isNan = true)
    (hb : (decodeFp F b).isNan = true) (mx : Bool) : (minMax F mx a b).code = F.nanCode := by
  simp [minMax, ha, hb]

/-- The functions of one FP32 operand (05 R111 to R116). -/
theorem unary_codes_of_isNan {a : Nat} (h : (decodeFp fp32 a).isNan = true) (m : RoundMode) :
    (fpSqrt fp32 m a).code = fp32.nanCode ∧ (fpRcp a).code = fp32.nanCode ∧ (fpRsq a).code = fp32.nanCode
      ∧ (fpExp2 a).code = fp32.nanCode ∧ (fpLog2 a).code = fp32.nanCode ∧ (fpRnd m a).code = fp32.nanCode := by
  obtain ⟨g, hg⟩ := XReal.isNan_eq_true_iff.mp h
  refine ⟨?_, ?_, ?_, ?_, ?_, ?_⟩
  · rw [fpSqrt, hg, xsqrt, finish_of_isNan rfl]
  · rw [fpRcp, hg]
  · rw [fpRsq, hg]
  · rw [fpExp2, hg]
  · rw [fpLog2, hg]
  · rw [fpRnd, hg]

/-! #### Rounding a multiple of the quantum (04 R88) -/

/-- The numerator of n · 2^e. -/
def dyadicNum (n : Nat) (e : Int) : Nat := if 0 ≤ e then n * 2 ^ e.toNat else n

/-- The denominator of n · 2^e. -/
def dyadicDen (e : Int) : Nat := if 0 ≤ e then 1 else 2 ^ (-e).toNat

theorem xdyadic_eq (s : Bool) (n : Nat) (e : Int) : xdyadic s n e = .fin s (dyadicNum n e) (dyadicDen e) := by
  unfold xdyadic dyadicNum dyadicDen
  split <;> rfl

theorem dyadicNum_eq_zero_iff (n : Nat) (e : Int) : dyadicNum n e = 0 ↔ n = 0 := by
  unfold dyadicNum
  split
  · rw [Nat.mul_eq_zero, or_iff_left (Nat.ne_of_gt (Nat.two_pow_pos _))]
  · exact Iff.rfl

theorem ilog2_two_pow (n k : Nat) (hn : n ≠ 0) : ilog2 n (2 ^ k) = (n.log2 : Int) - k := by
  have hlog : 2 ^ n.log2 ≤ n := Nat.log2_self_le hn
  simp only [ilog2, Nat.log2_two_pow]
  by_cases hk : k ≤ n.log2
  · have hge : 0 ≤ (n.log2 : Int) - k := by omega
    have he : ((n.log2 : Int) - k).toNat = n.log2 - k := by omega
    rw [if_pos hge, he, ← Nat.pow_add, Nat.add_sub_cancel' hk, decide_eq_true hlog, if_pos rfl]
  · have hlt : ¬ 0 ≤ (n.log2 : Int) - k := by omega
    have he : (-((n.log2 : Int) - k)).toNat = k - n.log2 := by omega
    have hle : 2 ^ k ≤ n * 2 ^ (k - n.log2) := calc
      2 ^ k = 2 ^ n.log2 * 2 ^ (k - n.log2) := by rw [← Nat.pow_add, Nat.add_sub_cancel' (by omega)]
      _ ≤ n * 2 ^ (k - n.log2) := Nat.mul_le_mul_right _ hlog
    rw [if_neg hlt, he, decide_eq_true hle, if_pos rfl]

theorem mul_two_pow_ne_zero {n : Nat} (hn : n ≠ 0) (k : Nat) : n * 2 ^ k ≠ 0 :=
  Nat.mul_ne_zero hn (Nat.ne_of_gt (Nat.two_pow_pos k))

theorem log2_mul_two_pow (n k : Nat) (hn : n ≠ 0) : (n * 2 ^ k).log2 = n.log2 + k := by
  rw [Nat.log2_eq_iff (mul_two_pow_ne_zero hn k), Nat.pow_add, Nat.add_right_comm, Nat.pow_add]
  exact ⟨Nat.mul_le_mul_right _ (Nat.log2_self_le hn),
    Nat.mul_lt_mul_of_pos_right Nat.lt_log2_self (Nat.two_pow_pos k)⟩

theorem ilog2_dyadic (n : Nat) (e : Int) (hn : n ≠ 0) : ilog2 (dyadicNum n e) (dyadicDen e) = n.log2 + e := by
  unfold dyadicNum dyadicDen
  split
  next he =>
    have h := ilog2_two_pow (n * 2 ^ e.toNat) 0 (mul_two_pow_ne_zero hn _)
    rw [log2_mul_two_pow n _ hn] at h
    rw [← Nat.pow_zero 2, h]
    omega
  next he =>
    rw [ilog2_two_pow n _ hn]
    omega

theorem roundsUp_exact (m : RoundMode) (s : Bool) (k d : Nat) (hd : 0 < d) : roundsUp m s k 0 d = false := by
  cases m <;> simp [roundsUp, Nat.ne_of_lt hd]

theorem roundQuantum_dyadic (m : RoundMode) (s : Bool) (n : Nat) (e : Int) :
    roundQuantum m s (dyadicNum n e) (dyadicDen e) e = (n, true) := by
  have hexact (p : Nat) :
      n * 2 ^ p / 2 ^ p = n ∧ n * 2 ^ p % 2 ^ p = 0 ∧ roundsUp m s n 0 (2 ^ p) = false :=
    ⟨Nat.mul_div_cancel n (Nat.two_pow_pos p), Nat.mul_mod_left n (2 ^ p),
      roundsUp_exact m s n _ (Nat.two_pow_pos p)⟩
  unfold roundQuantum dyadicNum dyadicDen
  split <;> simp [hexact]

/-! #### A value that the format holds -/

section Held

variable {F : FpFmt} {a : Nat}

/-- Where the logarithm of the significand puts the quantum: above the least one only for a significand
with its hidden bit, and then at the exponent of the code. -/
theorem quantum_of_significand (hn : F.significand a ≠ 0) :
    (if ((F.significand a).log2 + F.exponent a - F.f : Int) < 1 - (F.bias : Int) - F.f
      then 1 - (F.bias : Int) - F.f else (F.significand a).log2 + F.exponent a - F.f) = F.exponent a := by
  have hfrac := F.fracField_lt a
  by_cases h0 : F.expField a = 0
  · have hsig : F.significand a = F.fracField a := if_pos h0
    have hlog : (F.significand a).log2 < F.f := (Nat.log2_lt hn).mpr (hsig ▸ hfrac)
    rw [FpFmt.exponent, h0]
    split <;> omega
  · have hsig : F.significand a = 2 ^ F.f + F.fracField a := if_neg h0
    have hlog : (F.significand a).log2 = F.f := by
      rw [Nat.log2_eq_iff hn, hsig, Nat.pow_succ]
      omega
    rw [hlog, FpFmt.exponent]
    split <;> omega

theorem FpFmt.magnitude_le_maxCode (hF : F.kind = .ieee) (hE : F.expField a ≠ 2 ^ F.w - 1) :
    F.magnitude a ≤ F.maxCode := by
  have hexp := F.expField_lt a
  have hle : (F.expField a + 1) * 2 ^ F.f ≤ F.infCode := Nat.mul_le_mul_right _ (by omega)
  have hfrac := F.fracField_lt a
  rw [Nat.succ_mul] at hle
  simp only [FpFmt.maxCode, hF]
  rw [F.magnitude_eq a]
  omega

theorem roundFp_finite (m : RoundMode) (hF : F.kind = .ieee) (hE : F.expField a ≠ 2 ^ F.w - 1)
    (ha : a < 2 * F.signBit) :
    roundFp F m (xdyadic (F.sign a) (F.significand a) (F.exponent a)) = { code := a, flags := 0 } := by
  have hmag := F.magnitude_eq_significand a
  rw [xdyadic_eq]
  by_cases hn : F.significand a = 0
  · have hzero : F.magnitude a = 0 := by
      have hexp : F.expField a = 0 := by
        refine Decidable.byContradiction fun h0 => ?_
        rw [FpFmt.significand, if_neg h0] at hn
        exact Nat.ne_of_gt (Nat.two_pow_pos F.f) (Nat.add_eq_zero_iff.mp hn).1
      rw [hmag, hn, hexp]
      simp
    simp only [roundFp, dyadicNum_eq_zero_iff, hn, if_true]
    rw [← hzero, signCode_sign_magnitude hF ha]
  · have hmax := Nat.not_lt.mpr (FpFmt.magnitude_le_maxCode hF hE)
    simp only [roundFp, dyadicNum_eq_zero_iff, hn, if_false, ilog2_dyadic _ _ hn, quantum_of_significand hn,
      roundQuantum_dyadic, FpFmt.exponent_sub, ← hmag, hmax, signCode_sign_magnitude hF ha]
    simp [flagIf]

theorem roundFp_infinite (m : RoundMode) (hF : F.kind = .ieee) (hE : F.expField a = 2 ^ F.w - 1)
    (hfrac : F.fracField a = 0) (ha : a < 2 * F.signBit) :
    roundFp F m (.inf (F.sign a)) = { code := a, flags := 0 } := by
  have hmag : F.magnitude a = F.infCode := by
    rw [F.magnitude_eq a, hE, hfrac]
    rfl
  simp only [roundFp, hF]
  rw [← hmag, signCode_sign_magnitude hF ha]

theorem roundFp_decodeFp (m : RoundMode) (hF : F.kind = .ieee) (ha : a < 2 * F.signBit)
    (hnan : (decodeFp F a).isNan = false) : roundFp F m (decodeFp F a) = { code := a, flags := 0 } := by
  by_cases hE : F.expField a = 2 ^ F.w - 1
  · rw [decodeFp_of_expField_max hF hE] at hnan ⊢
    by_cases hfrac : F.fracField a = 0
    · rw [if_pos hfrac]
      exact roundFp_infinite m hF hE hfrac ha
    · simp [hfrac, XReal.isNan] at hnan
  · rw [decodeFp_of_expField_ne_max hF hE]
    exact roundFp_finite m hF hE ha

end Held

/-- The four formats with signalling NaNs (04 R80) are IEEE formats of more than 8 bits. -/
theorem FpFmt.ieee_of_mem {F : FpFmt} (h : F ∈ [fp64, fp32, fp16, bf16]) :
    F.kind = .ieee ∧ 0 < F.f ∧ F.w + F.f ≠ 7 := by
  revert F
  decide

/-- Settles O11: a NaN operand gives `nanResult`, and a held value's quantum is its own exponent. -/
theorem nanAndRounding : Obligations.NanAndRounding := by
  refine ⟨by decide, ?_, ?_, ?_, ?_, ?_, ?_⟩
  · intro F a hF hnan
    obtain ⟨hkind, hf, h7⟩ := FpFmt.ieee_of_mem hF
    exact decodeFp_isSig_of_isNan hkind hf h7 hnan
  · intro F a hF
    obtain rfl | rfl : F = e5m2 ∨ F = e4m3 := by simpa using hF
    · exact e5m2_isSig a
    · exact e4m3_isSig a
  · intro F m sat x _ hnan
    exact ⟨by rw [roundFp_of_isNan hnan], cvtFF_code_of_isNan hnan F m sat⟩
  · intro F m a b c p q mx _ hnan
    rw [fpAdd_of_isNan hnan, fpSub_of_isNan hnan, fpMul_of_isNan hnan, fpDiv_of_isNan hnan]
    refine ⟨rfl, rfl, rfl, rfl, fpFma_code_of_isNan m p q (.inl hnan),
      fun ha hb => minMax_code_of_isNan ha hb mx, fun hsig => ?_⟩
    have hnv := nanResult_invalid F hsig
    exact ⟨hnv, hnv, hnv⟩
  · exact fun m a hnan => unary_codes_of_isNan hnan m
  · intro F m a hF ha hnan
    exact roundFp_decodeFp m (FpFmt.ieee_of_mem hF).1 ha hnan

end Sys2Proof.Machine
end

section
/-!
### A packet written over a barrier object (O42)

Where RANK writes its packet, the write is a plain write of the Vat, so that every fibre with a park record on a
barrier object among its bytes tests again before the order is delivered, and one that passes runs on. The statement
asks on the state before that write whether a lane has ended, and no hypothesis of it rules out that an ended fibre
still holds such a record, as `endedParked` does: the packet's first two bytes become the phase 1 of the object, the
record's phase 0 has passed, and RANK delivers to a lane that had ended.
-/

namespace Sys2Proof.Machine

open Sys2Proof

/-- A fibre that waits for phase 0 of the object at Vat offset 0. -/
def parkedFibre : Fibre := { present := true, run := .parked, park := .barrier 8 0 0 .group true }

/-- The same fibre marked as ended, its park record left. -/
def endedParked : Fibre := { parkedFibre with run := .ended }

/-- A RANK of one lane that keeps none of the order and writes its packet of eight bytes, L = 1 and T = 0, at Vat
offset 0: lane 0 is to receive 0xFFFF in V9. -/
def rankOverBarrier : ArrayCmd :=
  { op := .rank 0x00080000 0 0 8 9, wid := 1, group := some 1, ctr := some 4, stamp := 5, bases := [(0, 0)] }

/-- The command stands at the front of the array's queue, and its write of V9 in lane 0 is pending. -/
def rankOverBarrierState : State :=
  { State.reset with
    wave := { wid := 1, group := some 1, g := 2, lanes := [endedParked, parkedFibre], d := [(4, 1)],
              engW := [(5, .v, 0, 9)] }
    core := { arrayQ := [rankOverBarrier] }
    cores := []
    groups := [{ id := 1, size := 256 }] }

theorem rankOverBarrier_front : rankOverBarrierState.Front rankOverBarrier [] :=
  ⟨rfl, rfl, rfl, fun _ => by decide⟩

/-- No region is mapped, so that the packet's range has no granule to fill. -/
theorem rankOverBarrier_fills :
    rankOverBarrierState.fillRanges rankOverBarrier 1 [(0, packetBytes 0)] = .ok rankOverBarrierState := rfl

theorem rankOverBarrier_lane_ended : (rankOverBarrierState.wave.fib 0).alive = false := rfl

/-- The write of the packet sets the ended fibre running before the order is delivered, so that its lane receives the
0xFFFF of a place at or past T. -/
theorem rankOverBarrier_delivers : rankOverBarrierState.arrayComplete.wave.held .v 0 9 = 0xFFFF := by decide

theorem exec_engineCommandComplete_array (s : State) :
    exec (.engineCommandComplete .array) s = .next s.arrayComplete := rfl

/-- Refutes O42: `rankOverBarrierState`'s lane 0 has ended, so V9 of it should keep 0, and RANK writes 0xFFFF there,
because its packet has set the lane's fibre running first. -/
theorem not_labelAndRankWordsQueued : ¬ Obligations.LabelAndRankWordsQueued := by
  intro h
  obtain ⟨hrank, -⟩ := h.2 rankOverBarrierState rankOverBarrier [] rankOverBarrier_front ⟨_, .head _, rfl⟩
  obtain ⟨t, hexec, -, -, hlands, -⟩ :=
    hrank 0x00080000 0 0 8 9 rankOverBarrierState rfl (by decide) rankOverBarrier_fills
  rw [exec_engineCommandComplete_array] at hexec
  obtain rfl := Host.Outcome.next.inj hexec
  have hkept := hlands.results rfl (.v, 0, 9, 0xFFFF) (.head _) (by decide) (by decide) (by decide)
  rw [rankOverBarrier_lane_ended, Bool.and_false, rankOverBarrier_delivers] at hkept
  exact absurd hkept (by decide)

end Sys2Proof.Machine
end
